-- ==== Sys2Proof/Word.lean ====
section
/-!
DEFINITION. The word types of the Arnak 576: bytes, 32-byte words of a column (R14, R25), 64-byte host lines, 256-byte
tiles and node numbers (R6, R499). All multi-byte quantities are little-endian (R6).
-/
namespace Sys2Proof

/-- Eight bits. -/
abbrev Byte := BitVec 8
/-- A scalar register, a parameter or an FP32 lane. -/
abbrev W32 := BitVec 32
/-- A 64-bit register of BAR0. -/
abbrev W64 := BitVec 64
/-- The 32-byte word of a bank column. -/
abbrev Word := BitVec 256
/-- A 64-byte host line. -/
abbrev Line := BitVec 512
/-- A 256-byte tile: eight words. -/
abbrev Tile := BitVec 2048
/-- A node number of the fabric: X + 64 Y + 4096 Z. -/
abbrev Node := BitVec 18
/-- The 272 wires of a vertical path: 256 data wires, then 16 check wires (R95). -/
abbrev Wires := BitVec 272

end Sys2Proof
end

