-- ==== Sys2Proof/Syntax.lean ====
section
/-!
DEFINITION. The commands of spec/opcode_table.json, one constructor for each row, with the operands that the row's rule gives it.
A command that names queued work (a submission entry, a scalar word, a delivered flit) names only the place it waits in.
-/
namespace Sys2Proof

/-- The MetaValue of a CXL.mem request (R382). -/
inductive MetaValue where
  | noOp | invalid | any | shared
  deriving DecidableEq, Repr

/-- An HDM decoder as the host writes it (R379). -/
structure HdmDecoder where
  base : Nat
  size : Nat
  skip : Nat
  ways : Nat
  gran : Nat
  position : Nat
  lock : Bool
  deriving DecidableEq, Repr

/-- What an ATS translation completion reports (R288). -/
inductive AtsResult where
  /-- the page translated, its permissions, and its size: `size` doublings of 4 KiB -/
  | ok (translated : Nat) (read write : Bool) (size : Nat)
  | notPresent
  | error
  deriving DecidableEq, Repr

/-- The two IDE streams (R401). -/
inductive IdeStream where
  | io | mem
  deriving DecidableEq, Repr

/-- A parity check that fails on the way of a transfer (R120): its header's or a data word's, and on which hop, counted from the column. -/
structure XbarFault where
  header : Bool
  hop : Nat
  deriving DecidableEq, Repr

/-- A flit as it arrives, decrypted (R346): header, payload (zero for a short flit), trailer; and the parity check that it fails on its way to the
endpoint inside the module that it is delivered to, if any (R120). `buf` is the input buffer, port and channel, that holds it inside the module; `rchk`
the region that the descriptor of the flit's entry names under RCHK, which the target checks (R360) and for which R347 has no place in the header. -/
structure Flit where
  hdr : BitVec 128
  payload : Tile
  trl : BitVec 128
  par : Option XbarFault := none
  buf : Option (Nat × Nat) := none
  rchk : Option Nat := none
  deriving DecidableEq, Repr

/-! ## Bank columns and their sequencers (R46 to R64) -/

/-- The service classes of R50, in the order of TMC_ERRLOG.CLASS. -/
inductive Cls where
  | paced | host | fabric | upkeep
  deriving DecidableEq, Repr

/-- Bits `src` to `src + len - 1` of a word that go to bits `dst` on of a tile. -/
structure Place where
  src : Nat
  dst : Nat
  len : Nat
  deriving DecidableEq, Repr

/-- Where the outcome of a column request goes. -/
inductive ReqSrc where
  /-- half of a host line read: tag, and true for the upper word -/
  | host (tag : Nat) (half : Bool)
  /-- half of a host line write: tag, and true for the upper word, whose queuing gives Cmp (R380) -/
  | hostWrite (tag : Nat) (half : Bool)
  /-- a word of a tile: core, queue, entry, positions -/
  | queue (core q ent : Nat) (places : List Place)
  /-- a store of an output tile: core, access word -/
  | drain (core word : Nat)
  /-- a word of an index tensor or a side table: core, access word -/
  | index (core word : Nat)
  /-- a word of a batch: DMA channel -/
  | chan (k : Nat)
  /-- a word of a command: window -/
  | window (w : Nat)
  /-- a get, put or atomic add of another module: node, its transaction, its issuing core, the link die it comes by -/
  | remote (node tx core die : Nat)
  /-- a record of a derailleur spill list: hub -/
  | spill (hub : Nat)
  /-- the memory fill: times the word has been reissued (R73) -/
  | fill (tries : Nat)
  /-- the patrol (R111) -/
  | scrub
  /-- the module's own upkeep: patch rewrites, snapshot and restore -/
  | upkeep
  deriving DecidableEq, Repr

/-- What a column request does. A write carries 32 bytes, a byte mask and a poison mark; an atomic add carries an element type
(ETYPE of R347) and addends. -/
inductive ColOp where
  | read
  | write (data : Word) (mask : BitVec 32) (poison : Bool)
  | atomic (etype : Nat) (data : Word)
  deriving DecidableEq, Repr

/-- A request to one word of one column; `req` is the REQ argument of its events (R505). -/
structure ColReq where
  col : Fin 512
  word : Nat
  cls : Cls
  op : ColOp
  src : ReqSrc
  req : Nat
  deriving DecidableEq, Repr

/-- A request as it reaches a sequencer port, with the parity check that it fails on the way, if any (R120). -/
structure SeqArrival where
  req : ColReq
  par : Option XbarFault := none
  deriving DecidableEq, Repr

/-- What the outside gives a column slot: the requests whose array timing is met (R71, R72), and what the read half of a read-modify-write meets on
its transfer. -/
structure SlotInput where
  ready : List Nat
  flips : Wires
  shadow : BitVec 16
  deriving DecidableEq, Repr

/-- The MetaValue of a host request (R382), with the parity check that the request fails on the way to its column, if any (R120). -/
structure HostMeta where
  mv : MetaValue
  par : Option XbarFault := none
  deriving DecidableEq, Repr

/-- A block of a DMA entry that completes, with the parity check that it fails on the way, if any (R120). -/
structure BlockEnd where
  block : Nat
  par : Option XbarFault := none
  deriving DecidableEq, Repr

/-- A derailleur entry whose next round has been refilled, with the slots whose records the spill list gives poisoned (R116). -/
structure Refill where
  ent : Fin 256
  bad : List (Fin 4096) := []
  deriving DecidableEq, Repr

/-- Where a signal comes from: SRC, CORE, NODE and ADDR of SYNC_LAST (R315). -/
structure SigSource where
  src : Nat
  core : Nat
  node : Nat
  addr : Nat
  deriving DecidableEq, Repr

/-- A unit with a credit-deadlock detector (R309). -/
inductive CreditUnit where
  | core (c : Fin 64)
  | chan (k : Fin 32)
  deriving DecidableEq, Repr

/-- The outcome of a link handshake (R369, R371): what this side found of the neighbour. -/
structure LinkPeer where
  chainOk : Bool
  sigOk : Bool
  ownerOk : Bool
  keyId : BitVec 64
  node : Node
  nodeValid : Bool
  /-- the sequence number of the last flit the neighbour has delivered (R466) -/
  last : BitVec 12
  deriving DecidableEq, Repr

/-- The outcome of port training (R342, R344): lanes that lock, the reach class of the cage (0 to 2, 3 unsupported), FEC_MIN of
the neighbour, whether training ended well. -/
structure TrainResult where
  ok : Bool
  lanes : BitVec 4
  reach : Fin 4
  fecPeer : Fin 3
  deriving DecidableEq, Repr

/-- A register or memory access by the sideband or the test connector (R488): 0 registers, live view, 1 registers, latched view, 2 SRAM, 3 arrays. -/
structure DebugAccess where
  write : Bool
  space : Fin 4
  addr : Nat
  size : Nat
  value : BitVec 64
  deriving DecidableEq, Repr

/-- An SPDM request (R421): GET_CERTIFICATE, GET_MEASUREMENTS of one index, CHALLENGE with a nonce, a session for IDE_KM. -/
inductive SpdmReq where
  | getCertificate
  | getMeasurements (index : Nat) (nonce : BitVec 256)
  | challenge (nonce : BitVec 256)
  | keyExchange
  deriving DecidableEq, Repr

/-- An owner record without its tag (R414). -/
structure OwnerRec where
  epoch : Nat
  policy : BitVec 4
  /-- bytes of the record after POLICY: the owner key and the image keys -/
  body : List Byte
  nkeys : Nat
  deriving DecidableEq, Repr

/-- Firmware as it is supplied (R405): the bytes of a slot. -/
structure Firmware where
  bytes : List Byte
  deriving DecidableEq, Repr

/-- What a start finds outside the module or in its parts (R454, R459): the strap pins, whether the engine self-test, each slot's
signatures and digests, the identity certificate and the PLL are good, domains that do not come up, (column, level) pairs whose training or
fill or verification fails, towers and other domains failing self-test, the trims that training finds, whether the host link trains. -/
structure StartInputs where
  slotId : BitVec 4
  originN : Bool
  bist : Bool
  sigA : Bool
  sigB : Bool
  idOk : Bool
  domainsBad : List (Fin 30)
  pllOk : Bool
  trainBad : List (Fin 512 × Fin 6)
  trims : List (Fin 512 × Nat × Nat)
  fillBad : List (Fin 512 × Fin 6)
  testBad : List (Fin 30)
  /-- ports whose lanes train, with what their neighbours show (R342, R369) -/
  ports : List (Fin 8 × TrainResult × LinkPeer)
  deriving DecidableEq, Repr

/-- A detected fault of an SRAM (R119): its kind as the SRAM argument of R504 numbers it, the owning unit, the byte offset, and whether
more than one bit is wrong. -/
structure SramFault where
  kind : Fin 9
  unit : Nat
  off : Nat
  multi : Bool
  deriving DecidableEq, Repr

/-- A word read from a calibration row (R86, R90): level, place in the row, inverted wires, and what the shadow sampler saw wrong (16 wires). -/
structure BurstRead where
  level : Fin 6
  word : Fin 32
  flips : BitVec 272
  shadow : BitVec 16
  deriving DecidableEq, Repr

/-- Core configuration, descriptor, instruction memory, parameter, sync and stream sections of one core (R319). -/
structure CoreConf where
  core : Nat
  fuse : Nat
  compat : Bool
  execBase : Nat
  accBase : Nat
  wdMs : Nat
  wdEn : Bool
  dlPeriod : Nat
  seed : W32
  staging : Option Nat
  scalarCode : Bool
  imem : List (Nat × Byte)
  descs : List (Nat × BitVec 512)
  routes : List (Nat × BitVec 64)
  recs : List (Nat × BitVec 512)
  params : List (Nat × W32)
  sync : List (Nat × W32)
  slots : List (Nat × Nat × Nat)
  deriving DecidableEq, Repr

/-- A barrier of the image (R301). -/
structure BarConf where
  bar : Nat
  parts : Nat
  home : Bool
  parent : Nat
  children : Nat
  deriving DecidableEq, Repr

/-- A reduction channel (R258): cluster, channel, sending and receiving engines, operation, stages. -/
structure RedConf where
  cluster : Nat
  chan : Nat
  senders : List Nat
  receivers : List Nat
  op : Nat
  stages : Nat
  deriving DecidableEq, Repr

/-- A local expert (R174). -/
structure ExpConf where
  entry : Nat
  cap : Nat
  clusters : List Nat
  ibuf : Nat
  sreg : Nat
  preg : Nat
  done : Nat
  ready : Nat
  consumers : Nat
  deriving DecidableEq, Repr

/-- The dispatch tables (R174): routes (expert, home node, local entry), local experts, local producer cores, peers, epoch limit. -/
structure DispConf where
  routes : List (Nat × Nat × Nat)
  experts : List ExpConf
  producers : Nat
  peers : List Nat
  limit : Nat
  deriving DecidableEq, Repr

/-- What an image declares (R318, R319): header fields and DIGEST, which a load reads from the image's bytes, and the sections whose byte layout
the spec leaves to Usgon. -/
structure ImgConf where
  topGear : Nat
  cool : Bool
  snapSlots : Nat
  wcet : Nat
  lapMask : BitVec 64
  digest : BitVec 512
  cores : List CoreConf
  red : List RedConf
  bars : List BarConf
  /-- column, mask, activation window -/
  rsv : List (Nat × BitVec 64 × Nat)
  disp : Option DispConf
  deriving DecidableEq, Repr

/-- An image as read from host memory (R317): its bytes, whether the KEY_ID of its signature block is that of an enrolled image key and the
signature verifies under it (R415), and what its sections hold. -/
structure Image where
  bytes : List Byte
  sigOk : Bool
  conf : ImgConf
  deriving DecidableEq, Repr

/-- The commands (spec/opcode_table.json). -/
inductive Instr where
  /-- REGISTER_WRITE (R7): A BAR0 write to a register that has no row of its own stores, clears or sets its fields by access type and ignores reserved and RO bits. -/
  | registerWrite (off : BitVec 25) (size : Nat) (value : BitVec 64)
  /-- HOST_MEM_READ (R380): A host CXL.mem read of one 64-byte line is decoded through the HDM decoders and the installed region map and served by the owning sequencer. -/
  | hostMemRead (hpa : BitVec 52) (tag : BitVec 16) (mv : HostMeta)
  /-- HOST_MEM_WRITE (R380): A host CXL.mem write of one whole line is decoded and queued at its sequencer, and completes with Cmp once queued. -/
  | hostMemWrite (hpa : BitVec 52) (tag : BitVec 16) (mv : HostMeta) (data : Line) (poison : Bool)
  /-- HDM_DECODER_COMMIT (R379): The host commits an HDM decoder, which is checked and may be locked until conventional reset. -/
  | hdmDecoderCommit (n : Fin 4) (dec : HdmDecoder)
  /-- BIRSP_RECEIVE (R382): A BIRsp from the host ends a back-invalidation, updates the filter entry and lets the held access or eviction proceed. -/
  | birspReceive (line : BitVec 40) (dirty : Option Line) (keep : Bool)
  /-- HOST_IO_COMPLETION (R287): A CXL.io completion returns data or an acknowledgement for an engine access to a host-backed region. -/
  | hostIoCompletion (id : Nat) (data : List Byte) (ok : Bool)
  /-- ATS_TRANSLATION_COMPLETION (R288): An ATS translation completion arrives and either lets the host-memory access proceed or reports a page not present or without permission. -/
  | atsTranslationCompletion (page : BitVec 52) (result : AtsResult)
  /-- PAGE_GROUP_RESPONSE (R288): The host's Page Group Response resumes the waiting transfer from its restart point, or stops it on failure. -/
  | pageGroupResponse (page : BitVec 52) (ok : Bool)
  /-- ATS_INVALIDATE (R286): The host invalidates translations, and the module completes once every request under them has completed. -/
  | atsInvalidate (page : BitVec 52) (pages : Nat)
  /-- IDE_CHECK_FAILED (R400): An IDE integrity failure puts the stream into the Insecure state and reports AER IDE Check Failed. -/
  | ideCheckFailed (stream : IdeStream)
  /-- IDE_KM_KEY_PROG (R401): IDE_KM over an SPDM session sets the keys of the CXL.io or CXL.mem IDE stream. -/
  | ideKmKeyProg (stream : IdeStream) (key : BitVec 256)
  /-- SPDM_REQUEST (R421): An SPDM 1.3 request over DOE or MCTP is answered with certificates, measurements or a signed response. -/
  | spdmRequest (viaDoe : Bool) (req : SpdmReq)
  /-- SQ_DOORBELL (R387): A write of SQ_TAIL rings a window's doorbell, and the module fetches the new submission entries, or ignores an invalid tail and sets SQ_ERR. -/
  | sqDoorbell (w : Fin 16) (tail : BitVec 12)
  /-- CQ_HEAD_WRITE (R402): The host writes CQ_HEAD to consume completion entries, freeing CQ room and result buffers, or the write is ignored and sets SQ_ERR. -/
  | cqHeadWrite (w : Fin 16) (head : BitVec 12)
  /-- WINDOW_ENABLE (R402): A write of EN = 1 starts a window fetching commands, or is refused with BASE_ERR if a queue lies outside a suitable region. -/
  | windowEnable (w : Fin 16)
  /-- WINDOW_DISABLE (R402): A write of EN = 0 lets the running command complete and then zeroes the window's indices, unless it is the lap window of a running image. -/
  | windowDisable (w : Fin 16)
  /-- COMPLETION_WRITE (R394): A completion entry is written to the CQ once room exists, all fields before PHASE. -/
  | completionWrite (w : Fin 16)
  /-- LOAD_IMAGE (R321): The LOAD_IMAGE command resets every core and starts reading an image from host memory into the image area of the reserve. -/
  | loadImage (w : Fin 16)
  /-- IMAGE_READ_COMPLETE (R321): When the image read ends, the module checks header, sections, signature, capacity and configuration, then configures the units and installs the map, or fails the load. -/
  | imageReadComplete (img : Image)
  /-- IMAGE_UNLOAD (R322): LOAD_IMAGE with length 0 resets every core, clears LOCK and the page table root, and leaves the state EMPTY. -/
  | imageUnload (w : Fin 16)
  /-- START (R328): START initialises the image's registers, tables and counters, puts reservation masks in force and launches the scalar processors. -/
  | start (w : Fin 16)
  /-- STOP (R333): STOP without FORCE sets PEND_STOP so the image stops at the next lap boundary. -/
  | stop (w : Fin 16)
  /-- STOP_FORCE (R333): STOP with FORCE holds every core and stops the image at once. -/
  | stopForce (w : Fin 16)
  /-- STOP_TIMEOUT (R333): If no lap boundary occurs within LAP_WCET plus 10 ms of a STOP or SNAPSHOT, the command completes with status 0x34 and the image runs on. -/
  | stopTimeout
  /-- SNAPSHOT (R335): SNAPSHOT names a slot and marks a snapshot pending for the next lap boundary, optionally with STOP_AFTER. -/
  | snapshot (w : Fin 16)
  /-- PREEMPT_QUIESCED (R335): Once issued traffic has ended after a stop or snapshot hold, the module writes the snapshot or resets the cores. -/
  | preemptQuiesced
  /-- RESTORE (R337): RESTORE writes a valid slot's state back, sets the lap number and restarts every core where it stood. -/
  | restore (w : Fin 16)
  /-- PATCH_PARAMS (R332): PATCH_PARAMS reads a patch list and queues all its entries for application at target laps, or none. -/
  | patchParams (w : Fin 16)
  /-- FILL (R390): FILL checks a range against the map and writes an 8-byte pattern over it as UPKEEP writes. -/
  | fill (w : Fin 16)
  /-- COPY (R202): COPY moves a tensor between two descriptors read from device memory, in the element order of the destination. -/
  | copy (w : Fin 16)
  /-- TRANSPOSE (R199): TRANSPOSE copies a tensor with dimensions 0 and 1 exchanged, in tiles through staging. -/
  | transpose (w : Fin 16)
  /-- ERASE (R418): ERASE back-invalidates the filter and overwrites all memory, spares and SRAMs with zeros, optionally verifying, and records the erase. -/
  | erase (w : Fin 16)
  /-- SCRUB_REGION (R390): SCRUB_REGION reads a range with the patrol's checks and reports corrected and poisoned words. -/
  | scrubRegion (w : Fin 16)
  /-- SET_GEAR_CAP (R433): SET_GEAR_CAP sets LIM_HOST and completes once the running gear is at or below the cap. -/
  | setGearCap (w : Fin 16)
  /-- KICKSTAND_ENTER (R467): KICKSTAND with ARG0 0 puts the module into kickstand with cause command. -/
  | kickstandEnter (w : Fin 16)
  /-- KICKSTAND_LEAVE (R469): KICKSTAND with ARG0 1 leaves kickstand if the cause allows, switching the compute domains on and self-testing them. -/
  | kickstandLeave (w : Fin 16) (selfTest : BitVec 8)
  /-- FABRIC_ENUM_ORIGIN (R351): FABRIC_ENUM with ORIGIN makes the module the peloton origin at (0,0,0) and starts chain enumeration with the given session. -/
  | fabricEnumOrigin (w : Fin 16)
  /-- FABRIC_ENUM_CLEAR (R353): FABRIC_ENUM without ORIGIN clears the module's coordinates so that it can take new ones. -/
  | fabricEnumClear (w : Fin 16)
  /-- QUERY_CAPACITY (R391): QUERY item 0x00 returns the host-visible capacity. -/
  | queryCapacity (w : Fin 16)
  /-- QUERY_IMAGE_STATE (R391): QUERY item 0x01 returns the image state and the valid snapshot slots. -/
  | queryImageState (w : Fin 16)
  /-- QUERY_NODE (R391): QUERY item 0x02 returns the node number and whether coordinates are valid. -/
  | queryNode (w : Fin 16)
  /-- QUERY_GEAR (R391): QUERY item 0x03 returns the gear in force and the effective gear cap. -/
  | queryGear (w : Fin 16)
  /-- QUERY_RESERVE (R391): QUERY item 0x04 returns RSV_NOW and RSV_NEXT. -/
  | queryReserve (w : Fin 16)
  /-- IDENTIFY (R398): The mailbox Identify command returns the vendor and device identity. -/
  | identify
  /-- GET_EVENT_RECORDS (R398): The mailbox returns records of the four CXL event logs. -/
  | getEventRecords (log : Fin 4)
  /-- CLEAR_EVENT_RECORDS (R398): The mailbox clears records of a CXL event log. -/
  | clearEventRecords (log : Fin 4) (handles : List Nat)
  /-- IDENTIFY_MEMORY_DEVICE (R398): The mailbox returns capacities and poison limits. -/
  | identifyMemoryDevice
  /-- GET_POISON_LIST (R398): The mailbox returns the poison list with sources and the overflow flag. -/
  | getPoisonList
  /-- INJECT_POISON (R398): The mailbox poisons both words of a mapped line. -/
  | injectPoison (dpa : BitVec 40)
  /-- CLEAR_POISON (R398): The mailbox writes 64 supplied bytes to a mapped line clean. -/
  | clearPoison (dpa : BitVec 40) (data : Line)
  /-- PERST_ASSERT (R464): Assertion of PERST# starts a warm start, or holds step 12 of a cold start. -/
  | perstAssert (inp : StartInputs)
  /-- PERST_DEASSERT (R458): Deassertion of PERST# lets a waiting link bring-up step proceed. -/
  | perstDeassert
  /-- HOT_RESET (R464): A PCIe Hot Reset starts a warm start. -/
  | hotReset (inp : StartInputs)
  /-- LINK_DISABLE (R464): Link Disable starts a warm start that completes when the link is enabled again. -/
  | linkDisable (inp : StartInputs)
  /-- LINK_DOWN (R464): A host link down not caused by the host resets only the host port, while a running image runs on. -/
  | linkDown
  /-- FUNCTION_LEVEL_RESET (R464): An FLR stops a running image by force, disables every window and aborts the mailbox command. -/
  | functionLevelReset
  /-- CXL_RESET (R464): A CXL Reset starts a warm start, with an erase before link-up when Mem Clr is enabled. -/
  | cxlReset (memClr : Bool) (inp : StartInputs)
  /-- D3HOT_ENTRY (R437): A transition of function 0 to D3hot requests freewheel. -/
  | d3hotEntry
  /-- D0_ENTRY (R439): A transition of function 0 to D0 wakes the module from freewheel. -/
  | d0Entry
  /-- MAP_COMMIT (R41): A write of 1 to COMMIT validates the 16 staging entries and either reports the failing entry and code or starts the install with back-invalidation. -/
  | mapCommit
  /-- MAP_INSTALL_DONE (R41): The new map is installed as one change, BUSY clears and held host requests are decoded under it. -/
  | mapInstallDone
  /-- MAP_STAGING_WRITE (R42): A write to a region staging register stores its fields, or is discarded and sets STG_LOST while BUSY. -/
  | mapStagingWrite (n : Fin 16) (reg : Fin 3) (value : BitVec 64)
  /-- RSV_NEXT_WRITE (R34): A write of RSV_NEXT stores the clamped reserve size for the next cold start in flash. -/
  | rsvNextWrite (v : BitVec 6)
  /-- SEQ_REQUEST_ARRIVE (R51): A request reaches a sequencer port and takes a queue entry of its class or a shared one, or waits at its source for credit. -/
  | seqRequestArrive (a : SeqArrival)
  /-- SEQ_CREDIT_RETURN (R51): A freed queue entry returns credit to a class port, and a request waiting at its source enters. -/
  | seqCreditReturn (col : Fin 512)
  /-- SLOT_TRANSFER (R58): In each column slot the sequencer chooses a transfer by its decision order, or open order, and issues it. -/
  | slotTransfer (col : Fin 512) (slot : Fin 64) (x : SlotInput)
  /-- READ_DATA_RETURN (R96): A word read from the array arrives on the vertical path, is classified by the inner code and delivered to its requester. -/
  | readDataReturn (col : Fin 512) (k : Nat) (flips : Wires) (shadow : BitVec 16) (par : Option XbarFault) (flt : List SramFault)
  /-- OUTER_DECODE_DONE (R106): The outer decoder ends, and the recovered word or poison is delivered and rewritten. -/
  | outerDecodeDone (col : Fin 512)
  /-- PACED_BURST_END (R57): A column's PACED queues stay empty for a full frame, the burst ends and every owed refresh is issued. -/
  | pacedBurstEnd (col : Fin 512)
  /-- HOST_URGENT (R60): A HOST request reaching half its latency target becomes urgent. -/
  | hostUrgent (col : Fin 512) (id : Nat)
  /-- REQUEST_AGED (R60): A request reaching an age of 2 µs becomes aged. -/
  | requestAged (col : Fin 512) (id : Nat)
  /-- MERGE_ENTRY_AGE_CLOSE (R62): A merge entry reaching 500 ns of age closes for read-modify-write. -/
  | mergeEntryAgeClose (col : Fin 512) (word : Nat)
  /-- REFRESH_DUE (R67): A bank's refresh falls due and is issued, or owed during a PACED burst. -/
  | refreshDue (col : Fin 512) (level : Fin 6)
  /-- REFRESH_ISSUE (R67): A due or owed refresh is issued at the end of the bank's row access, or when no request targets it. -/
  | refreshIssue (col : Fin 512) (level : Fin 6)
  /-- OWED_REFRESH_FLUSH (R68): A bank owing 4 refreshes splits the PACED burst and flushes them back to back, one bank at a time. -/
  | owedRefreshFlush (col : Fin 512)
  /-- CMD_ALERT (R73): An array die's command alert re-sends a precharge, ends covered requests with a command error and logs TMC_CMD_ERR. -/
  | cmdAlert (col : Fin 512) (level : Fin 6) (kind : Fin 6)
  /-- TEST_OPEN_WRITE (R61): A write of TEST_OPEN sets or clears open order, and is ignored while an image runs. -/
  | testOpenWrite (t : Fin 8) (v : Bool)
  /-- FEED_ZONE_START (R85): A feed zone falls due and runs a pattern burst in unreserved slots. -/
  | feedZoneStart (col : Fin 512) (burst : List BurstRead)
  /-- FEED_ZONE_END (R82): A feed zone decides its wire-levels, closes its calibration rows and sets the next interval. -/
  | feedZoneEnd (col : Fin 512)
  /-- VERIFY_FEED_ZONE (R90): After a clock restart the sequencer reads the calibration rows and admits PACED traffic when they and owed refreshes end. -/
  | verifyFeedZone (col : Fin 512) (reads : List BurstRead)
  /-- FZ_FORCE (R94): A write of FORCE makes a feed zone fall due on every column of the tower. -/
  | fzForce (t : Fin 8)
  /-- CORE_HOLD_END (R108): The last pending word of a held pop is written, and the core's clocks restart in the fourth cycle after. -/
  | coreHoldEnd (c : Fin 64)
  /-- SCRUB_ROW (R111): The patrol reads one row, checks both codes and rewrites, corrects or poisons words. -/
  | scrubRow (col : Fin 512) (reads : List (Fin 32 × Wires × BitVec 16))
  /-- SCRUB_NOW (R111): A write of SCRUB_NOW ends the current pass and starts a new one at row sequence 0. -/
  | scrubNow (t : Fin 8)
  /-- PATCH_STORE_WRITE (R113): The management processor writes a new patch entry to flash. -/
  | patchStoreWrite (t : Fin 8)
  /-- TRANSLATION_WALK_DONE (R39): A translation cache miss walks both page-table levels and the access proceeds or halts. -/
  | translationWalkDone (c : Fin 64) (va : BitVec 48)
  /-- EXEC_WORD_ISSUE (R214): The execute stream issues one long word in a cycle, after its checks, with all its slots. -/
  | execWordIssue (c : Fin 64) (flt : List SramFault)
  /-- EXEC_RESULT_LAND (R215): A slot's result lands on its location at its fixed latency. -/
  | execResultLand (c : Fin 64)
  /-- LEGACY_CONDITIONAL_WORD (R233): A legacy word in a compatibility core issues its slots and branches after two delay words if the tested bit is 1. -/
  | legacyConditionalWord (c : Fin 64)
  /-- HALT_REQ (R236): A write of HALT_REQ breaks the core before its next word. -/
  | haltReq (c : Fin 64)
  /-- RESUME (R236): A write of RESUME restarts a broken core. -/
  | resume (c : Fin 64)
  /-- STEP (R236): A write of STEP runs a broken core for one cycle. -/
  | step (c : Fin 64)
  /-- FETCH (R271): An access FETCH word latches its descriptor and program and arms tile generation into a queue. -/
  | fetch (c : Fin 64)
  /-- DRAIN (R272): An access DRAIN word arms the writing of output tiles to memory or to the derailleur port. -/
  | drain (c : Fin 64)
  /-- DMA (R282): An access DMA word hands a batch to a channel, or waits while the channel is taken. -/
  | dma (c : Fin 64)
  /-- SYNC (R280): An access SYNC word waits, signals and fences only. -/
  | sync (c : Fin 64)
  /-- ACCESS_LOOP (R262): An access LOOP word begins a loop in the access stream. -/
  | accessLoop (c : Fin 64)
  /-- ACCESS_STOP (R262): An access STOP word ends the access stream. -/
  | accessStop (c : Fin 64)
  /-- ACCESS_STREAM_RESUME (R213): A run-ahead stop condition clears and the access stream resumes. -/
  | accessStreamResume (c : Fin 64)
  /-- TILE_GENERATE (R271): An armed stream generates the element indices of a tile, allocates its entry and issues its word requests. -/
  | tileGenerate (c : Fin 64) (queue : Fin 6) (flt : List SramFault)
  /-- ADD (R264): Scalar ADD. -/
  | add (c : Fin 64)
  /-- SUB (R264): Scalar SUB. -/
  | sub (c : Fin 64)
  /-- AND (R264): Scalar AND. -/
  | and (c : Fin 64)
  /-- OR (R264): Scalar OR. -/
  | or (c : Fin 64)
  /-- XOR (R264): Scalar XOR. -/
  | xor (c : Fin 64)
  /-- SLL (R264): Scalar shift left logical. -/
  | sll (c : Fin 64)
  /-- SRL (R264): Scalar shift right logical. -/
  | srl (c : Fin 64)
  /-- SRA (R264): Scalar shift right arithmetic. -/
  | sra (c : Fin 64)
  /-- SLT (R264): Scalar set if less than, signed. -/
  | slt (c : Fin 64)
  /-- SLTU (R264): Scalar set if less than, unsigned. -/
  | sltu (c : Fin 64)
  /-- MUL (R264): Scalar multiply, low 32 bits. -/
  | mul (c : Fin 64)
  /-- MULH (R264): Scalar multiply, high 32 bits signed. -/
  | mulh (c : Fin 64)
  /-- DIVU (R264): Scalar unsigned divide. -/
  | divu (c : Fin 64)
  /-- REMU (R264): Scalar unsigned remainder. -/
  | remu (c : Fin 64)
  /-- FADD (R264): Scalar FP32 add. -/
  | fadd (c : Fin 64)
  /-- FSUB (R264): Scalar FP32 subtract. -/
  | fsub (c : Fin 64)
  /-- FMUL (R264): Scalar FP32 multiply. -/
  | fmul (c : Fin 64)
  /-- FDIV (R264): Scalar FP32 divide. -/
  | fdiv (c : Fin 64)
  /-- FSQRT (R264): Scalar FP32 square root. -/
  | fsqrt (c : Fin 64)
  /-- FMIN (R264): Scalar FP32 minimum. -/
  | fmin (c : Fin 64)
  /-- FMAX (R264): Scalar FP32 maximum. -/
  | fmax (c : Fin 64)
  /-- FEQ (R264): Scalar FP32 equal compare. -/
  | feq (c : Fin 64)
  /-- FLT (R264): Scalar FP32 less-than compare. -/
  | flt (c : Fin 64)
  /-- FLE (R264): Scalar FP32 less-or-equal compare. -/
  | fle (c : Fin 64)
  /-- FCVTWS (R264): Scalar FP32 to integer conversion. -/
  | fcvtws (c : Fin 64)
  /-- FCVTSW (R264): Scalar integer to FP32 conversion. -/
  | fcvtsw (c : Fin 64)
  /-- ADDI (R264): Scalar add immediate. -/
  | addi (c : Fin 64)
  /-- ANDI (R264): Scalar AND immediate. -/
  | andi (c : Fin 64)
  /-- ORI (R264): Scalar OR immediate. -/
  | ori (c : Fin 64)
  /-- XORI (R264): Scalar XOR immediate. -/
  | xori (c : Fin 64)
  /-- LUI (R264): Scalar load upper immediate. -/
  | lui (c : Fin 64)
  /-- LW (R264): Scalar load word from scalar data memory. -/
  | lw (c : Fin 64)
  /-- SW (R264): Scalar store word to scalar data memory. -/
  | sw (c : Fin 64)
  /-- BEQ (R264): Scalar branch if equal. -/
  | beq (c : Fin 64)
  /-- BNE (R264): Scalar branch if not equal. -/
  | bne (c : Fin 64)
  /-- BLT (R264): Scalar branch if less than. -/
  | blt (c : Fin 64)
  /-- BGE (R264): Scalar branch if greater or equal. -/
  | bge (c : Fin 64)
  /-- BLTU (R264): Scalar branch if less than, unsigned. -/
  | bltu (c : Fin 64)
  /-- BGEU (R264): Scalar branch if greater or equal, unsigned. -/
  | bgeu (c : Fin 64)
  /-- JAL (R264): Scalar jump and link. -/
  | jal (c : Fin 64)
  /-- JR (R264): Scalar jump to register. -/
  | jr (c : Fin 64)
  /-- PRD (R264): Scalar read of a p register. -/
  | prd (c : Fin 64)
  /-- PWR (R226): Scalar write of a p register at priority 4. -/
  | pwr (c : Fin 64)
  /-- SIG (R264): Scalar signal to a sync object or route, sent after earlier stores land. -/
  | sig (c : Fin 64)
  /-- WAIT (R264): Scalar wait on a sync object or barrier. -/
  | wait (c : Fin 64)
  /-- LAUNCH (R264): Scalar launch of the execute or access stream at an offset. -/
  | launch (c : Fin 64)
  /-- REARM (R281): Scalar REARM sets a persistent slot's base. -/
  | rearm (c : Fin 64)
  /-- CYC (R264): Scalar read of the core cycle count. -/
  | cyc (c : Fin 64)
  /-- LAP (R329): Scalar LAP marks the core's part of the lap complete and waits for the boundary. -/
  | lap (c : Fin 64)
  /-- STOPS (R264): Scalar STOPS stops the scalar processor. -/
  | stops (c : Fin 64)
  /-- LAP_RELEASE (R395): Waiting scalar processors are released once a CQ entry and the next result buffer are free. -/
  | lapRelease
  /-- SIGNAL_ARRIVE (R293): A signal from another core, channel, derailleur or module is applied to a sync object. -/
  | signalArrive (c : Fin 64) (obj : Fin 48) (amount : BitVec 32) (src : SigSource)
  /-- WAIT_RELEASE (R295): In a cycle the object's wait-ge waiters are released and take waiters are served oldest first. -/
  | waitRelease (c : Fin 64) (obj : Fin 48)
  /-- DEFERRED_SIGNAL_SEND (R297): A fenced signal is sent once the data it guards are complete or acknowledged. -/
  | deferredSignalSend (c : Fin 64) (stream : Fin 2)
  /-- SYNC_VAL_WRITE (R292): A debug write sets a sync object's value while the core is not running. -/
  | syncValWrite (c : Fin 64) (obj : Fin 48) (v : BitVec 32)
  /-- BARRIER_ARRIVAL (R302): A core's arrival is counted at a barrier, possibly completing the generation. -/
  | barrierArrival (c : Fin 64) (bar : Fin 64)
  /-- BAR_HELD_SEND (R306): A barrier message held for an unreachable node is sent when the route is repaired. -/
  | barHeldSend (bar : Fin 64)
  /-- WATCHDOG (R307): A stream's wait reaches WD_MS and the core halts with code 0x0C. -/
  | watchdog (c : Fin 64) (stream : Fin 3)
  /-- CREDIT_DEADLOCK (R309): Credit refused for DL_PERIOD, or a hold that long, halts the core with code 0x10. -/
  | creditDeadlock (unit : CreditUnit) (target : BitVec 16)
  /-- CORE_RESET (R465): A write of CORE_RST resets one core, voids its objects and stops its work. -/
  | coreReset (c : Fin 64)
  /-- DMA_BATCH_ACCEPT (R282): A channel fetches a batch from core SRAM, latches its descriptors and starts its entries. -/
  | dmaBatchAccept (chan : Fin 32)
  /-- DMA_BLOCK_COMPLETE (R284): A 256-byte block is acknowledged and any newly complete chunk signals its sync object. -/
  | dmaBlockComplete (chan : Fin 32) (entry : Fin 64) (b : BlockEnd)
  /-- DRL_RECORD_INTAKE (R175): The derailleur takes in a record, placing it in a bin or spill list or forwarding it to its home node. -/
  | drlRecordIntake
  /-- DRL_FORWARD_RETRY (R184): Held forwards are retried when the fabric manager repairs the route. -/
  | drlForwardRetry (node : Node)
  /-- DRL_CONSUME_SIGNAL (R179): A consume signal is counted, and a completed round starts a refill or frees the epoch. -/
  | drlConsumeSignal (ent : Fin 256)
  /-- DRL_REFILL_DONE (R179): A buffer refill with round i + 2 completes and READY is incremented. -/
  | drlRefillDone (x : Refill)
  /-- FLIT_RECEIVE (R343): A flit arrives on a port, is CRC-checked, acknowledged or NAKed, and delivered or forwarded. -/
  | flitReceive (p : Fin 8) (flit : Flit) (crcOk : Bool)
  /-- GET_REQ (R361): A GET_REQ is served from memory and answered with GET_DATA or an error RESP. -/
  | getReq
  /-- GET_DATA (R361): GET_DATA is written locally and completes its block. -/
  | getData
  /-- PUT (R361): A PUT flit is written at the target and acknowledged with RESP. -/
  | put
  /-- SIGNAL (R299): A SIGNAL flit adds 1 to a target core's sync object and is answered. -/
  | signal
  /-- ATOMIC_ADD (R361): An ATOMIC_ADD flit adds its elements into memory by locked read-modify-write. -/
  | atomicAdd
  /-- DRL (R183): A DRL flit delivers forwarded derailleur records to this node's derailleur. -/
  | drl
  /-- RESP (R362): A RESP completes or fails a block, signal or request, halting the issuing core on error. -/
  | resp
  /-- REDUCE (R365): A REDUCE flit is added to the local contribution and passed on, or its result written. -/
  | reduce
  /-- WINDOW_GO (R365): A write of GO to a collective window starts the window on this module. -/
  | windowGo (n : Fin 16)
  /-- BARRIER (R368): A BARRIER flit delivers a combined arrival or a release to a hub. -/
  | barrier
  /-- ENUM_TOKEN (R351): An enumeration token gives the module its coordinates and is forwarded, or completes its ring at the origin. -/
  | enumToken
  /-- RING_SIZE_NOTICE (R351): A ring-size notice records the ring size and may start the next axis. -/
  | ringSizeNotice
  /-- ENUM_REPORT (R351): Node 0 collects a report and ends enumeration when all are in. -/
  | enumReport
  /-- FM_NOTICE (R345): A fabric manager notice MGMT message is delivered. -/
  | fmNotice
  /-- ROUTE_UPDATE (R350): A route update MGMT message is delivered. -/
  | routeUpdate
  /-- LINK_HANDSHAKE (R369): LINK flits carry certificates, signatures and key encapsulation, authenticating the neighbour and installing session keys. -/
  | linkHandshake (p : Fin 8) (peer : LinkPeer)
  /-- LINK_TAG (R371): A LINK tag flit verifies a group, or a failure causes replay or takes the port down. -/
  | linkTag (p : Fin 8) (ok : Bool)
  /-- TAG_GROUP_CLOSE (R370): After 16 full flits or 1 µs a sender closes its group and sends its tag. -/
  | tagGroupClose (p : Fin 8)
  /-- REKEY (R370): After 2^40 flits the sides rekey by a new encapsulation. -/
  | rekey (p : Fin 8)
  /-- LANE_LOCK_LOSS (R344): A lane losing lock degrades the port and retrains it. -/
  | laneLockLoss (p : Fin 8) (lane : Fin 4)
  /-- FEC_ERROR_RATE (R344): Corrected FEC symbols above 1 in 10^4 over 1 ms degrade the lane. -/
  | fecErrorRate (p : Fin 8) (lane : Fin 4)
  /-- PORT_TRAINING_DONE (R342): Port training or retraining ends, choosing the FEC mode, or fails. -/
  | portTrainingDone (p : Fin 8) (res : TrainResult)
  /-- NEIGHBOR_SILENT (R345): A neighbour silent for 1 ms takes the port down. -/
  | neighborSilent (p : Fin 8)
  /-- PORT_RETRY_TIMER (R345): A down port retries training every 1 s. -/
  | portRetryTimer (p : Fin 8)
  /-- FAB_STALL (R358): A virtual channel without credit for STALL_MS discards its flits and answers requests with RESP 0x23. -/
  | fabStall (p : Fin 8) (vc : Fin 9)
  /-- ENUM_TOKEN_TIMEOUT (R352): A token not returned within 10 ms, or missing reports at 100 ms, fails enumeration. -/
  | enumTokenTimeout
  /-- ENUM_SIZE_TIMEOUT (R521): 100 ms after taking coordinates without all ring sizes, ESTAT becomes failed. -/
  | enumSizeTimeout
  /-- COORD_WRITE (R500): An 8-byte write of GID_COORD installs or clears coordinates, or is rejected with COORD_REJ. -/
  | coordWrite (value : BitVec 64)
  /-- PORT_ENABLE_WRITE (R466): A write of ENABLE holds a port down or, after 0 then 1, resets and retrains it. -/
  | portEnableWrite (p : Fin 8) (v : Bool)
  /-- RETRAIN (R466): A write of RETRAIN resets a port, retraining on four lanes and re-authenticating with sequence resume. -/
  | retrain (p : Fin 8)
  /-- CAGE_MODULE_CHANGE (R519): An optical or cable module inserted or removed takes the port down and retrains it with a media check. -/
  | cageModuleChange (p : Fin 8) (inserted : Bool)
  /-- CAGE_OVERCURRENT (R519): A cage module drawing more than 15 W loses cage power and its port stays down. -/
  | cageOvercurrent (p : Fin 8)
  /-- COLD_START (R454): Input power good starts a cold start of trust boot, bring-up, training, fill, self-test, fabric and link-up. -/
  | coldStart (inp : StartInputs)
  /-- RECOVERY_FW_UPDATE (R407): In recovery the ROM receives firmware by PLDM, writes slot A and cold-starts if it passes. -/
  | recoveryFwUpdate (fw : Firmware) (sigOk : Bool) (inp : StartInputs)
  /-- WARM_START (R459): A write of WARM restarts everything except memory, keeping kickstand if present. -/
  | warmStart (inp : StartInputs)
  /-- INPUT_LOSS (R424): Input below 50 V for 20 µs, above 75 V or PRESENT_N open starts the power-off sequence. -/
  | inputLoss (cause : Fin 3)
  /-- POWER_OFF_HOLD_END (R451): After 5 s off a cold start follows if input is present, unless three trips in one hour keep it off. -/
  | powerOffHoldEnd (present : Bool) (third : Bool) (inp : StartInputs)
  /-- DOMAIN_OVERCURRENT (R427): A domain over its current limit for 20 µs is switched off, PWR_DOM_FAULT is logged and the module enters kickstand. -/
  | domainOvercurrent (dom : Fin 30) (current : BitVec 16)
  /-- POWER_SAMPLE_FAST (R429): A 50 µs power average above 1.1 × cap lowers LIM_PWR one gear. -/
  | powerSampleFast (w : BitVec 10)
  /-- POWER_SAMPLE_SLOW (R429): A 1 ms power average lowers or raises LIM_PWR, or sets CAP_UNMET at G4. -/
  | powerSampleSlow (w : BitVec 10) (vin : BitVec 10) (doms : List (BitVec 10))
  /-- CAP_WRITE (R428): The host or board management controller writes the power cap, effective at the next 1 ms measurement. -/
  | capWrite (v : BitVec 10)
  /-- GEAR_CHANGE_START (R432): When the running gear differs from the gear in force a gear change begins with a package-wide core hold. -/
  | gearChangeStart
  /-- GEAR_PLL_LOCK (R434): The root PLL relocks at the new multiplier and every divided clock restarts aligned. -/
  | gearPllLock
  /-- GEAR_CHANGE_END (R434): After verification feed zones and owed refreshes every core restarts together and counts a gear hold. -/
  | gearChangeEnd
  /-- FREEWHEEL_REQUEST (R437): A write of FW_REQ enters freewheel if permitted, or sets FW_REFUSED. -/
  | freewheelRequest
  /-- WAKE (R439): A write of WAKE, or a host request, wakes the module from freewheel. -/
  | wake
  /-- SENSOR_SLOW_ROUND (R441): Every sensor is read once per millisecond and thresholds and refresh states are evaluated. -/
  | sensorSlowRound (samples : List (BitVec 13))
  /-- SENSOR_FAST_ROUND (R441): Sensors near BRAKE are read every 50 µs and rate downshifts are evaluated. -/
  | sensorFastRound (samples : List (Nat × BitVec 13))
  /-- FAST_ROUND_EXIT (R441): After 10 ms more than 7 °C below BRAKE a sensor leaves the fast round. -/
  | fastRoundExit (sensor : Fin 193)
  /-- HOT_REFRESH_EXIT (R443): After 10 ms below 81 °C an array die returns to the cool refresh state. -/
  | hotRefreshExit (die : Fin 48)
  /-- THRESHOLD_RELEASE (R445): After 10 ms at or below threshold minus 3 °C an engaged threshold releases. -/
  | thresholdRelease (die : Fin 64) (thr : Fin 3)
  /-- BRAKE_DWELL (R446): Each full 1 ms of dwell at BRAKE lowers LIM_THERM a further gear. -/
  | brakeDwell
  /-- HEAVY_DWELL (R446): HEAVY held for 100 ms at G4 puts the module into kickstand. -/
  | heavyDwell
  /-- LIM_THERM_RISE (R448): After 10 ms without BRAKE or rate downshift LIM_THERM rises one gear. -/
  | limThermRise
  /-- GET_CERTS (R419): The trust mailbox returns the certificate chain. -/
  | getCerts
  /-- GET_REPORT (R421): The trust mailbox returns a signed attestation report over a nonce. -/
  | getReport
  /-- CHALLENGE (R416): The trust mailbox returns a fresh 32-byte challenge. -/
  | challenge
  /-- CHALLENGE_EXPIRY (R416): A challenge unused for 60 s expires. -/
  | challengeExpiry
  /-- ENROLL (R417): ENROLL installs an owner record on an unowned module after an erase, blowing an EPOCH fuse. -/
  | enroll (rec : OwnerRec) (chal : BitVec 256) (sigNew : Bool)
  /-- TRANSFER (R417): TRANSFER installs a new owner record signed by both owners after an erase, blowing an EPOCH fuse. -/
  | transfer (rec : OwnerRec) (chal : BitVec 256) (sigNew : Bool) (sigOld : Bool)
  /-- SET_OWNER (R417): SET_OWNER replaces policy and image keys within the epoch. -/
  | setOwner (rec : OwnerRec) (chal : BitVec 256) (sigOld : Bool)
  /-- DEBUG_UNLOCK (R422): DEBUG_UNLOCK opens debug at level 1 or 2 until cold start and records it in M7. -/
  | debugUnlock (level : Fin 3) (chal : BitVec 256) (sigOwner : Bool) (sigOlucen : Bool)
  /-- FW_WRITE (R410): FW_WRITE writes a chunk of firmware into the slot not running. -/
  | fwWrite (off : Nat) (data : List Byte)
  /-- FW_ACTIVATE (R410): FW_ACTIVATE checks the written slot and sets BOOT_PREF to it. -/
  | fwActivate (sigOk : Bool)
  /-- FW_COMMIT (R411): FW_COMMIT raises SVN_FUSE to the running firmware's SVN. -/
  | fwCommit
  /-- PLDM_FW_UPDATE (R410): PLDM for Firmware Update on the sideband writes and activates firmware in the other slot. -/
  | pldmFwUpdate (fw : Firmware) (sigOk : Bool)
  /-- BRK_ALL (R489): A write of BRK_ALL breaks every running core in one cycle. -/
  | brkAll
  /-- RESUME_ALL (R489): A write of RESUME_ALL resumes every broken core in one cycle. -/
  | resumeAll
  /-- STEP_ALL (R489): A write of STEP_ALL steps every broken core one cycle. -/
  | stepAll
  /-- SIDEBAND_ACCESS (R488): An MCTP vendor message on the I3C sideband reads or writes registers subject to debug level. -/
  | sidebandAccess (acc : DebugAccess)
  /-- EVT_HEAD_WRITE (R501): The host writes EVT_HEAD to consume event records, ignored if it would pass TAIL. -/
  | evtHeadWrite (v : BitVec 10)
  /-- EVENT_COALESCE_END (R504): A 1 ms coalescing window ends and one record with the total count is written. -/
  | eventCoalesceEnd (n : Nat)
  /-- JTAG_BYPASS (R491): The BYPASS instruction selects the bypass register. -/
  | jtagBypass
  /-- JTAG_SAMPLE_PRELOAD (R491): SAMPLE/PRELOAD captures and loads the boundary register. -/
  | jtagSamplePreload (pins : BitVec 17) (load : BitVec 17)
  /-- JTAG_EXTEST (R491): EXTEST drives the boundary pins, or selects bypass once release has begun. -/
  | jtagExtest
  /-- JTAG_IDCODE (R491): IDCODE selects the bypass register. -/
  | jtagIdcode
  /-- HOST_LINK_UP (R464): The host link trains up again after a link down or after Link Disable is cleared, completing a waiting warm start at link-up or restoring host access after a host-port-only reset. -/
  | hostLinkUp
  /-- HOST_CLEAN_EVICTION (R382): A host CXL.mem clean eviction with MetaValue Invalid removes its line from the host-cached filter without moving data. -/
  | hostCleanEviction (hpa : BitVec 52)
  /-- ERASE_END (R418): The erase of all memory, spares and SRAMs ends, optionally after verification, writing the erase record and completion and ending the erase-in-progress state in which host reads return poison and writes are discarded. -/
  | eraseEnd (verified : Bool)
  /-- TEST_CONNECTOR_ACCESS (R488): A vendor instruction on the test connector reads or writes module registers, or SRAM and arrays at level 2, subject to the debug level and ordered against BAR0 writes. -/
  | testConnectorAccess (acc : DebugAccess)
  deriving DecidableEq, Repr

end Sys2Proof
end

