-- ==== Sys2Proof/Decode.lean ====
section
/-!
DEFINITION. The command that a word of the opcode table spells. No row of spec/opcode_table.json gives a command any bits: its commands are
register writes, protocol messages and events, whose operands the rules name. So no word spells a command.
-/
namespace Sys2Proof

/-- The command spelled by `nbits` bits `w`: none, since no row gives bits. -/
def decodeTableWord (_nbits _w : Nat) : Option Instr := none

end Sys2Proof
end

