-- ==== Sys2Proof/Config.lean ====
section
/-!
DEFINITION. What the spec leaves open: constants with no body, so that no proof can rest on a value of theirs. Each has a row in the
assumption log.
-/
namespace Sys2Proof

/-- The calibration rows' fixed pseudo-random pattern (R78), word by word. -/
opaque Config.calWord : Nat → Word

/-- A value the spec leaves open after a command that goes on; applied to the model's counter `fresh`. -/
opaque Config.freeValue : Nat → Nat

/-- SHAKE256 of a byte string, first `n` bytes (R320). -/
opaque Config.shake256 : List Byte → Nat → Nat

/-- Falcon-1024 (R408, R412): the coefficients of a seed's public key; the signature over a digest under the key pair of a seed, as a number, and the
bytes that carry it, 1 to 1,536. -/
opaque Config.falconKey : Nat → List Byte
opaque Config.sign : Nat → Nat → Nat
opaque Config.signLen : Nat → Nat → Nat

/-- KMAC256 with a 64-byte output (R414): key and bytes. -/
opaque Config.kmac256 : Nat → List Byte → Nat

/-- The unique device secret UDS (R403), 32 bytes, and Olucen's firmware signing key, whose KEY_ID the ROM holds (R405). -/
opaque Config.uds : List Byte
opaque Config.fwKey : List Byte

/-- AES-256-GCM on a link (R370): the ciphertext of bytes at a place of a group's message, and the group's tag; arguments key, nonce, place, plaintext. -/
opaque Config.gcmCipher : Nat → Nat → Nat → List Byte → List Byte
opaque Config.gcmTag : Nat → Nat → List Byte → Nat

/-- A link's key of one direction (R369): SHAKE256 over the secret and the transcript, whose layout is not stated; arguments the two KEY_IDs, the number
of the handshake on the port, and the direction bit of R370. -/
opaque Config.linkKey : Nat → Nat → Nat → Nat → Nat

/-- The ROM (M0, R420), and the two stored certificates (R413). -/
opaque Config.rom : List Byte
opaque Config.certs : List Byte

/-- SERIAL of the attestation key certificate made at the n-th start, for which R412 states no value. -/
opaque Config.akSerial : Nat → Nat

/-- Fresh random bits (R416): applied to the counter `fresh`. -/
opaque Config.random : Nat → Nat

/-- The elementwise functions of R141 inside their stated bounds: EXP, RCP, RSQ, SIG, TANH, SILU, GELUE, GELUT, numbered 0 to 7. -/
opaque Config.vecFn : Nat → W32 → W32

end Sys2Proof
end

