-- ==== Sys2Proof/Machine/Table.lean ====
section
/-!
DEFINITION. Sparse tables in one canonical form (keys strictly rising, no entry equal to what an absent key reads as), and the
little-endian and bit-field helpers every other file uses.
-/
namespace Sys2Proof.Machine

/-- A sparse table: pairs of key and value. -/
abbrev Tab (α : Type) := List (Nat × α)

/-- The value at key `k`: `d k` where the table lists none. -/
def tget {α : Type} (d : Nat → α) : Tab α → Nat → α
  | [], k => d k
  | (j, v) :: t, k => if k = j then v else tget d t k

/-- The table with the entry at `k` put in its place. -/
def tins {α : Type} (k : Nat) (v : α) : Tab α → Tab α
  | [] => [(k, v)]
  | (j, w) :: t => if k = j then (k, v) :: t else if k < j then (k, v) :: (j, w) :: t else (j, w) :: tins k v t

/-- The table without an entry at `k`. -/
def terase {α : Type} (k : Nat) : Tab α → Tab α
  | [] => []
  | (j, w) :: t => if k = j then terase k t else (j, w) :: terase k t

/-- The table that reads `v` at `k`, in canonical form. -/
def tset {α : Type} [DecidableEq α] (d : Nat → α) (t : Tab α) (k : Nat) (v : α) : Tab α :=
  if v = d k then terase k t else tins k v t

/-- Every key is above `lo`, keys rise strictly, and no entry is what an absent key reads as. -/
def twfFrom {α : Type} [DecidableEq α] (d : Nat → α) : Nat → Tab α → Bool
  | _, [] => true
  | lo, (j, v) :: t => decide (lo ≤ j) && !decide (v = d j) && twfFrom d (j + 1) t

/-- The canonical form. -/
def twf {α : Type} [DecidableEq α] (d : Nat → α) (t : Tab α) : Bool := twfFrom d 0 t

/-- A byte memory: address and byte pairs. -/
abbrev Memory := List Host.Cell

/-- What an unlisted address reads as: zero, the fill's value (R104, R462). -/
def Memory.zero : Nat → Byte := fun _ => 0

/-- The canonical form of a byte memory. -/
def Memory.wf (m : Memory) : Bool := twf Memory.zero m

/-- One byte. -/
def Memory.read (m : Memory) (a : Nat) : Byte := tget Memory.zero m a

/-- One byte written. -/
def Memory.write (m : Memory) (a : Nat) (b : Byte) : Memory := tset Memory.zero m a b

/-- `n` bytes from `a`, little-endian, as a number. -/
def Memory.readLE (m : Memory) (a : Nat) : Nat → Nat
  | 0 => 0
  | n + 1 => (Memory.read m a).toNat + 256 * Memory.readLE m (a + 1) n

/-- The `n` low bytes of `v` written from `a`, little-endian. -/
def Memory.writeLE (m : Memory) (a : Nat) : Nat → Nat → Memory
  | 0, _ => m
  | n + 1, v => Memory.writeLE (Memory.write m a (BitVec.ofNat 8 v)) (a + 1) n (v / 256)

/-- The bytes of `v` whose mask bit is 1 written from `a`; bit 0 of the mask is the byte at `a`. -/
def Memory.writeMasked (m : Memory) (a : Nat) : Nat → Nat → Nat → Memory
  | 0, _, _ => m
  | n + 1, mask, v =>
    Memory.writeMasked (if mask % 2 = 1 then Memory.write m a (BitVec.ofNat 8 v) else m) (a + 1) n (mask / 2) (v / 256)

/-- `n` bytes from `a` as a list. -/
def Memory.readBytes (m : Memory) (a : Nat) (n : Nat) : List Byte := (List.range n).map fun i => Memory.read m (a + i)

/-- A list of bytes written from `a`. -/
def Memory.writeBytes (m : Memory) (a : Nat) : List Byte → Memory
  | [] => m
  | b :: bs => Memory.writeBytes (Memory.write m a b) (a + 1) bs

/-- Bits `lo` to `lo + width - 1` of `v`. -/
def bitsOf (v lo width : Nat) : Nat := (v >>> lo) % 2 ^ width

/-- Bit `i` of `v`. -/
def bitAt (v i : Nat) : Bool := v.testBit i

/-- 1 for true. -/
def bnat (b : Bool) : Nat := if b then 1 else 0

/-- `v` with bits `lo` to `lo + width - 1` replaced. -/
def setBits (w : BitVec 64) (lo width v : Nat) : BitVec 64 :=
  (w &&& ~~~ (BitVec.ofNat 64 ((2 ^ width - 1) <<< lo))) ||| BitVec.ofNat 64 ((v % 2 ^ width) <<< lo)

/-- Two's complement reading of the low `width` bits. -/
def signed (width v : Nat) : Int :=
  let u := v % 2 ^ width
  if u < 2 ^ (width - 1) then (u : Int) else (u : Int) - (2 ^ width : Nat)

/-- The low `width` bits of an integer. -/
def unsigned (width : Nat) (i : Int) : Nat := (i % (2 ^ width : Nat)).toNat

/-- Little-endian bytes to a number. -/
def leNat : List Byte → Nat
  | [] => 0
  | b :: bs => b.toNat + 256 * leNat bs

/-- The `n` low bytes of a number, little-endian. -/
def natLE : Nat → Nat → List Byte
  | 0, _ => []
  | n + 1, v => BitVec.ofNat 8 v :: natLE n (v / 256)

/-- `a` rounded up to a multiple of `b`. -/
def alignUp (a b : Nat) : Nat := (a + b - 1) / b * b

/-- Add saturating at the largest value of `width` bits. -/
def satAdd (width a b : Nat) : Nat := min (a + b) (2 ^ width - 1)

/-- A function folded over 0 to `n - 1`, in order. -/
def foldUp {σ : Type} (n : Nat) (f : Nat → σ → σ) (s : σ) : σ := (List.range n).foldl (fun s i => f i s) s

/-- Element `i` of a list replaced (unchanged where the list is shorter). -/
def listSet {α : Type} (l : List α) (i : Nat) (v : α) : List α := l.set i v

end Sys2Proof.Machine
end

