-- ==== Sys2Proof/Machine/Float.lean ====
section
/-!
DEFINITION. Exact binary arithmetic: values with a sign, a magnitude and a power of two, computed without rounding and narrowed once
at the end (R125, R131 to R138, R140). Everything ends in a bit pattern of one of the formats of R125.
-/
namespace Sys2Proof.Machine

/-- A value before rounding: NaN, an infinity, or (-1)^neg × mag × 2^exp; a zero keeps its sign. -/
inductive FV where
  | nan
  | inf (neg : Bool)
  | fin (neg : Bool) (mag : Nat) (exp : Int)
  deriving DecidableEq, Repr

/-- The value as a signed integer at exponent `e`, which is at most its own. -/
def scaled (neg : Bool) (mag : Nat) (exp e : Int) : Int :=
  let m : Int := ((mag * 2 ^ (exp - e).toNat : Nat) : Int)
  if neg then -m else m

/-- Exact sum; an exact zero is +0 except where both are -0 (R134). -/
def FV.add : FV → FV → FV
  | .nan, _ => .nan
  | _, .nan => .nan
  | .inf a, .inf b => if a = b then .inf a else .nan
  | .inf a, _ => .inf a
  | _, .inf b => .inf b
  | .fin s m e, .fin t n f =>
    let g := min e f
    let v := scaled s m e g + scaled t n f g
    if v = 0 then .fin (s && t) 0 0 else .fin (decide (v < 0)) v.natAbs g

/-- Exact product; infinity times zero is NaN (R133). -/
def FV.mul : FV → FV → FV
  | .nan, _ => .nan
  | _, .nan => .nan
  | .inf a, .inf b => .inf (xor a b)
  | .inf a, .fin t n _ => if n = 0 then .nan else .inf (xor a t)
  | .fin s m _, .inf b => if m = 0 then .nan else .inf (xor s b)
  | .fin s m e, .fin t n f => .fin (xor s t) (m * n) (e + f)

def FV.neg : FV → FV
  | .nan => .nan
  | .inf a => .inf (!a)
  | .fin s m e => .fin (!s) m e

def FV.isNan : FV → Bool
  | .nan => true
  | _ => false

/-- Order of the extended reals; false where either is NaN. -/
def FV.lt : FV → FV → Bool
  | .nan, _ => false
  | _, .nan => false
  | .inf a, .inf b => a && !b
  | .inf a, _ => a
  | _, .inf b => !b
  | .fin s m e, .fin t n f => decide (scaled s m e (min e f) < scaled t n f (min e f))

def FV.eq (a b : FV) : Bool := !a.isNan && !b.isNan && !a.lt b && !b.lt a

/-- Bits of a natural number: the position of its highest set bit plus 1. -/
def bitLen (n : Nat) : Nat := if n = 0 then 0 else Nat.log2 n + 1

/-! ## Formats (R125) -/

/-- A floating format: exponent bits, mantissa bits, bias, largest finite code, whether it has infinities, and its NaN code if any. -/
structure Fmt where
  eb : Nat
  mb : Nat
  bias : Nat
  maxCode : Nat
  hasInf : Bool
  nanCode : Option Nat

def fp32 : Fmt := ⟨8, 23, 127, 0x7F7FFFFF, true, some 0x7FC00000⟩
def bf16 : Fmt := ⟨8, 7, 127, 0x7F7F, true, some 0x7FC0⟩
def fp16 : Fmt := ⟨5, 10, 15, 0x7BFF, true, some 0x7E00⟩
def e4m3 : Fmt := ⟨4, 3, 7, 0x7E, false, some 0x7F⟩
def e5m2 : Fmt := ⟨5, 2, 15, 0x7B, true, some 0x7E⟩
def e3m2 : Fmt := ⟨3, 2, 3, 0x1F, false, none⟩
def e2m3 : Fmt := ⟨2, 3, 1, 0x1F, false, none⟩
def e2m1 : Fmt := ⟨2, 1, 1, 0x7, false, none⟩

/-- Width of a format's codes. -/
def Fmt.width (f : Fmt) : Nat := 1 + f.eb + f.mb

/-- The exponent of one unit of the smallest subnormal. -/
def Fmt.qmin (f : Fmt) : Int := 1 - (f.bias : Int) - (f.mb : Int)

/-- The value of a code. -/
def Fmt.decode (f : Fmt) (c : Nat) : FV :=
  let s := c.testBit (f.eb + f.mb)
  let u := c % 2 ^ (f.eb + f.mb)
  let e := u / 2 ^ f.mb
  let m := u % 2 ^ f.mb
  if f.hasInf ∧ e = 2 ^ f.eb - 1 then (if m = 0 then .inf s else .nan)
  else if ¬ f.hasInf ∧ f.nanCode = some u then .nan
  else if e = 0 then .fin s m f.qmin
  else .fin s (m + 2 ^ f.mb) (f.qmin + (e : Int) - 1)

/-- How a magnitude between two codes is rounded: to nearest even, or stochastically with draw `r` (R138). -/
inductive Rnd where
  | rne
  | stoch (r : Nat)
  deriving DecidableEq, Repr

/-- The code of the magnitude mag × 2^exp, without its sign and with no upper bound: a code above `maxCode` is an overflow. -/
def Fmt.roundMag (f : Fmt) (mag : Nat) (exp : Int) (r : Rnd) : Nat :=
  if mag = 0 then 0
  else
    let q := max f.qmin (exp + (bitLen mag : Int) - 1 - (f.mb : Int))
    let n :=
      if q ≤ exp then mag * 2 ^ (exp - q).toNat
      else
        let k := (q - exp).toNat
        let n := mag / 2 ^ k
        let rem := mag % 2 ^ k
        match r with
        | .rne => if 2 * rem > 2 ^ k ∨ (2 * rem = 2 ^ k ∧ n % 2 = 1) then n + 1 else n
        | .stoch d => if rem * 65536 / 2 ^ k + d ≥ 65536 then n + 1 else n
    (q - f.qmin).toNat * 2 ^ f.mb + n

/-- The sign bit of a code. -/
def Fmt.sign (f : Fmt) (neg : Bool) : Nat := if neg then 2 ^ (f.eb + f.mb) else 0

/-- Under stochastic rounding, a magnitude above the largest finite one: its upper neighbour is beyond the range, and no draw decides (R138). -/
def Fmt.beyond (f : Fmt) (mag : Nat) (exp : Int) : Rnd → Bool
  | .rne => false
  | .stoch _ =>
    let a := f.roundMag mag exp (.stoch 0)
    let q := max f.qmin (exp + (bitLen mag : Int) - 1 - (f.mb : Int))
    decide (a > f.maxCode) || (a == f.maxCode && decide (mag % 2 ^ (q - exp).toNat ≠ 0))

/-- Conversion with the saturation flag (R137), for the formats that stand alone (no MX scale). -/
def Fmt.convert (f : Fmt) (v : FV) (r : Rnd) (sat : Bool) : Nat :=
  match v with
  | .nan => f.nanCode.getD 0
  | .inf s =>
    if sat then f.sign s + f.maxCode
    else if f.hasInf then f.sign s + (2 ^ f.eb - 1) * 2 ^ f.mb
    else f.nanCode.getD (f.sign s + f.maxCode)
  | .fin s m e =>
    let c := f.roundMag m e r
    if c ≤ f.maxCode ∧ ¬ f.beyond m e r then f.sign s + c
    else if sat then f.sign s + f.maxCode
    else if f.hasInf then f.sign s + (2 ^ f.eb - 1) * 2 ^ f.mb
    else f.nanCode.getD (f.sign s + f.maxCode)

/-! ## FP32 (R140) -/

def ofF32 (x : W32) : FV := fp32.decode x.toNat
/-- One rounding to nearest even; beyond the largest finite value an infinity (R134). -/
def toF32 (v : FV) : W32 := BitVec.ofNat 32 (fp32.convert v .rne false)

def nan32 : W32 := 0x7FC00000#32
def isNan32 (x : W32) : Bool := (ofF32 x).isNan

def f32add (a b : W32) : W32 := toF32 ((ofF32 a).add (ofF32 b))
def f32neg (a : W32) : FV := (ofF32 a).neg
def f32sub (a b : W32) : W32 := toF32 ((ofF32 a).add (f32neg b))
def f32mul (a b : W32) : W32 := toF32 ((ofF32 a).mul (ofF32 b))
/-- a × b + d, rounded once. -/
def f32fma (a b d : W32) : W32 := toF32 (((ofF32 a).mul (ofF32 b)).add (ofF32 d))

/-- The order of MIN and MAX: -0 below +0 (R140). -/
def f32below (a b : W32) : Bool :=
  let x := ofF32 a
  let y := ofF32 b
  x.lt y || (x.eq y && a.msb && !b.msb)

def f32min (a b : W32) : W32 := if isNan32 a || isNan32 b then nan32 else if f32below b a then b else a
def f32max (a b : W32) : W32 := if isNan32 a || isNan32 b then nan32 else if f32below a b then b else a
def f32eq (a b : W32) : Bool := (ofF32 a).eq (ofF32 b)
def f32lt (a b : W32) : Bool := (ofF32 a).lt (ofF32 b)
def f32le (a b : W32) : Bool := f32lt a b || f32eq a b

/-- Exact quotient with a sticky bit below 2^-40 of it; a zero divisor gives an infinity, zero by zero NaN (IEEE 754). -/
def FV.div : FV → FV → FV
  | .nan, _ => .nan
  | _, .nan => .nan
  | .inf _, .inf _ => .nan
  | .inf a, .fin t _ _ => .inf (xor a t)
  | .fin s _ _, .inf b => .fin (xor s b) 0 0
  | .fin s m e, .fin t n f =>
    if n = 0 then (if m = 0 then .nan else .inf (xor s t))
    else
      let k := 64 + bitLen n
      let q := m * 2 ^ k / n
      let r := m * 2 ^ k % n
      .fin (xor s t) (2 * q + (if r = 0 then 0 else 1)) (e - f - (k : Int) - 1)

def f32div (a b : W32) : W32 := toF32 ((ofF32 a).div (ofF32 b))

/-- Integer square root, one bit at a time from bit `k`. -/
def isqrtFrom : Nat → Nat → Nat → Nat
  | 0, _, r => r
  | k + 1, n, r => isqrtFrom k n (if (r + 2 ^ k) * (r + 2 ^ k) ≤ n then r + 2 ^ k else r)

def isqrt (n : Nat) : Nat := isqrtFrom (bitLen n / 2 + 1) n 0

/-- Square root with a sticky bit; -0 gives -0, a negative value NaN (IEEE 754). -/
def FV.sqrt : FV → FV
  | .nan => .nan
  | .inf true => .nan
  | .inf false => .inf false
  | .fin s m e =>
    if m = 0 then .fin s 0 0
    else if s then .nan
    else
      let (m, e) := if e % 2 = 0 then (m, e) else (2 * m, e - 1)
      let n := m * 2 ^ 128
      let r := isqrt n
      .fin false (2 * r + (if r * r = n then 0 else 1)) (e / 2 - 64 - 1)

def f32sqrt (a : W32) : W32 := toF32 (ofF32 a).sqrt

/-- Truncation towards zero to a signed 32-bit integer, saturating; 0 for NaN (R264). -/
def f32toInt (a : W32) : W32 :=
  match ofF32 a with
  | .nan => 0
  | .inf s => if s then 0x80000000#32 else 0x7FFFFFFF#32
  | .fin s m e =>
    let n := if e ≥ 0 then m * 2 ^ e.toNat else m / 2 ^ (-e).toNat
    if s then (if n ≥ 2 ^ 31 then 0x80000000#32 else BitVec.ofInt 32 (-(n : Int)))
    else if n ≥ 2 ^ 31 then 0x7FFFFFFF#32 else BitVec.ofNat 32 n

/-- A signed integer rounded to nearest even (R264). -/
def intToF32 (a : W32) : W32 :=
  let i := a.toInt
  toF32 (.fin (decide (i < 0)) i.natAbs 0)

/-! ## Functions with bounds (R141): high-precision approximations in fixed point, against which a bound is checked -/

/-- Fraction bits of the fixed-point approximations. -/
def fxBits : Nat := 192
def fxOne : Int := (2 ^ fxBits : Nat)
def fxMul (a b : Int) : Int := a * b / fxOne
/-- ln 2, 1 / sqrt 2, 2 / sqrt pi and sqrt (2 / pi) in 192 fraction bits. -/
def fxLn2 : Int := 4350955369971217654477563090224794165364344896676135745069
def fxRsqrt2 : Int := 4438581203289767414339175591698529914022621046959442208844
def fxTwoRsqrtPi : Int := 7082950827949419406546779429796514218173736946937360083502
def fxSqrtTwoOverPi : Int := 5008402561253905729789098622498677126536126712276965002673

/-- A finite value in fixed point. -/
def fxOf (neg : Bool) (mag : Nat) (exp : Int) : Int :=
  let sh := exp + (fxBits : Int)
  let m : Int := ((if sh ≥ 0 then mag * 2 ^ sh.toNat else mag / 2 ^ (-sh).toNat : Nat) : Int)
  if neg then -m else m

/-- exp on [0, ln 2): its series. -/
def fxExpSeries (r : Int) : Int :=
  ((List.range 48).foldl (fun (acc : Int × Int) (i : Nat) => (acc.1 + acc.2, fxMul acc.2 r / ((i : Int) + 1))) (0, fxOne)).1

/-- exp of a fixed-point value: mantissa in fixed point, and a power of two. -/
def fxExp (x : Int) : Int × Int := (fxExpSeries (x - x / fxLn2 * fxLn2), x / fxLn2)

/-- A fixed-point value times a power of two, as a value. -/
def fxVal (x : Int) (e : Int) : FV := .fin (decide (x < 0)) x.natAbs (e - (fxBits : Int))

/-- A fixed-point value times a power of two, in fixed point. -/
def fxShift (x e : Int) : Int := if e ≥ 0 then x * (2 ^ e.toNat : Nat) else x / (2 ^ (-e).toNat : Nat)

/-- sigmoid. -/
def fxSigmoid (x : Int) : Int :=
  if x < -(160 * fxOne) then 0
  else
    let (m, e) := fxExp (-x)
    fxOne * fxOne / (fxOne + fxShift m e)

/-- tanh x = 2 sigmoid 2x - 1. -/
def fxTanh (x : Int) : Int := 2 * fxSigmoid (2 * x) - fxOne

/-- erf: its series for |z| at most 8, else the limit. -/
def fxErf (z : Int) : Int :=
  if z > 8 * fxOne then fxOne else if z < -(8 * fxOne) then -fxOne
  else
    let z2 := fxMul z z
    fxMul fxTwoRsqrtPi
      ((List.range 260).foldl (fun (acc : Int × Int) (n : Nat) => (acc.1 + acc.2 / (2 * (n : Int) + 1), -(fxMul acc.2 z2) / ((n : Int) + 1))) (0, z)).1

/-- |a - b| is at most `n` units of 2^e. -/
def FV.within (a b : FV) (n : Nat) (e : Int) : Bool :=
  match a.add b.neg with
  | .fin _ m f => !((FV.fin false n e).lt (.fin false m f))
  | _ => false

/-- The ulp of R141: that of the exact result in FP32, 2^-149 below 2^-126. -/
def ulpExp (v : FV) : Int :=
  match v with
  | .fin _ m e => if m = 0 then -149 else max (-149) (e + (bitLen m : Int) - 1 - 23)
  | _ => -149

/-- The approximation of function `k` (0 EXP, 1 RCP, 2 RSQ, 3 SIG, 4 TANH, 5 SILU, 6 GELUE, 7 GELUT) at a finite value. The two GELU
forms are the usual ones, which the spec names and does not print. -/
def fnApprox (k : Nat) (neg : Bool) (mag : Nat) (exp : Int) : FV :=
  let v := FV.fin neg mag exp
  let x := fxOf neg mag exp
  let big := decide (exp + (bitLen mag : Int) > 9)
  match k with
  | 0 => fxVal (fxExp x).1 (fxExp x).2
  | 1 => (FV.fin false 1 0).div v
  | 2 => (FV.fin false 1 0).div v.sqrt
  | 3 => if big then (if neg then .fin false 0 0 else .fin false 1 0)
         else let (m, e) := fxExp x; (fxVal m e).div ((FV.fin false 1 0).add (fxVal m e))
  | 4 => if big then .fin neg 1 0
         else if exp + (bitLen mag : Int) < -40 then v
         else fxVal (fxTanh x) 0
  | 5 => if big then (if neg then .fin true 0 0 else v) else v.mul (fxVal (fxSigmoid x) 0)
  | 6 => if big then (if neg then .fin true 0 0 else v)
         else (v.mul (.fin false 1 (-1))).mul (fxVal (fxOne + fxErf (fxMul x fxRsqrt2)) 0)
  | _ => if big then (if neg then .fin true 0 0 else v)
         else
           let u := fxMul fxSqrtTwoOverPi (x + fxMul (fxMul x (fxMul x x)) (fxOne * 44715 / 1000000))
           (v.mul (.fin false 1 (-1))).mul (fxVal (fxOne + fxTanh u) 0)

/-- The stated bound of function `k`, in ulps. -/
def fnUlps (k : Nat) : Nat := [1, 1, 2, 2, 2, 3, 4, 4].getD k 4

/-- Function `k` of R141: its special inputs; elsewhere the part's fixed function, which stays inside the stated bound (outside it the
nearest value stands in). -/
def vecFn (k : Nat) (a : W32) : W32 :=
  let pinf : W32 := 0x7F800000#32
  let one : W32 := 0x3F800000#32
  match ofF32 a with
  | .nan => nan32
  | .inf s =>
    match k, s with
    | 0, false => pinf
    | 0, true => 0
    | 1, s => if s then 0x80000000#32 else 0
    | 2, false => 0
    | 2, true => nan32
    | 3, false => one
    | 3, true => 0
    | 4, s => if s then 0xBF800000#32 else one
    | _, false => pinf
    | _, true => 0x80000000#32
  | .fin s m e =>
    if k = 0 ∧ (FV.fin false 887228 0).lt ((FV.fin s m e).mul (.fin false 10000 0)) then pinf
    else if k = 0 ∧ ((FV.fin s m e).mul (.fin false 10000 0)).lt (.fin true 1039721 0) then 0
    else if k = 1 ∧ m = 0 then (if s then 0xFF800000#32 else pinf)
    else if k = 2 ∧ m = 0 then (if s then 0xFF800000#32 else pinf)
    else if k = 2 ∧ s then nan32
    else if k = 4 ∧ m = 0 then a
    else
      let x := fnApprox k s m e
      let c := Config.vecFn k a
      let q := if k ≥ 5 ∧ x.lt (.fin false 1 (-20)) ∧ (FV.fin true 1 (-20)).lt x then (-43 : Int) else ulpExp x
      if (ofF32 c).within x (fnUlps k) q then c else toF32 x

/-! ## Atomic addition of elements (R64, R170) -/

/-- One element added, rounded to nearest even in its type; INT32 wraps. ETYPE: 0 FP32, 1 BF16, 2 FP16, 3 INT32. -/
def addElem (etype a b : Nat) : Nat :=
  let f := fun (x : Fmt) => x.convert ((x.decode a).add (x.decode b)) .rne false
  match etype with
  | 0 => f fp32
  | 1 => f bf16
  | 2 => f fp16
  | _ => (a + b) % 2 ^ 32

def etypeBits (etype : Nat) : Nat := if etype = 1 ∨ etype = 2 then 16 else 32

/-- The elements of two words added one by one. -/
def addElems (etype : Nat) (a b : Word) : Word :=
  let w := etypeBits etype
  BitVec.ofNat 256 ((List.range (256 / w)).foldl (fun acc i =>
    acc + addElem etype (bitsOf a.toNat (i * w) w) (bitsOf b.toNat (i * w) w) * 2 ^ (i * w)) 0)

end Sys2Proof.Machine
end

