-- ==== Sys2Proof/Machine/Keys.lean ====
section
/-!
DEFINITION. Hashes, keys and key identifiers of Bruros (R403, R408), what carries them (R405, R412, R414, R416), and the firmware that a module
ships with (R520).
-/
namespace Sys2Proof.Machine

/-- A list cut or padded with zeros to `n` bytes. -/
def padTo (n : Nat) (l : List Byte) : List Byte := (l ++ List.replicate n 0).take n

/-- SHAKE256 with a 64-byte output. -/
def shake64 (l : List Byte) : List Byte := natLE 64 (Config.shake256 l 64)

/-- "BRUROS-" before a text. -/
def bruros (l : List Byte) : List Byte := [0x42, 0x52, 0x55, 0x52, 0x4F, 0x53, 0x2D] ++ l

/-- A KEY_ID: the first 8 bytes of SHAKE256 of the encoded key. -/
def keyId (key : List Byte) : Nat := Config.shake256 key 8 % 2 ^ 64

/-- The public key of a seed, in its encoding of 1,793 bytes: a header byte and 1,792 bytes of coefficients. -/
def publicKey (seed : Nat) : List Byte := 0x0A :: padTo 1792 (Config.falconKey seed)

/-- The seed of the identity key pair (R408). -/
def identitySeed : Nat := Config.shake256 (bruros [0x49, 0x44] ++ Config.uds) 64

/-- SUBJECT_ID of the device: KEY_ID of its identity key. -/
def subjectId : Nat := keyId (publicKey identitySeed)

/-- CDI over the measurements M0, M1 and M2 (R408). -/
def cdiOf (m : List Byte) : Nat := Config.shake256 (bruros [0x43, 0x44, 0x49] ++ Config.uds ++ m) 64

/-- The seed of a start's attestation key pair, from CDI and 32 random bytes (R408). -/
def akSeedOf (cdi random : Nat) : Nat := Config.shake256 (bruros [0x41, 0x4B] ++ natLE 64 cdi ++ natLE 32 random) 64

/-- The owner MAC key (R408). -/
def macKey : Nat := Config.shake256 (bruros [0x4F, 0x57, 0x4E] ++ Config.uds) 32

/-- A signature's field under the key pair of a seed (R412, R421): SIG_LEN, six zero bytes, then the signature over SHAKE256 of the bytes and zero
padding, 1,536 bytes together. -/
def signField (seed : Nat) (l : List Byte) : List Byte :=
  let d := Config.shake256 l 64
  let n := max 1 (min 1536 (Config.signLen seed d))
  natLE 2 n ++ natLE 6 0 ++ padTo 1536 (natLE n (Config.sign seed d))

/-! ## Owner records (R414) -/

/-- Whether a record's fields lie within their ranges; the body holds the owner key and four image keys. -/
def recOk (r : OwnerRec) : Bool := decide (1 ≤ r.nkeys) && decide (r.nkeys ≤ 4) && r.body.length == 9000

/-- A record's bytes without TAG. -/
def recBytes (r : OwnerRec) : List Byte :=
  natLE 4 0x574F5242 ++ natLE 1 r.epoch ++ natLE 1 r.nkeys ++ natLE 2 0 ++ natLE 4 r.policy.toNat ++ natLE 4 0 ++ r.body

/-- TAG of a record: KMAC256 under the owner MAC key. -/
def ownerTag (r : OwnerRec) : Nat := Config.kmac256 macKey (recBytes r)

def ownerKey (r : OwnerRec) : List Byte := r.body.take 1793

/-- IMAGE_KEY(k). -/
def imageKey (r : OwnerRec) (k : Nat) : List Byte := (r.body.drop (1800 + 1800 * k)).take 1793

/-- Whether a KEY_ID is that of one of the record's image keys (R415). -/
def admits (r : OwnerRec) (id : Nat) : Bool := (List.range r.nkeys).any fun k => keyId (imageKey r k) == id

/-! ## Firmware (R405 to R407) -/

/-- FW_ANCHOR: KEY_ID of Olucen's firmware signing key, fixed in silicon. -/
def fwAnchor : Nat := keyId (padTo 1793 Config.fwKey)

/-- What slot A holds on a shipped module (R520): the fields of the manifest that R407 asks for, and a body of one zero byte (log 16). -/
def shippedFirmware : Memory :=
  Memory.writeBytes (Memory.writeBytes [(0, 0x42), (1, 0x52), (2, 0x46), (3, 0x57), (0x10, 1), (0x778, 1)] 0x20 (shake64 [0])) 0x60 (padTo 1793 Config.fwKey)

end Sys2Proof.Machine
end

