-- ==== Sys2Proof/Machine/Regs.lean ====
section
/-!
DEFINITION. The registers of BAR0: one location per field, with the offset, bits, access type and Reset value
that the spec's field maps give it (R7, R10, R45, R76, R94, R122, R186, R207, R238, R290, R315, R316, R339, R375, R402,
R423, R452, R453, R471, R482, R486, R498 to R502), and the register that stands at an offset (R492, R506).
-/
namespace Sys2Proof.Machine

/-- The access types of R7. -/
inductive Acc where
  | ro | rw | w1c | w1s | wo
  deriving DecidableEq, Repr

/-- A field of a register: the register's offset in BAR0, the field's lowest bit and width, its access type and its
Reset value. -/
structure Loc where
  off : Nat
  lo : Nat
  width : Nat
  acc : Acc
  rst : Nat
  deriving DecidableEq, Repr

/-- Base of the block of core `c` (R492). -/
def coreBase (c : Nat) : Nat := 0x1100000 + c / 8 * 0x200000 + c % 8 * 0x10000

/-- Base of the block of tower `t` (R492). -/
def towerBase (t : Nat) : Nat := 0x1000000 + t * 0x200000

/-- Base of the block of hub `h` (R492). -/
def hubBase (h : Nat) : Nat := 0x100000 + h * 0x80000

/-- Base of the block of port `p` (R492). -/
def portBase (p : Nat) : Nat := 0x80000 + p * 0x10000

/-- Base of command window `w` (R492). -/
def cmdBase (w : Nat) : Nat := 0x20000 + w * 0x1000

/-- Offset of GID_ID (R498). -/
def GID_ID.off : Nat := 0x0
def GID_ID.VENDOR : Loc := ⟨GID_ID.off, 0, 16, .ro, 0x1d5c⟩
def GID_ID.DEVICE : Loc := ⟨GID_ID.off, 16, 16, .ro, 0xa51⟩
def GID_ID.STEPPING : Loc := ⟨GID_ID.off, 32, 8, .ro, 0x11⟩
def GID_ID.VARIANT : Loc := ⟨GID_ID.off, 40, 2, .ro, 1⟩
def GID_ID.SUBSYS : Loc := ⟨GID_ID.off, 48, 16, .ro, 1⟩
/-- The fields of GID_ID. -/
def GID_ID.fields : List Loc := [GID_ID.VENDOR, GID_ID.DEVICE, GID_ID.STEPPING, GID_ID.VARIANT, GID_ID.SUBSYS]

/-- Offset of GID_VER (R498). -/
def GID_VER.off : Nat := 0x8
def GID_VER.IMG_FORMAT : Loc := ⟨GID_VER.off, 0, 32, .ro, 0x20000⟩
def GID_VER.MAP_REV : Loc := ⟨GID_VER.off, 32, 8, .ro, 1⟩
/-- The fields of GID_VER. -/
def GID_VER.fields : List Loc := [GID_VER.IMG_FORMAT, GID_VER.MAP_REV]

/-- Offset of GID_FWVER (R498). -/
def GID_FWVER.off : Nat := 0x10
def GID_FWVER.VERSION : Loc := ⟨GID_FWVER.off, 0, 64, .ro, 0⟩
/-- The fields of GID_FWVER. -/
def GID_FWVER.fields : List Loc := [GID_FWVER.VERSION]

/-- Offset of GID_CAP0 (R498). -/
def GID_CAP0.off : Nat := 0x28
def GID_CAP0.PORTS : Loc := ⟨GID_CAP0.off, 0, 4, .ro, 8⟩
def GID_CAP0.TOWERS : Loc := ⟨GID_CAP0.off, 4, 4, .ro, 8⟩
def GID_CAP0.CORES : Loc := ⟨GID_CAP0.off, 8, 7, .ro, 0x40⟩
def GID_CAP0.COLUMNS : Loc := ⟨GID_CAP0.off, 15, 10, .ro, 0x200⟩
def GID_CAP0.GEARS : Loc := ⟨GID_CAP0.off, 25, 3, .ro, 5⟩
def GID_CAP0.HDM : Loc := ⟨GID_CAP0.off, 28, 4, .ro, 4⟩
def GID_CAP0.WINDOWS : Loc := ⟨GID_CAP0.off, 32, 5, .ro, 0x10⟩
def GID_CAP0.MSIX : Loc := ⟨GID_CAP0.off, 37, 6, .ro, 0x20⟩
def GID_CAP0.COMPAT : Loc := ⟨GID_CAP0.off, 43, 1, .ro, 1⟩
def GID_CAP0.SPARSE : Loc := ⟨GID_CAP0.off, 44, 1, .ro, 1⟩
def GID_CAP0.ATS : Loc := ⟨GID_CAP0.off, 45, 1, .ro, 1⟩
def GID_CAP0.IDE : Loc := ⟨GID_CAP0.off, 46, 1, .ro, 1⟩
/-- The fields of GID_CAP0. -/
def GID_CAP0.fields : List Loc := [GID_CAP0.PORTS, GID_CAP0.TOWERS, GID_CAP0.CORES, GID_CAP0.COLUMNS, GID_CAP0.GEARS, GID_CAP0.HDM, GID_CAP0.WINDOWS, GID_CAP0.MSIX, GID_CAP0.COMPAT, GID_CAP0.SPARSE, GID_CAP0.ATS, GID_CAP0.IDE]

/-- Offset of GID_CAP1 (R498). -/
def GID_CAP1.off : Nat := 0x30
def GID_CAP1.TOTAL : Loc := ⟨GID_CAP1.off, 0, 12, .ro, 0x900⟩
def GID_CAP1.HVIS : Loc := ⟨GID_CAP1.off, 12, 12, .ro, 0x8e0⟩
def GID_CAP1.SRAM : Loc := ⟨GID_CAP1.off, 32, 10, .ro, 0x220⟩
/-- The fields of GID_CAP1. -/
def GID_CAP1.fields : List Loc := [GID_CAP1.TOTAL, GID_CAP1.HVIS, GID_CAP1.SRAM]

/-- Offset of GID_STRAP (R498). -/
def GID_STRAP.off : Nat := 0x38
def GID_STRAP.SLOT_ID : Loc := ⟨GID_STRAP.off, 0, 4, .ro, 0xf⟩
def GID_STRAP.ORIGIN : Loc := ⟨GID_STRAP.off, 4, 1, .ro, 0⟩
/-- The fields of GID_STRAP. -/
def GID_STRAP.fields : List Loc := [GID_STRAP.SLOT_ID, GID_STRAP.ORIGIN]

/-- Offset of GID_COORD (R499). -/
def GID_COORD.off : Nat := 0x40
def GID_COORD.X : Loc := ⟨GID_COORD.off, 0, 6, .rw, 0⟩
def GID_COORD.Y : Loc := ⟨GID_COORD.off, 8, 6, .rw, 0⟩
def GID_COORD.Z : Loc := ⟨GID_COORD.off, 16, 6, .rw, 0⟩
def GID_COORD.SX : Loc := ⟨GID_COORD.off, 24, 7, .rw, 0⟩
def GID_COORD.SY : Loc := ⟨GID_COORD.off, 32, 7, .rw, 0⟩
def GID_COORD.SZ : Loc := ⟨GID_COORD.off, 40, 7, .rw, 0⟩
def GID_COORD.VALID : Loc := ⟨GID_COORD.off, 48, 1, .rw, 0⟩
/-- The fields of GID_COORD. -/
def GID_COORD.fields : List Loc := [GID_COORD.X, GID_COORD.Y, GID_COORD.Z, GID_COORD.SX, GID_COORD.SY, GID_COORD.SZ, GID_COORD.VALID]

/-- Offset of GID_NODE (R499). -/
def GID_NODE.off : Nat := 0x48
def GID_NODE.NODE : Loc := ⟨GID_NODE.off, 0, 18, .ro, 0⟩
def GID_NODE.CVALID : Loc := ⟨GID_NODE.off, 18, 1, .ro, 0⟩
def GID_NODE.CSRC : Loc := ⟨GID_NODE.off, 19, 2, .ro, 0⟩
def GID_NODE.COORD_REJ : Loc := ⟨GID_NODE.off, 21, 1, .w1c, 0⟩
/-- The fields of GID_NODE. -/
def GID_NODE.fields : List Loc := [GID_NODE.NODE, GID_NODE.CVALID, GID_NODE.CSRC, GID_NODE.COORD_REJ]

/-- Offset of GID_SCRATCH (R498). -/
def GID_SCRATCH.off : Nat := 0x50
def GID_SCRATCH.VALUE : Loc := ⟨GID_SCRATCH.off, 0, 64, .rw, 0⟩
/-- The fields of GID_SCRATCH. -/
def GID_SCRATCH.fields : List Loc := [GID_SCRATCH.VALUE]

/-- Offset of EVT_CTRL (R501). -/
def EVT_CTRL.off : Nat := 0x10000 + 0x0
def EVT_CTRL.IEN : Loc := ⟨EVT_CTRL.off, 0, 1, .rw, 0⟩
def EVT_CTRL.IMASK : Loc := ⟨EVT_CTRL.off, 1, 4, .rw, 0xf⟩
/-- The fields of EVT_CTRL. -/
def EVT_CTRL.fields : List Loc := [EVT_CTRL.IEN, EVT_CTRL.IMASK]

/-- Offset of EVT_HEAD (R501). -/
def EVT_HEAD.off : Nat := 0x10000 + 0x8
def EVT_HEAD.HEAD : Loc := ⟨EVT_HEAD.off, 0, 10, .rw, 0⟩
/-- The fields of EVT_HEAD. -/
def EVT_HEAD.fields : List Loc := [EVT_HEAD.HEAD]

/-- Offset of EVT_TAIL (R501). -/
def EVT_TAIL.off : Nat := 0x10000 + 0x10
def EVT_TAIL.TAIL : Loc := ⟨EVT_TAIL.off, 0, 10, .ro, 0⟩
def EVT_TAIL.PHASE : Loc := ⟨EVT_TAIL.off, 10, 1, .ro, 1⟩
/-- The fields of EVT_TAIL. -/
def EVT_TAIL.fields : List Loc := [EVT_TAIL.TAIL, EVT_TAIL.PHASE]

/-- Offset of EVT_STAT (R501). -/
def EVT_STAT.off : Nat := 0x10000 + 0x18
def EVT_STAT.OVF : Loc := ⟨EVT_STAT.off, 0, 1, .w1c, 0⟩
def EVT_STAT.LOST : Loc := ⟨EVT_STAT.off, 16, 16, .ro, 0⟩
/-- The fields of EVT_STAT. -/
def EVT_STAT.fields : List Loc := [EVT_STAT.OVF, EVT_STAT.LOST]

/-- Offset of PWR_GEAR (R452). -/
def PWR_GEAR.off : Nat := 0x30000 + 0x0
def PWR_GEAR.GEAR : Loc := ⟨PWR_GEAR.off, 0, 3, .ro, 4⟩
def PWR_GEAR.CHANGING : Loc := ⟨PWR_GEAR.off, 3, 1, .ro, 0⟩
def PWR_GEAR.LIM_IMG : Loc := ⟨PWR_GEAR.off, 4, 3, .ro, 0⟩
def PWR_GEAR.LIM_HOST : Loc := ⟨PWR_GEAR.off, 7, 3, .ro, 0⟩
def PWR_GEAR.LIM_THERM : Loc := ⟨PWR_GEAR.off, 10, 3, .ro, 0⟩
def PWR_GEAR.LIM_PWR : Loc := ⟨PWR_GEAR.off, 13, 3, .ro, 0⟩
def PWR_GEAR.CHANGES : Loc := ⟨PWR_GEAR.off, 16, 16, .ro, 0⟩
/-- The fields of PWR_GEAR. -/
def PWR_GEAR.fields : List Loc := [PWR_GEAR.GEAR, PWR_GEAR.CHANGING, PWR_GEAR.LIM_IMG, PWR_GEAR.LIM_HOST, PWR_GEAR.LIM_THERM, PWR_GEAR.LIM_PWR, PWR_GEAR.CHANGES]

/-- Offset of PWR_CAP (R452). -/
def PWR_CAP.off : Nat := 0x30000 + 0x8
def PWR_CAP.CAP_W : Loc := ⟨PWR_CAP.off, 0, 10, .rw, 0x28a⟩
def PWR_CAP.CAP_UNMET : Loc := ⟨PWR_CAP.off, 10, 1, .w1c, 0⟩
/-- The fields of PWR_CAP. -/
def PWR_CAP.fields : List Loc := [PWR_CAP.CAP_W, PWR_CAP.CAP_UNMET]

/-- Offset of PWR_MEAS (R452). -/
def PWR_MEAS.off : Nat := 0x30000 + 0x10
def PWR_MEAS.POWER_W : Loc := ⟨PWR_MEAS.off, 0, 10, .ro, 0⟩
def PWR_MEAS.VIN : Loc := ⟨PWR_MEAS.off, 16, 10, .ro, 0⟩
/-- The fields of PWR_MEAS. -/
def PWR_MEAS.fields : List Loc := [PWR_MEAS.POWER_W, PWR_MEAS.VIN]

/-- Offset of PWR_FW (R452). -/
def PWR_FW.off : Nat := 0x30000 + 0x18
def PWR_FW.FW_REQ : Loc := ⟨PWR_FW.off, 0, 1, .wo, 0⟩
def PWR_FW.WAKE : Loc := ⟨PWR_FW.off, 1, 1, .wo, 0⟩
def PWR_FW.FW : Loc := ⟨PWR_FW.off, 2, 1, .ro, 0⟩
def PWR_FW.FW_REFUSED : Loc := ⟨PWR_FW.off, 3, 1, .w1c, 0⟩
/-- The fields of PWR_FW. -/
def PWR_FW.fields : List Loc := [PWR_FW.FW_REQ, PWR_FW.WAKE, PWR_FW.FW, PWR_FW.FW_REFUSED]

/-- Offset of PWR_TRIP (R452). -/
def PWR_TRIP.off : Nat := 0x30000 + 0x20
def PWR_TRIP.COUNT : Loc := ⟨PWR_TRIP.off, 0, 16, .ro, 0⟩
def PWR_TRIP.CAUSE : Loc := ⟨PWR_TRIP.off, 16, 8, .ro, 0⟩
def PWR_TRIP.SENSOR : Loc := ⟨PWR_TRIP.off, 24, 8, .ro, 0⟩
def PWR_TRIP.TEMP : Loc := ⟨PWR_TRIP.off, 32, 16, .ro, 0⟩
/-- The fields of PWR_TRIP. -/
def PWR_TRIP.fields : List Loc := [PWR_TRIP.COUNT, PWR_TRIP.CAUSE, PWR_TRIP.SENSOR, PWR_TRIP.TEMP]

/-- Offset of RST_CTRL (R471). -/
def RST_CTRL.off : Nat := 0x30000 + 0x28
def RST_CTRL.WARM : Loc := ⟨RST_CTRL.off, 0, 1, .wo, 0⟩
def RST_CTRL.CORE_RST : Loc := ⟨RST_CTRL.off, 1, 1, .wo, 0⟩
def RST_CTRL.CORE : Loc := ⟨RST_CTRL.off, 8, 6, .rw, 0⟩
/-- The fields of RST_CTRL. -/
def RST_CTRL.fields : List Loc := [RST_CTRL.WARM, RST_CTRL.CORE_RST, RST_CTRL.CORE]

/-- Offset of RST_STAT (R471). -/
def RST_STAT.off : Nat := 0x30000 + 0x30
def RST_STAT.STEP : Loc := ⟨RST_STAT.off, 0, 4, .ro, 0xc⟩
def RST_STAT.FAILSTEP : Loc := ⟨RST_STAT.off, 4, 4, .ro, 0⟩
def RST_STAT.LAST : Loc := ⟨RST_STAT.off, 8, 3, .ro, 0⟩
def RST_STAT.WARMS : Loc := ⟨RST_STAT.off, 16, 16, .ro, 0⟩
def RST_STAT.BOOT : Loc := ⟨RST_STAT.off, 32, 32, .ro, 0⟩
/-- The fields of RST_STAT. -/
def RST_STAT.fields : List Loc := [RST_STAT.STEP, RST_STAT.FAILSTEP, RST_STAT.LAST, RST_STAT.WARMS, RST_STAT.BOOT]

/-- Offset of KICK_STAT (R471). -/
def KICK_STAT.off : Nat := 0x30000 + 0x38
def KICK_STAT.KICK : Loc := ⟨KICK_STAT.off, 0, 1, .ro, 0⟩
def KICK_STAT.CAUSE : Loc := ⟨KICK_STAT.off, 1, 2, .ro, 0⟩
def KICK_STAT.FAILED : Loc := ⟨KICK_STAT.off, 3, 8, .ro, 0⟩
def KICK_STAT.DOMAIN : Loc := ⟨KICK_STAT.off, 11, 8, .ro, 0xff⟩
/-- The fields of KICK_STAT. -/
def KICK_STAT.fields : List Loc := [KICK_STAT.KICK, KICK_STAT.CAUSE, KICK_STAT.FAILED, KICK_STAT.DOMAIN]

/-- Offset of THM_STAT (R453). -/
def THM_STAT.off : Nat := 0x40000 + 0x0
def THM_STAT.MAX_T : Loc := ⟨THM_STAT.off, 0, 13, .ro, 0⟩
def THM_STAT.LEVEL : Loc := ⟨THM_STAT.off, 16, 2, .ro, 0⟩
def THM_STAT.MAX_SENS : Loc := ⟨THM_STAT.off, 18, 8, .ro, 0⟩
def THM_STAT.RATE_EV : Loc := ⟨THM_STAT.off, 26, 1, .w1c, 0⟩
def THM_STAT.WARN_EV : Loc := ⟨THM_STAT.off, 27, 1, .w1c, 0⟩
def THM_STAT.BRAKE_EV : Loc := ⟨THM_STAT.off, 28, 1, .w1c, 0⟩
def THM_STAT.HEAVY_EV : Loc := ⟨THM_STAT.off, 29, 1, .w1c, 0⟩
/-- The fields of THM_STAT. -/
def THM_STAT.fields : List Loc := [THM_STAT.MAX_T, THM_STAT.LEVEL, THM_STAT.MAX_SENS, THM_STAT.RATE_EV, THM_STAT.WARN_EV, THM_STAT.BRAKE_EV, THM_STAT.HEAVY_EV]

/-- Offset of THM_HOTREF (R453). -/
def THM_HOTREF.off : Nat := 0x40000 + 0x8
def THM_HOTREF.HOT : Loc := ⟨THM_HOTREF.off, 0, 48, .ro, 0⟩
/-- The fields of THM_HOTREF. -/
def THM_HOTREF.fields : List Loc := [THM_HOTREF.HOT]

/-- Offset of TRU_STAT (R423). -/
def TRU_STAT.off : Nat := 0x50000 + 0x0
def TRU_STAT.OWNED : Loc := ⟨TRU_STAT.off, 0, 1, .ro, 0⟩
def TRU_STAT.EPOCH : Loc := ⟨TRU_STAT.off, 1, 6, .ro, 0⟩
def TRU_STAT.SVN_FUSE : Loc := ⟨TRU_STAT.off, 7, 7, .ro, 0⟩
def TRU_STAT.SVN_RUN : Loc := ⟨TRU_STAT.off, 14, 7, .ro, 0⟩
def TRU_STAT.SLOT : Loc := ⟨TRU_STAT.off, 21, 1, .ro, 0⟩
def TRU_STAT.FALLBACK : Loc := ⟨TRU_STAT.off, 22, 1, .ro, 0⟩
def TRU_STAT.ID_FAULT : Loc := ⟨TRU_STAT.off, 23, 1, .ro, 0⟩
def TRU_STAT.POLICY : Loc := ⟨TRU_STAT.off, 24, 4, .ro, 0⟩
def TRU_STAT.DEBUG : Loc := ⟨TRU_STAT.off, 28, 2, .ro, 0⟩
def TRU_STAT.CLEAN : Loc := ⟨TRU_STAT.off, 30, 1, .ro, 0⟩
/-- The fields of TRU_STAT. -/
def TRU_STAT.fields : List Loc := [TRU_STAT.OWNED, TRU_STAT.EPOCH, TRU_STAT.SVN_FUSE, TRU_STAT.SVN_RUN, TRU_STAT.SLOT, TRU_STAT.FALLBACK, TRU_STAT.ID_FAULT, TRU_STAT.POLICY, TRU_STAT.DEBUG, TRU_STAT.CLEAN]

/-- Offset of TRU_MBOX (R423). -/
def TRU_MBOX.off : Nat := 0x50000 + 0x8
def TRU_MBOX.GO : Loc := ⟨TRU_MBOX.off, 0, 1, .w1s, 0⟩
def TRU_MBOX.BUSY : Loc := ⟨TRU_MBOX.off, 1, 1, .ro, 0⟩
def TRU_MBOX.OPCODE : Loc := ⟨TRU_MBOX.off, 2, 8, .rw, 0⟩
def TRU_MBOX.LEN : Loc := ⟨TRU_MBOX.off, 10, 15, .rw, 0⟩
def TRU_MBOX.RLEN : Loc := ⟨TRU_MBOX.off, 25, 15, .ro, 0⟩
def TRU_MBOX.STATUS : Loc := ⟨TRU_MBOX.off, 40, 8, .ro, 0⟩
/-- The fields of TRU_MBOX. -/
def TRU_MBOX.fields : List Loc := [TRU_MBOX.GO, TRU_MBOX.BUSY, TRU_MBOX.OPCODE, TRU_MBOX.LEN, TRU_MBOX.RLEN, TRU_MBOX.STATUS]

/-- Offset of TRU_ERASE (R423). -/
def TRU_ERASE.off : Nat := 0x50000 + 0x10
def TRU_ERASE.SEQ : Loc := ⟨TRU_ERASE.off, 0, 32, .ro, 0⟩
def TRU_ERASE.KIND : Loc := ⟨TRU_ERASE.off, 32, 2, .ro, 0⟩
def TRU_ERASE.COMPLETE : Loc := ⟨TRU_ERASE.off, 34, 1, .ro, 0⟩
/-- The fields of TRU_ERASE. -/
def TRU_ERASE.fields : List Loc := [TRU_ERASE.SEQ, TRU_ERASE.KIND, TRU_ERASE.COMPLETE]

/-- Offset of IMG_STAT (R339). -/
def IMG_STAT.off : Nat := 0x60000 + 0x0
def IMG_STAT.STATE : Loc := ⟨IMG_STAT.off, 0, 3, .ro, 0⟩
def IMG_STAT.TOP_GEAR : Loc := ⟨IMG_STAT.off, 3, 3, .ro, 0⟩
def IMG_STAT.TCLASS : Loc := ⟨IMG_STAT.off, 6, 1, .ro, 0⟩
def IMG_STAT.PEND_SNAP : Loc := ⟨IMG_STAT.off, 7, 1, .ro, 0⟩
def IMG_STAT.PEND_STOP : Loc := ⟨IMG_STAT.off, 8, 1, .ro, 0⟩
def IMG_STAT.SNAP_SLOTS : Loc := ⟨IMG_STAT.off, 9, 4, .ro, 0⟩
def IMG_STAT.SNAP_VALID : Loc := ⟨IMG_STAT.off, 13, 8, .ro, 0⟩
def IMG_STAT.OVERRUN : Loc := ⟨IMG_STAT.off, 21, 1, .w1c, 0⟩
def IMG_STAT.HOT_STOP : Loc := ⟨IMG_STAT.off, 22, 1, .w1c, 0⟩
/-- The fields of IMG_STAT. -/
def IMG_STAT.fields : List Loc := [IMG_STAT.STATE, IMG_STAT.TOP_GEAR, IMG_STAT.TCLASS, IMG_STAT.PEND_SNAP, IMG_STAT.PEND_STOP, IMG_STAT.SNAP_SLOTS, IMG_STAT.SNAP_VALID, IMG_STAT.OVERRUN, IMG_STAT.HOT_STOP]

/-- Offset of IMG_LAP (R339). -/
def IMG_LAP.off : Nat := 0x60000 + 0x8
def IMG_LAP.LAP : Loc := ⟨IMG_LAP.off, 0, 64, .ro, 0⟩
/-- The fields of IMG_LAP. -/
def IMG_LAP.fields : List Loc := [IMG_LAP.LAP]

/-- Offset of IMG_WCET (R339). -/
def IMG_WCET.off : Nat := 0x60000 + 0x10
def IMG_WCET.WCET : Loc := ⟨IMG_WCET.off, 0, 48, .ro, 0⟩
/-- The fields of IMG_WCET. -/
def IMG_WCET.fields : List Loc := [IMG_WCET.WCET]

/-- Offset of IMG_LASTLEN (R339). -/
def IMG_LASTLEN.off : Nat := 0x60000 + 0x18
def IMG_LASTLEN.LEN : Loc := ⟨IMG_LASTLEN.off, 0, 48, .ro, 0⟩
/-- The fields of IMG_LASTLEN. -/
def IMG_LASTLEN.fields : List Loc := [IMG_LASTLEN.LEN]

/-- Offset of IMG_PATCHQ (R339). -/
def IMG_PATCHQ.off : Nat := 0x60000 + 0x20
def IMG_PATCHQ.USED : Loc := ⟨IMG_PATCHQ.off, 0, 11, .ro, 0⟩
def IMG_PATCHQ.FULL_SEEN : Loc := ⟨IMG_PATCHQ.off, 11, 1, .w1c, 0⟩
/-- The fields of IMG_PATCHQ. -/
def IMG_PATCHQ.fields : List Loc := [IMG_PATCHQ.USED, IMG_PATCHQ.FULL_SEEN]

/-- Offset of IMG_LAPMASK (R339). -/
def IMG_LAPMASK.off : Nat := 0x60000 + 0x28
def IMG_LAPMASK.LAPMASK : Loc := ⟨IMG_LAPMASK.off, 0, 64, .ro, 0⟩
/-- The fields of IMG_LAPMASK. -/
def IMG_LAPMASK.fields : List Loc := [IMG_LAPMASK.LAPMASK]

/-- Offset of TEL_CTRL (R482). -/
def TEL_CTRL.off : Nat := 0x60000 + 0x80
def TEL_CTRL.VIEW : Loc := ⟨TEL_CTRL.off, 0, 1, .rw, 0⟩
def TEL_CTRL.LVALID : Loc := ⟨TEL_CTRL.off, 1, 1, .ro, 0⟩
def TEL_CTRL.BRK_ALL : Loc := ⟨TEL_CTRL.off, 2, 1, .wo, 0⟩
def TEL_CTRL.RESUME_ALL : Loc := ⟨TEL_CTRL.off, 3, 1, .wo, 0⟩
def TEL_CTRL.STEP_ALL : Loc := ⟨TEL_CTRL.off, 4, 1, .wo, 0⟩
/-- The fields of TEL_CTRL. -/
def TEL_CTRL.fields : List Loc := [TEL_CTRL.VIEW, TEL_CTRL.LVALID, TEL_CTRL.BRK_ALL, TEL_CTRL.RESUME_ALL, TEL_CTRL.STEP_ALL]

/-- Offset of TEL_LAT (R482). -/
def TEL_LAT.off : Nat := 0x60000 + 0x88
def TEL_LAT.LAP : Loc := ⟨TEL_LAT.off, 0, 64, .ro, 0⟩
/-- The fields of TEL_LAT. -/
def TEL_LAT.fields : List Loc := [TEL_LAT.LAP]

/-- Offset of TEL_LSTAMP (R482). -/
def TEL_LSTAMP.off : Nat := 0x60000 + 0x90
def TEL_LSTAMP.STAMP : Loc := ⟨TEL_LSTAMP.off, 0, 64, .ro, 0⟩
/-- The fields of TEL_LSTAMP. -/
def TEL_LSTAMP.fields : List Loc := [TEL_LSTAMP.STAMP]

/-- Offset of TEL_TIME (R482). -/
def TEL_TIME.off : Nat := 0x60000 + 0x98
def TEL_TIME.TIME : Loc := ⟨TEL_TIME.off, 0, 64, .ro, 0⟩
/-- The fields of TEL_TIME. -/
def TEL_TIME.fields : List Loc := [TEL_TIME.TIME]

/-- Offset of TEL_MOD (R482). -/
def TEL_MOD.off : Nat := 0x60000 + 0xA0
def TEL_MOD.THERM_DN : Loc := ⟨TEL_MOD.off, 0, 16, .ro, 0⟩
def TEL_MOD.PWR_DN : Loc := ⟨TEL_MOD.off, 16, 16, .ro, 0⟩
def TEL_MOD.WD_HALTS : Loc := ⟨TEL_MOD.off, 32, 16, .ro, 0⟩
def TEL_MOD.HALTS : Loc := ⟨TEL_MOD.off, 48, 16, .ro, 0⟩
/-- The fields of TEL_MOD. -/
def TEL_MOD.fields : List Loc := [TEL_MOD.THERM_DN, TEL_MOD.PWR_DN, TEL_MOD.WD_HALTS, TEL_MOD.HALTS]

/-- Offset of MAP_CTRL (R45). -/
def MAP_CTRL.off : Nat := 0x70000 + 0x0
def MAP_CTRL.COMMIT : Loc := ⟨MAP_CTRL.off, 0, 1, .wo, 0⟩
def MAP_CTRL.BUSY : Loc := ⟨MAP_CTRL.off, 1, 1, .ro, 0⟩
def MAP_CTRL.STG_LOST : Loc := ⟨MAP_CTRL.off, 2, 1, .w1c, 0⟩
def MAP_CTRL.ERR : Loc := ⟨MAP_CTRL.off, 8, 8, .ro, 0⟩
def MAP_CTRL.ERR_ENTRY : Loc := ⟨MAP_CTRL.off, 16, 4, .ro, 0⟩
/-- The fields of MAP_CTRL. -/
def MAP_CTRL.fields : List Loc := [MAP_CTRL.COMMIT, MAP_CTRL.BUSY, MAP_CTRL.STG_LOST, MAP_CTRL.ERR, MAP_CTRL.ERR_ENTRY]

/-- Offset of MAP_RESERVE (R45). -/
def MAP_RESERVE.off : Nat := 0x70000 + 0x8
def MAP_RESERVE.RSV_NOW : Loc := ⟨MAP_RESERVE.off, 0, 6, .ro, 4⟩
def MAP_RESERVE.RSV_NEXT : Loc := ⟨MAP_RESERVE.off, 8, 6, .rw, 4⟩
/-- The fields of MAP_RESERVE. -/
def MAP_RESERVE.fields : List Loc := [MAP_RESERVE.RSV_NOW, MAP_RESERVE.RSV_NEXT]

/-- Offset of MAP_PTROOT (R45). -/
def MAP_PTROOT.off : Nat := 0x70000 + 0x10
def MAP_PTROOT.PTV : Loc := ⟨MAP_PTROOT.off, 0, 1, .ro, 0⟩
def MAP_PTROOT.ROOT : Loc := ⟨MAP_PTROOT.off, 12, 28, .ro, 0⟩
/-- The fields of MAP_PTROOT. -/
def MAP_PTROOT.fields : List Loc := [MAP_PTROOT.PTV, MAP_PTROOT.ROOT]

/-- Offset of GID_SERIAL (R498). -/
def GID_SERIAL.off (n : Nat) : Nat := 0x18 + n * 0x8
def GID_SERIAL.BYTES (n : Nat) : Loc := ⟨GID_SERIAL.off n, 0, 64, .ro, 0⟩
/-- The fields of GID_SERIAL. -/
def GID_SERIAL.fields (n : Nat) : List Loc := [GID_SERIAL.BYTES n]

/-- Offset of EVT_REC (R501). -/
def EVT_REC.off (n : Nat) : Nat := 0x10000 + 0x8000 + n * 0x8
def EVT_REC.WORD (n : Nat) : Loc := ⟨EVT_REC.off n, 0, 64, .ro, 0⟩
/-- The fields of EVT_REC. -/
def EVT_REC.fields (n : Nat) : List Loc := [EVT_REC.WORD n]

/-- Offset of PWR_DOM (R452). -/
def PWR_DOM.off (n : Nat) : Nat := 0x30000 + 0x100 + n * 0x8
def PWR_DOM.ON (n : Nat) : Loc := ⟨PWR_DOM.off n, 0, 1, .ro, 0⟩
def PWR_DOM.FAULT (n : Nat) : Loc := ⟨PWR_DOM.off n, 1, 1, .ro, 0⟩
def PWR_DOM.POWER (n : Nat) : Loc := ⟨PWR_DOM.off n, 16, 10, .ro, 0⟩
/-- The fields of PWR_DOM. -/
def PWR_DOM.fields (n : Nat) : List Loc := [PWR_DOM.ON n, PWR_DOM.FAULT n, PWR_DOM.POWER n]

/-- Offset of THM_SENS (R453). -/
def THM_SENS.off (n : Nat) : Nat := 0x40000 + 0x100 + n * 0x8
def THM_SENS.TEMP (n : Nat) : Loc := ⟨THM_SENS.off n, 0, 13, .ro, 0⟩
def THM_SENS.FAST (n : Nat) : Loc := ⟨THM_SENS.off n, 13, 1, .ro, 0⟩
def THM_SENS.FAILED (n : Nat) : Loc := ⟨THM_SENS.off n, 14, 1, .ro, 0⟩
/-- The fields of THM_SENS. -/
def THM_SENS.fields (n : Nat) : List Loc := [THM_SENS.TEMP n, THM_SENS.FAST n, THM_SENS.FAILED n]

/-- Offset of THM_DIE (R453). -/
def THM_DIE.off (n : Nat) : Nat := 0x40000 + 0x800 + n * 0x8
def THM_DIE.MAX_T (n : Nat) : Loc := ⟨THM_DIE.off n, 0, 13, .ro, 0⟩
def THM_DIE.LEVEL (n : Nat) : Loc := ⟨THM_DIE.off n, 16, 2, .ro, 0⟩
def THM_DIE.HOTREF (n : Nat) : Loc := ⟨THM_DIE.off n, 18, 1, .ro, 0⟩
def THM_DIE.FAST (n : Nat) : Loc := ⟨THM_DIE.off n, 19, 1, .ro, 0⟩
/-- The fields of THM_DIE. -/
def THM_DIE.fields (n : Nat) : List Loc := [THM_DIE.MAX_T n, THM_DIE.LEVEL n, THM_DIE.HOTREF n, THM_DIE.FAST n]

/-- Offset of IMG_DIGEST (R339). -/
def IMG_DIGEST.off (n : Nat) : Nat := 0x60000 + 0x40 + n * 0x8
def IMG_DIGEST.BYTES (n : Nat) : Loc := ⟨IMG_DIGEST.off n, 0, 64, .ro, 0⟩
/-- The fields of IMG_DIGEST. -/
def IMG_DIGEST.fields (n : Nat) : List Loc := [IMG_DIGEST.BYTES n]

/-- Offset of TEL_GEAR (R482). -/
def TEL_GEAR.off (n : Nat) : Nat := 0x60000 + 0xC0 + n * 0x8
def TEL_GEAR.CYCLES (n : Nat) : Loc := ⟨TEL_GEAR.off n, 0, 48, .ro, 0⟩
/-- The fields of TEL_GEAR. -/
def TEL_GEAR.fields (n : Nat) : List Loc := [TEL_GEAR.CYCLES n]

/-- Offset of MAP_RGN_A (R45). -/
def MAP_RGN_A.off (n : Nat) : Nat := 0x70000 + 0x100 + n * 0x20
def MAP_RGN_A.VALID (n : Nat) : Loc := ⟨MAP_RGN_A.off n, 0, 1, .rw, 0⟩
def MAP_RGN_A.LOCK (n : Nat) : Loc := ⟨MAP_RGN_A.off n, 1, 1, .ro, 0⟩
def MAP_RGN_A.BASE (n : Nat) : Loc := ⟨MAP_RGN_A.off n, 4, 12, .rw, 0⟩
def MAP_RGN_A.SIZE (n : Nat) : Loc := ⟨MAP_RGN_A.off n, 16, 12, .rw, 0⟩
def MAP_RGN_A.GRAIN_K (n : Nat) : Loc := ⟨MAP_RGN_A.off n, 28, 5, .rw, 0⟩
def MAP_RGN_A.FIRST (n : Nat) : Loc := ⟨MAP_RGN_A.off n, 36, 9, .rw, 0⟩
def MAP_RGN_A.COUNT (n : Nat) : Loc := ⟨MAP_RGN_A.off n, 45, 10, .rw, 0⟩
/-- The fields of MAP_RGN_A. -/
def MAP_RGN_A.fields (n : Nat) : List Loc := [MAP_RGN_A.VALID n, MAP_RGN_A.LOCK n, MAP_RGN_A.BASE n, MAP_RGN_A.SIZE n, MAP_RGN_A.GRAIN_K n, MAP_RGN_A.FIRST n, MAP_RGN_A.COUNT n]

/-- Offset of MAP_RGN_B (R45). -/
def MAP_RGN_B.off (n : Nat) : Nat := 0x70000 + 0x108 + n * 0x20
def MAP_RGN_B.COLBASE (n : Nat) : Loc := ⟨MAP_RGN_B.off n, 0, 12, .rw, 0⟩
def MAP_RGN_B.COH (n : Nat) : Loc := ⟨MAP_RGN_B.off n, 16, 1, .rw, 0⟩
def MAP_RGN_B.HR (n : Nat) : Loc := ⟨MAP_RGN_B.off n, 17, 1, .rw, 0⟩
def MAP_RGN_B.HW (n : Nat) : Loc := ⟨MAP_RGN_B.off n, 18, 1, .rw, 0⟩
def MAP_RGN_B.ER (n : Nat) : Loc := ⟨MAP_RGN_B.off n, 19, 1, .rw, 0⟩
def MAP_RGN_B.EW (n : Nat) : Loc := ⟨MAP_RGN_B.off n, 20, 1, .rw, 0⟩
def MAP_RGN_B.FR (n : Nat) : Loc := ⟨MAP_RGN_B.off n, 21, 1, .rw, 0⟩
def MAP_RGN_B.FW (n : Nat) : Loc := ⟨MAP_RGN_B.off n, 22, 1, .rw, 0⟩
def MAP_RGN_B.HB (n : Nat) : Loc := ⟨MAP_RGN_B.off n, 23, 1, .rw, 0⟩
/-- The fields of MAP_RGN_B. -/
def MAP_RGN_B.fields (n : Nat) : List Loc := [MAP_RGN_B.COLBASE n, MAP_RGN_B.COH n, MAP_RGN_B.HR n, MAP_RGN_B.HW n, MAP_RGN_B.ER n, MAP_RGN_B.EW n, MAP_RGN_B.FR n, MAP_RGN_B.FW n, MAP_RGN_B.HB n]

/-- Offset of MAP_RGN_C (R45). -/
def MAP_RGN_C.off (n : Nat) : Nat := 0x70000 + 0x110 + n * 0x20
def MAP_RGN_C.HOSTADDR (n : Nat) : Loc := ⟨MAP_RGN_C.off n, 12, 52, .rw, 0⟩
/-- The fields of MAP_RGN_C. -/
def MAP_RGN_C.fields (n : Nat) : List Loc := [MAP_RGN_C.HOSTADDR n]

/-- Offset of MAP_INST_A (R45). -/
def MAP_INST_A.off (n : Nat) : Nat := 0x70000 + 0x300 + n * 0x20
def MAP_INST_A.VALID (n : Nat) : Loc := ⟨MAP_INST_A.off n, 0, 1, .ro, 0⟩
def MAP_INST_A.LOCK (n : Nat) : Loc := ⟨MAP_INST_A.off n, 1, 1, .ro, 0⟩
def MAP_INST_A.BASE (n : Nat) : Loc := ⟨MAP_INST_A.off n, 4, 12, .ro, 0⟩
def MAP_INST_A.SIZE (n : Nat) : Loc := ⟨MAP_INST_A.off n, 16, 12, .ro, 0⟩
def MAP_INST_A.GRAIN_K (n : Nat) : Loc := ⟨MAP_INST_A.off n, 28, 5, .ro, 0⟩
def MAP_INST_A.FIRST (n : Nat) : Loc := ⟨MAP_INST_A.off n, 36, 9, .ro, 0⟩
def MAP_INST_A.COUNT (n : Nat) : Loc := ⟨MAP_INST_A.off n, 45, 10, .ro, 0⟩
/-- The fields of MAP_INST_A. -/
def MAP_INST_A.fields (n : Nat) : List Loc := [MAP_INST_A.VALID n, MAP_INST_A.LOCK n, MAP_INST_A.BASE n, MAP_INST_A.SIZE n, MAP_INST_A.GRAIN_K n, MAP_INST_A.FIRST n, MAP_INST_A.COUNT n]

/-- Offset of MAP_INST_B (R45). -/
def MAP_INST_B.off (n : Nat) : Nat := 0x70000 + 0x308 + n * 0x20
def MAP_INST_B.COLBASE (n : Nat) : Loc := ⟨MAP_INST_B.off n, 0, 12, .ro, 0⟩
def MAP_INST_B.COH (n : Nat) : Loc := ⟨MAP_INST_B.off n, 16, 1, .ro, 0⟩
def MAP_INST_B.HR (n : Nat) : Loc := ⟨MAP_INST_B.off n, 17, 1, .ro, 0⟩
def MAP_INST_B.HW (n : Nat) : Loc := ⟨MAP_INST_B.off n, 18, 1, .ro, 0⟩
def MAP_INST_B.ER (n : Nat) : Loc := ⟨MAP_INST_B.off n, 19, 1, .ro, 0⟩
def MAP_INST_B.EW (n : Nat) : Loc := ⟨MAP_INST_B.off n, 20, 1, .ro, 0⟩
def MAP_INST_B.FR (n : Nat) : Loc := ⟨MAP_INST_B.off n, 21, 1, .ro, 0⟩
def MAP_INST_B.FW (n : Nat) : Loc := ⟨MAP_INST_B.off n, 22, 1, .ro, 0⟩
def MAP_INST_B.HB (n : Nat) : Loc := ⟨MAP_INST_B.off n, 23, 1, .ro, 0⟩
/-- The fields of MAP_INST_B. -/
def MAP_INST_B.fields (n : Nat) : List Loc := [MAP_INST_B.COLBASE n, MAP_INST_B.COH n, MAP_INST_B.HR n, MAP_INST_B.HW n, MAP_INST_B.ER n, MAP_INST_B.EW n, MAP_INST_B.FR n, MAP_INST_B.FW n, MAP_INST_B.HB n]

/-- Offset of MAP_INST_C (R45). -/
def MAP_INST_C.off (n : Nat) : Nat := 0x70000 + 0x310 + n * 0x20
def MAP_INST_C.HOSTADDR (n : Nat) : Loc := ⟨MAP_INST_C.off n, 12, 52, .ro, 0⟩
/-- The fields of MAP_INST_C. -/
def MAP_INST_C.fields (n : Nat) : List Loc := [MAP_INST_C.HOSTADDR n]

/-- Offset of TRU_REQ (R423). -/
def TRU_REQ.off (n : Nat) : Nat := 0x50000 + 0x4000 + n * 0x8
def TRU_REQ.WORD (n : Nat) : Loc := ⟨TRU_REQ.off n, 0, 64, .rw, 0⟩
/-- The fields of TRU_REQ. -/
def TRU_REQ.fields (n : Nat) : List Loc := [TRU_REQ.WORD n]

/-- Offset of TRU_RESP (R423). -/
def TRU_RESP.off (n : Nat) : Nat := 0x50000 + 0x8000 + n * 0x8
def TRU_RESP.WORD (n : Nat) : Loc := ⟨TRU_RESP.off n, 0, 64, .ro, 0⟩
/-- The fields of TRU_RESP. -/
def TRU_RESP.fields (n : Nat) : List Loc := [TRU_RESP.WORD n]

/-- Offset of CMD_CTRL (R402). -/
def CMD_CTRL.off (w : Nat) : Nat := cmdBase w + 0x0
def CMD_CTRL.EN (w : Nat) : Loc := ⟨CMD_CTRL.off w, 0, 1, .rw, 0⟩
def CMD_CTRL.IEN (w : Nat) : Loc := ⟨CMD_CTRL.off w, 1, 1, .rw, 0⟩
def CMD_CTRL.SQ_ERR (w : Nat) : Loc := ⟨CMD_CTRL.off w, 2, 1, .w1c, 0⟩
def CMD_CTRL.BASE_ERR (w : Nat) : Loc := ⟨CMD_CTRL.off w, 3, 1, .ro, 0⟩
def CMD_CTRL.LAPWIN (w : Nat) : Loc := ⟨CMD_CTRL.off w, 4, 1, .ro, 0⟩
/-- The fields of CMD_CTRL. -/
def CMD_CTRL.fields (w : Nat) : List Loc := [CMD_CTRL.EN w, CMD_CTRL.IEN w, CMD_CTRL.SQ_ERR w, CMD_CTRL.BASE_ERR w, CMD_CTRL.LAPWIN w]

/-- Offset of CMD_SQ (R402). -/
def CMD_SQ.off (w : Nat) : Nat := cmdBase w + 0x8
def CMD_SQ.LOG2 (w : Nat) : Loc := ⟨CMD_SQ.off w, 0, 4, .rw, 4⟩
def CMD_SQ.BASE (w : Nat) : Loc := ⟨CMD_SQ.off w, 12, 28, .rw, 0⟩
/-- The fields of CMD_SQ. -/
def CMD_SQ.fields (w : Nat) : List Loc := [CMD_SQ.LOG2 w, CMD_SQ.BASE w]

/-- Offset of CMD_CQ (R402). -/
def CMD_CQ.off (w : Nat) : Nat := cmdBase w + 0x10
def CMD_CQ.LOG2 (w : Nat) : Loc := ⟨CMD_CQ.off w, 0, 4, .rw, 4⟩
def CMD_CQ.BASE (w : Nat) : Loc := ⟨CMD_CQ.off w, 12, 28, .rw, 0⟩
/-- The fields of CMD_CQ. -/
def CMD_CQ.fields (w : Nat) : List Loc := [CMD_CQ.LOG2 w, CMD_CQ.BASE w]

/-- Offset of CMD_SQ_TAIL (R402). -/
def CMD_SQ_TAIL.off (w : Nat) : Nat := cmdBase w + 0x18
def CMD_SQ_TAIL.TAIL (w : Nat) : Loc := ⟨CMD_SQ_TAIL.off w, 0, 12, .rw, 0⟩
/-- The fields of CMD_SQ_TAIL. -/
def CMD_SQ_TAIL.fields (w : Nat) : List Loc := [CMD_SQ_TAIL.TAIL w]

/-- Offset of CMD_SQ_HEAD (R402). -/
def CMD_SQ_HEAD.off (w : Nat) : Nat := cmdBase w + 0x20
def CMD_SQ_HEAD.HEAD (w : Nat) : Loc := ⟨CMD_SQ_HEAD.off w, 0, 12, .ro, 0⟩
/-- The fields of CMD_SQ_HEAD. -/
def CMD_SQ_HEAD.fields (w : Nat) : List Loc := [CMD_SQ_HEAD.HEAD w]

/-- Offset of CMD_CQ_HEAD (R402). -/
def CMD_CQ_HEAD.off (w : Nat) : Nat := cmdBase w + 0x28
def CMD_CQ_HEAD.HEAD (w : Nat) : Loc := ⟨CMD_CQ_HEAD.off w, 0, 12, .rw, 0⟩
/-- The fields of CMD_CQ_HEAD. -/
def CMD_CQ_HEAD.fields (w : Nat) : List Loc := [CMD_CQ_HEAD.HEAD w]

/-- Offset of CMD_CQ_TAIL (R402). -/
def CMD_CQ_TAIL.off (w : Nat) : Nat := cmdBase w + 0x30
def CMD_CQ_TAIL.TAIL (w : Nat) : Loc := ⟨CMD_CQ_TAIL.off w, 0, 12, .ro, 0⟩
def CMD_CQ_TAIL.PHASE (w : Nat) : Loc := ⟨CMD_CQ_TAIL.off w, 12, 1, .ro, 1⟩
/-- The fields of CMD_CQ_TAIL. -/
def CMD_CQ_TAIL.fields (w : Nat) : List Loc := [CMD_CQ_TAIL.TAIL w, CMD_CQ_TAIL.PHASE w]

/-- Offset of CMD_RES (R402). -/
def CMD_RES.off (w : Nat) : Nat := cmdBase w + 0x38
def CMD_RES.RES_COUNT (w : Nat) : Loc := ⟨CMD_RES.off w, 0, 7, .rw, 0⟩
/-- The fields of CMD_RES. -/
def CMD_RES.fields (w : Nat) : List Loc := [CMD_RES.RES_COUNT w]

/-- Offset of FAB_PCTRL (R375). -/
def FAB_PCTRL.off (p : Nat) : Nat := portBase p + 0x0
def FAB_PCTRL.ENABLE (p : Nat) : Loc := ⟨FAB_PCTRL.off p, 0, 1, .rw, 1⟩
def FAB_PCTRL.RETRAIN (p : Nat) : Loc := ⟨FAB_PCTRL.off p, 1, 1, .wo, 0⟩
def FAB_PCTRL.FEC_MIN (p : Nat) : Loc := ⟨FAB_PCTRL.off p, 2, 2, .rw, 0⟩
/-- The fields of FAB_PCTRL. -/
def FAB_PCTRL.fields (p : Nat) : List Loc := [FAB_PCTRL.ENABLE p, FAB_PCTRL.RETRAIN p, FAB_PCTRL.FEC_MIN p]

/-- Offset of FAB_PSTAT (R375). -/
def FAB_PSTAT.off (p : Nat) : Nat := portBase p + 0x8
def FAB_PSTAT.STATE (p : Nat) : Loc := ⟨FAB_PSTAT.off p, 0, 3, .ro, 0⟩
def FAB_PSTAT.LANES (p : Nat) : Loc := ⟨FAB_PSTAT.off p, 3, 4, .ro, 0⟩
def FAB_PSTAT.FEC (p : Nat) : Loc := ⟨FAB_PSTAT.off p, 7, 2, .ro, 0⟩
def FAB_PSTAT.ENC (p : Nat) : Loc := ⟨FAB_PSTAT.off p, 9, 1, .ro, 0⟩
def FAB_PSTAT.NEIGHBOR (p : Nat) : Loc := ⟨FAB_PSTAT.off p, 10, 18, .ro, 0⟩
def FAB_PSTAT.NVALID (p : Nat) : Loc := ⟨FAB_PSTAT.off p, 28, 1, .ro, 0⟩
/-- The fields of FAB_PSTAT. -/
def FAB_PSTAT.fields (p : Nat) : List Loc := [FAB_PSTAT.STATE p, FAB_PSTAT.LANES p, FAB_PSTAT.FEC p, FAB_PSTAT.ENC p, FAB_PSTAT.NEIGHBOR p, FAB_PSTAT.NVALID p]

/-- Offset of FAB_PERR (R375). -/
def FAB_PERR.off (p : Nat) : Nat := portBase p + 0x10
def FAB_PERR.RETRY (p : Nat) : Loc := ⟨FAB_PERR.off p, 0, 16, .ro, 0⟩
def FAB_PERR.FEC_UNCORR (p : Nat) : Loc := ⟨FAB_PERR.off p, 16, 16, .ro, 0⟩
def FAB_PERR.MAC_FAIL (p : Nat) : Loc := ⟨FAB_PERR.off p, 32, 8, .ro, 0⟩
def FAB_PERR.DEGRADES (p : Nat) : Loc := ⟨FAB_PERR.off p, 40, 8, .ro, 0⟩
def FAB_PERR.DOWNS (p : Nat) : Loc := ⟨FAB_PERR.off p, 48, 8, .ro, 0⟩
def FAB_PERR.STALLS (p : Nat) : Loc := ⟨FAB_PERR.off p, 56, 8, .ro, 0⟩
/-- The fields of FAB_PERR. -/
def FAB_PERR.fields (p : Nat) : List Loc := [FAB_PERR.RETRY p, FAB_PERR.FEC_UNCORR p, FAB_PERR.MAC_FAIL p, FAB_PERR.DEGRADES p, FAB_PERR.DOWNS p, FAB_PERR.STALLS p]

/-- Offset of FAB_PVC (R375). -/
def FAB_PVC.off (p : Nat) : Nat := portBase p + 0x18
def FAB_PVC.STALLED (p : Nat) : Loc := ⟨FAB_PVC.off p, 0, 9, .w1c, 0⟩
/-- The fields of FAB_PVC. -/
def FAB_PVC.fields (p : Nat) : List Loc := [FAB_PVC.STALLED p]

/-- Offset of TEL_PORT (R482). -/
def TEL_PORT.off (p : Nat) : Nat := portBase p + 0x100
def TEL_PORT.TXFULL (p : Nat) : Loc := ⟨TEL_PORT.off p, 0, 32, .ro, 0⟩
def TEL_PORT.RXFULL (p : Nat) : Loc := ⟨TEL_PORT.off p, 32, 32, .ro, 0⟩
/-- The fields of TEL_PORT. -/
def TEL_PORT.fields (p : Nat) : List Loc := [TEL_PORT.TXFULL p, TEL_PORT.RXFULL p]

/-- Offset of FAB_ENUM (R375). -/
def FAB_ENUM.off : Nat := 0x80000 + 0x8000
def FAB_ENUM.ORIGIN_STRAP : Loc := ⟨FAB_ENUM.off, 0, 1, .ro, 0⟩
def FAB_ENUM.ESTAT : Loc := ⟨FAB_ENUM.off, 1, 2, .ro, 0⟩
def FAB_ENUM.SESSION : Loc := ⟨FAB_ENUM.off, 3, 16, .ro, 0⟩
/-- The fields of FAB_ENUM. -/
def FAB_ENUM.fields : List Loc := [FAB_ENUM.ORIGIN_STRAP, FAB_ENUM.ESTAT, FAB_ENUM.SESSION]

/-- Offset of FAB_ROUTE (R375). -/
def FAB_ROUTE.off : Nat := 0x80000 + 0x8008
def FAB_ROUTE.BYPASS : Loc := ⟨FAB_ROUTE.off, 0, 24, .rw, 0⟩
/-- The fields of FAB_ROUTE. -/
def FAB_ROUTE.fields : List Loc := [FAB_ROUTE.BYPASS]

/-- Offset of FAB_PEERS (R375). -/
def FAB_PEERS.off : Nat := 0x80000 + 0x8010
def FAB_PEERS.FMNODE : Loc := ⟨FAB_PEERS.off, 0, 18, .rw, 0⟩
def FAB_PEERS.FM_EN : Loc := ⟨FAB_PEERS.off, 18, 1, .rw, 0⟩
def FAB_PEERS.TANDEM : Loc := ⟨FAB_PEERS.off, 20, 18, .rw, 0⟩
def FAB_PEERS.TANDEM_EN : Loc := ⟨FAB_PEERS.off, 38, 1, .rw, 0⟩
def FAB_PEERS.STALL_MS : Loc := ⟨FAB_PEERS.off, 48, 10, .rw, 0xa⟩
/-- The fields of FAB_PEERS. -/
def FAB_PEERS.fields : List Loc := [FAB_PEERS.FMNODE, FAB_PEERS.FM_EN, FAB_PEERS.TANDEM, FAB_PEERS.TANDEM_EN, FAB_PEERS.STALL_MS]

/-- Offset of FAB_DEAD (R375). -/
def FAB_DEAD.off (n : Nat) : Nat := 0x80000 + 0x8100 + n * 0x8
def FAB_DEAD.NODE (n : Nat) : Loc := ⟨FAB_DEAD.off n, 0, 18, .rw, 0⟩
def FAB_DEAD.VALID (n : Nat) : Loc := ⟨FAB_DEAD.off n, 18, 1, .rw, 0⟩
/-- The fields of FAB_DEAD. -/
def FAB_DEAD.fields (n : Nat) : List Loc := [FAB_DEAD.NODE n, FAB_DEAD.VALID n]

/-- Offset of DRL_STAT (R186). -/
def DRL_STAT.off (h : Nat) : Nat := hubBase h + 0x40000
def DRL_STAT.ACTIVE (h : Nat) : Loc := ⟨DRL_STAT.off h, 0, 1, .ro, 0⟩
def DRL_STAT.OVER (h : Nat) : Loc := ⟨DRL_STAT.off h, 1, 1, .w1c, 0⟩
def DRL_STAT.BADEXP (h : Nat) : Loc := ⟨DRL_STAT.off h, 2, 1, .w1c, 0⟩
def DRL_STAT.UNREACH (h : Nat) : Loc := ⟨DRL_STAT.off h, 3, 1, .w1c, 0⟩
def DRL_STAT.SPILL_USED (h : Nat) : Loc := ⟨DRL_STAT.off h, 8, 24, .ro, 0⟩
/-- The fields of DRL_STAT. -/
def DRL_STAT.fields (h : Nat) : List Loc := [DRL_STAT.ACTIVE h, DRL_STAT.OVER h, DRL_STAT.BADEXP h, DRL_STAT.UNREACH h, DRL_STAT.SPILL_USED h]

/-- Offset of DRL_EPOCH (R186). -/
def DRL_EPOCH.off (h : Nat) : Nat := hubBase h + 0x40008
def DRL_EPOCH.EPOCH (h : Nat) : Loc := ⟨DRL_EPOCH.off h, 0, 2, .ro, 0⟩
def DRL_EPOCH.CLOSED (h : Nat) : Loc := ⟨DRL_EPOCH.off h, 2, 1, .ro, 0⟩
def DRL_EPOCH.RECORDS (h : Nat) : Loc := ⟨DRL_EPOCH.off h, 16, 24, .ro, 0⟩
def DRL_EPOCH.ROUNDS_MAX (h : Nat) : Loc := ⟨DRL_EPOCH.off h, 48, 16, .ro, 0⟩
/-- The fields of DRL_EPOCH. -/
def DRL_EPOCH.fields (h : Nat) : List Loc := [DRL_EPOCH.EPOCH h, DRL_EPOCH.CLOSED h, DRL_EPOCH.RECORDS h, DRL_EPOCH.ROUNDS_MAX h]

/-- Offset of TEL_HUB (R482). -/
def TEL_HUB.off (h : Nat) : Nat := hubBase h + 0x70000
def TEL_HUB.DMA_BLK (h : Nat) : Loc := ⟨TEL_HUB.off h, 0, 32, .ro, 0⟩
def TEL_HUB.BARGEN (h : Nat) : Loc := ⟨TEL_HUB.off h, 32, 16, .ro, 0⟩
def TEL_HUB.SPILL_RD (h : Nat) : Loc := ⟨TEL_HUB.off h, 48, 16, .ro, 0⟩
/-- The fields of TEL_HUB. -/
def TEL_HUB.fields (h : Nat) : List Loc := [TEL_HUB.DMA_BLK h, TEL_HUB.BARGEN h, TEL_HUB.SPILL_RD h]

/-- Offset of DRL_EXP (R186). -/
def DRL_EXP.off (h n : Nat) : Nat := hubBase h + 0x41000 + n * 0x8
def DRL_EXP.COUNT (h n : Nat) : Loc := ⟨DRL_EXP.off h n, 0, 24, .ro, 0⟩
def DRL_EXP.ROUNDS (h n : Nat) : Loc := ⟨DRL_EXP.off h n, 24, 24, .ro, 0⟩
def DRL_EXP.DONE_ROUNDS (h n : Nat) : Loc := ⟨DRL_EXP.off h n, 48, 12, .ro, 0⟩
/-- The fields of DRL_EXP. -/
def DRL_EXP.fields (h n : Nat) : List Loc := [DRL_EXP.COUNT h n, DRL_EXP.ROUNDS h n, DRL_EXP.DONE_ROUNDS h n]

/-- Offset of TEL_EXP (R482). -/
def TEL_EXP.off (h n : Nat) : Nat := hubBase h + 0x71000 + n * 0x8
def TEL_EXP.RECORDS (h n : Nat) : Loc := ⟨TEL_EXP.off h n, 0, 24, .ro, 0⟩
def TEL_EXP.ROUNDS (h n : Nat) : Loc := ⟨TEL_EXP.off h n, 24, 24, .ro, 0⟩
/-- The fields of TEL_EXP. -/
def TEL_EXP.fields (h n : Nat) : List Loc := [TEL_EXP.RECORDS h n, TEL_EXP.ROUNDS h n]

/-- Offset of DMA_STAT (R290). -/
def DMA_STAT.off (k : Nat) : Nat := hubBase (k / 16) + 0x20000 + (k % 16) * 0x40
def DMA_STAT.STATE (k : Nat) : Loc := ⟨DMA_STAT.off k, 0, 2, .ro, 0⟩
def DMA_STAT.WAITING (k : Nat) : Loc := ⟨DMA_STAT.off k, 2, 1, .ro, 0⟩
def DMA_STAT.OWNER (k : Nat) : Loc := ⟨DMA_STAT.off k, 3, 6, .ro, 0⟩
def DMA_STAT.ENTRY (k : Nat) : Loc := ⟨DMA_STAT.off k, 9, 6, .ro, 0⟩
def DMA_STAT.CHUNKS (k : Nat) : Loc := ⟨DMA_STAT.off k, 16, 16, .ro, 0⟩
def DMA_STAT.CODE (k : Nat) : Loc := ⟨DMA_STAT.off k, 32, 8, .ro, 0⟩
/-- The fields of DMA_STAT. -/
def DMA_STAT.fields (k : Nat) : List Loc := [DMA_STAT.STATE k, DMA_STAT.WAITING k, DMA_STAT.OWNER k, DMA_STAT.ENTRY k, DMA_STAT.CHUNKS k, DMA_STAT.CODE k]

/-- Offset of DMA_PRI_ADDR (R290). -/
def DMA_PRI_ADDR.off (k : Nat) : Nat := hubBase (k / 16) + 0x20008 + (k % 16) * 0x40
def DMA_PRI_ADDR.PAGE (k : Nat) : Loc := ⟨DMA_PRI_ADDR.off k, 12, 52, .ro, 0⟩
/-- The fields of DMA_PRI_ADDR. -/
def DMA_PRI_ADDR.fields (k : Nat) : List Loc := [DMA_PRI_ADDR.PAGE k]

/-- Offset of BAR_CFG (R316). -/
def BAR_CFG.off (b : Nat) : Nat := hubBase (b / 32) + 0x60000 + (b % 32) * 0x20
def BAR_CFG.VALID (b : Nat) : Loc := ⟨BAR_CFG.off b, 0, 1, .ro, 0⟩
def BAR_CFG.HOME (b : Nat) : Loc := ⟨BAR_CFG.off b, 1, 1, .ro, 0⟩
def BAR_CFG.CHILDREN (b : Nat) : Loc := ⟨BAR_CFG.off b, 8, 8, .ro, 0⟩
def BAR_CFG.PARTS (b : Nat) : Loc := ⟨BAR_CFG.off b, 16, 16, .ro, 0⟩
def BAR_CFG.PARENT (b : Nat) : Loc := ⟨BAR_CFG.off b, 32, 18, .ro, 0⟩
/-- The fields of BAR_CFG. -/
def BAR_CFG.fields (b : Nat) : List Loc := [BAR_CFG.VALID b, BAR_CFG.HOME b, BAR_CFG.CHILDREN b, BAR_CFG.PARTS b, BAR_CFG.PARENT b]

/-- Offset of BAR_STAT (R316). -/
def BAR_STAT.off (b : Nat) : Nat := hubBase (b / 32) + 0x60008 + (b % 32) * 0x20
def BAR_STAT.GEN (b : Nat) : Loc := ⟨BAR_STAT.off b, 0, 16, .ro, 0⟩
def BAR_STAT.ARRIVED (b : Nat) : Loc := ⟨BAR_STAT.off b, 16, 16, .ro, 0⟩
def BAR_STAT.NEXT (b : Nat) : Loc := ⟨BAR_STAT.off b, 32, 16, .ro, 0⟩
/-- The fields of BAR_STAT. -/
def BAR_STAT.fields (b : Nat) : List Loc := [BAR_STAT.GEN b, BAR_STAT.ARRIVED b, BAR_STAT.NEXT b]

/-- Offset of BAR_TREE (R316). -/
def BAR_TREE.off (b : Nat) : Nat := hubBase (b / 32) + 0x60010 + (b % 32) * 0x20
def BAR_TREE.CHILD (b : Nat) : Loc := ⟨BAR_TREE.off b, 0, 8, .ro, 0⟩
def BAR_TREE.NEXT_CHILD (b : Nat) : Loc := ⟨BAR_TREE.off b, 8, 8, .ro, 0⟩
def BAR_TREE.SENT (b : Nat) : Loc := ⟨BAR_TREE.off b, 16, 1, .ro, 0⟩
/-- The fields of BAR_TREE. -/
def BAR_TREE.fields (b : Nat) : List Loc := [BAR_TREE.CHILD b, BAR_TREE.NEXT_CHILD b, BAR_TREE.SENT b]

/-- Offset of TMC_CTRL (R76). -/
def TMC_CTRL.off (t : Nat) : Nat := towerBase t + 0x0
def TMC_CTRL.TEST_OPEN (t : Nat) : Loc := ⟨TMC_CTRL.off t, 0, 1, .rw, 0⟩
def TMC_CTRL.OPEN (t : Nat) : Loc := ⟨TMC_CTRL.off t, 1, 1, .ro, 1⟩
def TMC_CTRL.PACED_ON (t : Nat) : Loc := ⟨TMC_CTRL.off t, 2, 1, .ro, 0⟩
def TMC_CTRL.SELFREF (t : Nat) : Loc := ⟨TMC_CTRL.off t, 3, 1, .ro, 0⟩
/-- The fields of TMC_CTRL. -/
def TMC_CTRL.fields (t : Nat) : List Loc := [TMC_CTRL.TEST_OPEN t, TMC_CTRL.OPEN t, TMC_CTRL.PACED_ON t, TMC_CTRL.SELFREF t]

/-- Offset of TMC_HOST (R76). -/
def TMC_HOST.off (t : Nat) : Nat := towerBase t + 0x8
def TMC_HOST.HOST_TGT (t : Nat) : Loc := ⟨TMC_HOST.off t, 0, 9, .rw, 0x3c⟩
def TMC_HOST.AGE_LIM (t : Nat) : Loc := ⟨TMC_HOST.off t, 16, 10, .ro, 0xc8⟩
/-- The fields of TMC_HOST. -/
def TMC_HOST.fields (t : Nat) : List Loc := [TMC_HOST.HOST_TGT t, TMC_HOST.AGE_LIM t]

/-- Offset of TMC_REFSTAT (R76). -/
def TMC_REFSTAT.off (t : Nat) : Nat := towerBase t + 0x10
def TMC_REFSTAT.HOT (t : Nat) : Loc := ⟨TMC_REFSTAT.off t, 0, 6, .ro, 0⟩
def TMC_REFSTAT.OWED_MAX (t : Nat) : Loc := ⟨TMC_REFSTAT.off t, 8, 3, .ro, 0⟩
/-- The fields of TMC_REFSTAT. -/
def TMC_REFSTAT.fields (t : Nat) : List Loc := [TMC_REFSTAT.HOT t, TMC_REFSTAT.OWED_MAX t]

/-- Offset of TMC_ERRLOG (R76). -/
def TMC_ERRLOG.off (t : Nat) : Nat := towerBase t + 0x18
def TMC_ERRLOG.VALID (t : Nat) : Loc := ⟨TMC_ERRLOG.off t, 0, 1, .w1c, 0⟩
def TMC_ERRLOG.MORE (t : Nat) : Loc := ⟨TMC_ERRLOG.off t, 1, 1, .w1c, 0⟩
def TMC_ERRLOG.COLUMN (t : Nat) : Loc := ⟨TMC_ERRLOG.off t, 2, 6, .ro, 0⟩
def TMC_ERRLOG.LEVEL (t : Nat) : Loc := ⟨TMC_ERRLOG.off t, 8, 3, .ro, 0⟩
def TMC_ERRLOG.KIND (t : Nat) : Loc := ⟨TMC_ERRLOG.off t, 11, 3, .ro, 0⟩
def TMC_ERRLOG.CLASS (t : Nat) : Loc := ⟨TMC_ERRLOG.off t, 14, 2, .ro, 0⟩
def TMC_ERRLOG.FAILED_LVL (t : Nat) : Loc := ⟨TMC_ERRLOG.off t, 16, 6, .ro, 0⟩
/-- The fields of TMC_ERRLOG. -/
def TMC_ERRLOG.fields (t : Nat) : List Loc := [TMC_ERRLOG.VALID t, TMC_ERRLOG.MORE t, TMC_ERRLOG.COLUMN t, TMC_ERRLOG.LEVEL t, TMC_ERRLOG.KIND t, TMC_ERRLOG.CLASS t, TMC_ERRLOG.FAILED_LVL t]

/-- Offset of TMC_COL_A (R76). -/
def TMC_COL_A.off (col : Nat) : Nat := towerBase (col / 64) + 0x1000 + (col % 64) * 0x10
def TMC_COL_A.RSV_MASK (col : Nat) : Loc := ⟨TMC_COL_A.off col, 0, 64, .ro, 0⟩
/-- The fields of TMC_COL_A. -/
def TMC_COL_A.fields (col : Nat) : List Loc := [TMC_COL_A.RSV_MASK col]

/-- Offset of TMC_COL_B (R76). -/
def TMC_COL_B.off (col : Nat) : Nat := towerBase (col / 64) + 0x1008 + (col % 64) * 0x10
def TMC_COL_B.ACT_WIN (col : Nat) : Loc := ⟨TMC_COL_B.off col, 0, 8, .ro, 0⟩
def TMC_COL_B.OWED (col : Nat) : Loc := ⟨TMC_COL_B.off col, 8, 18, .ro, 0⟩
def TMC_COL_B.PBURST (col : Nat) : Loc := ⟨TMC_COL_B.off col, 26, 1, .ro, 0⟩
def TMC_COL_B.FLUSH (col : Nat) : Loc := ⟨TMC_COL_B.off col, 27, 1, .ro, 0⟩
/-- The fields of TMC_COL_B. -/
def TMC_COL_B.fields (col : Nat) : List Loc := [TMC_COL_B.ACT_WIN col, TMC_COL_B.OWED col, TMC_COL_B.PBURST col, TMC_COL_B.FLUSH col]

/-- Offset of TEL_COL_A (R482). -/
def TEL_COL_A.off (col : Nat) : Nat := towerBase (col / 64) + 0x2000 + (col % 64) * 0x10
def TEL_COL_A.PACED (col : Nat) : Loc := ⟨TEL_COL_A.off col, 0, 32, .ro, 0⟩
def TEL_COL_A.OTHER (col : Nat) : Loc := ⟨TEL_COL_A.off col, 32, 32, .ro, 0⟩
/-- The fields of TEL_COL_A. -/
def TEL_COL_A.fields (col : Nat) : List Loc := [TEL_COL_A.PACED col, TEL_COL_A.OTHER col]

/-- Offset of TEL_COL_B (R482). -/
def TEL_COL_B.off (col : Nat) : Nat := towerBase (col / 64) + 0x2008 + (col % 64) * 0x10
def TEL_COL_B.DEPEND (col : Nat) : Loc := ⟨TEL_COL_B.off col, 0, 16, .ro, 0⟩
def TEL_COL_B.HMISS (col : Nat) : Loc := ⟨TEL_COL_B.off col, 16, 16, .ro, 0⟩
def TEL_COL_B.AGED (col : Nat) : Loc := ⟨TEL_COL_B.off col, 32, 16, .ro, 0⟩
def TEL_COL_B.ACTS (col : Nat) : Loc := ⟨TEL_COL_B.off col, 48, 16, .ro, 0⟩
/-- The fields of TEL_COL_B. -/
def TEL_COL_B.fields (col : Nat) : List Loc := [TEL_COL_B.DEPEND col, TEL_COL_B.HMISS col, TEL_COL_B.AGED col, TEL_COL_B.ACTS col]

/-- Offset of PROT_CTRL (R122). -/
def PROT_CTRL.off (t : Nat) : Nat := towerBase t + 0x10000 + 0x0
def PROT_CTRL.SCRUB_HOURS (t : Nat) : Loc := ⟨PROT_CTRL.off t, 0, 8, .rw, 0x18⟩
def PROT_CTRL.SCRUB_EN (t : Nat) : Loc := ⟨PROT_CTRL.off t, 8, 1, .rw, 1⟩
def PROT_CTRL.SCRUB_NOW (t : Nat) : Loc := ⟨PROT_CTRL.off t, 9, 1, .wo, 0⟩
/-- The fields of PROT_CTRL. -/
def PROT_CTRL.fields (t : Nat) : List Loc := [PROT_CTRL.SCRUB_HOURS t, PROT_CTRL.SCRUB_EN t, PROT_CTRL.SCRUB_NOW t]

/-- Offset of PROT_STAT (R122). -/
def PROT_STAT.off (t : Nat) : Nat := towerBase t + 0x10000 + 0x8
def PROT_STAT.PATCH_USED (t : Nat) : Loc := ⟨PROT_STAT.off t, 0, 5, .ro, 0⟩
def PROT_STAT.PATCH_FULL (t : Nat) : Loc := ⟨PROT_STAT.off t, 5, 1, .ro, 0⟩
def PROT_STAT.TRACK_USED (t : Nat) : Loc := ⟨PROT_STAT.off t, 6, 7, .ro, 0⟩
def PROT_STAT.FILL_DONE (t : Nat) : Loc := ⟨PROT_STAT.off t, 13, 1, .ro, 0⟩
def PROT_STAT.DEC_BUSY (t : Nat) : Loc := ⟨PROT_STAT.off t, 14, 2, .ro, 0⟩
/-- The fields of PROT_STAT. -/
def PROT_STAT.fields (t : Nat) : List Loc := [PROT_STAT.PATCH_USED t, PROT_STAT.PATCH_FULL t, PROT_STAT.TRACK_USED t, PROT_STAT.FILL_DONE t, PROT_STAT.DEC_BUSY t]

/-- Offset of PROT_SCRUBPOS (R122). -/
def PROT_SCRUBPOS.off (t : Nat) : Nat := towerBase t + 0x10000 + 0x10
def PROT_SCRUBPOS.SEQ (t : Nat) : Loc := ⟨PROT_SCRUBPOS.off t, 0, 21, .ro, 0⟩
def PROT_SCRUBPOS.PASSES (t : Nat) : Loc := ⟨PROT_SCRUBPOS.off t, 32, 16, .ro, 0⟩
/-- The fields of PROT_SCRUBPOS. -/
def PROT_SCRUBPOS.fields (t : Nat) : List Loc := [PROT_SCRUBPOS.SEQ t, PROT_SCRUBPOS.PASSES t]

/-- Offset of PROT_ERRCNT (R122). -/
def PROT_ERRCNT.off (t : Nat) : Nat := towerBase t + 0x10000 + 0x18
def PROT_ERRCNT.CORR (t : Nat) : Loc := ⟨PROT_ERRCNT.off t, 0, 16, .ro, 0⟩
def PROT_ERRCNT.SLOW (t : Nat) : Loc := ⟨PROT_ERRCNT.off t, 16, 16, .ro, 0⟩
def PROT_ERRCNT.POISON_NEW (t : Nat) : Loc := ⟨PROT_ERRCNT.off t, 32, 16, .ro, 0⟩
def PROT_ERRCNT.OUTER_FIX (t : Nat) : Loc := ⟨PROT_ERRCNT.off t, 48, 16, .ro, 0⟩
/-- The fields of PROT_ERRCNT. -/
def PROT_ERRCNT.fields (t : Nat) : List Loc := [PROT_ERRCNT.CORR t, PROT_ERRCNT.SLOW t, PROT_ERRCNT.POISON_NEW t, PROT_ERRCNT.OUTER_FIX t]

/-- Offset of PROT_PATCH (R122). -/
def PROT_PATCH.off (t n : Nat) : Nat := towerBase t + 0x10000 + 0x100 + n * 0x8
def PROT_PATCH.VALID (t n : Nat) : Loc := ⟨PROT_PATCH.off t n, 0, 1, .ro, 0⟩
def PROT_PATCH.COLUMN (t n : Nat) : Loc := ⟨PROT_PATCH.off t n, 1, 6, .ro, 0⟩
def PROT_PATCH.LEVEL (t n : Nat) : Loc := ⟨PROT_PATCH.off t n, 7, 3, .ro, 0⟩
def PROT_PATCH.ROW (t n : Nat) : Loc := ⟨PROT_PATCH.off t n, 10, 18, .ro, 0⟩
def PROT_PATCH.WORD (t n : Nat) : Loc := ⟨PROT_PATCH.off t n, 28, 5, .ro, 0⟩
/-- The fields of PROT_PATCH. -/
def PROT_PATCH.fields (t n : Nat) : List Loc := [PROT_PATCH.VALID t n, PROT_PATCH.COLUMN t n, PROT_PATCH.LEVEL t n, PROT_PATCH.ROW t n, PROT_PATCH.WORD t n]

/-- Offset of PROT_TRACK (R122). -/
def PROT_TRACK.off (t n : Nat) : Nat := towerBase t + 0x10000 + 0x200 + n * 0x8
def PROT_TRACK.VALID (t n : Nat) : Loc := ⟨PROT_TRACK.off t n, 0, 1, .ro, 0⟩
def PROT_TRACK.COLUMN (t n : Nat) : Loc := ⟨PROT_TRACK.off t n, 1, 6, .ro, 0⟩
def PROT_TRACK.LEVEL (t n : Nat) : Loc := ⟨PROT_TRACK.off t n, 7, 3, .ro, 0⟩
def PROT_TRACK.ROW (t n : Nat) : Loc := ⟨PROT_TRACK.off t n, 10, 18, .ro, 0⟩
def PROT_TRACK.WORD (t n : Nat) : Loc := ⟨PROT_TRACK.off t n, 28, 5, .ro, 0⟩
def PROT_TRACK.COUNT (t n : Nat) : Loc := ⟨PROT_TRACK.off t n, 33, 4, .ro, 0⟩
def PROT_TRACK.REWRITTEN (t n : Nat) : Loc := ⟨PROT_TRACK.off t n, 37, 1, .ro, 0⟩
/-- The fields of PROT_TRACK. -/
def PROT_TRACK.fields (t n : Nat) : List Loc := [PROT_TRACK.VALID t n, PROT_TRACK.COLUMN t n, PROT_TRACK.LEVEL t n, PROT_TRACK.ROW t n, PROT_TRACK.WORD t n, PROT_TRACK.COUNT t n, PROT_TRACK.REWRITTEN t n]

/-- Offset of FZ_CTRL (R94). -/
def FZ_CTRL.off (t : Nat) : Nat := towerBase t + 0x20000 + 0x0
def FZ_CTRL.FORCE (t : Nat) : Loc := ⟨FZ_CTRL.off t, 0, 1, .wo, 0⟩
/-- The fields of FZ_CTRL. -/
def FZ_CTRL.fields (t : Nat) : List Loc := [FZ_CTRL.FORCE t]

/-- Offset of FZ_TRIM_SEL (R94). -/
def FZ_TRIM_SEL.off (t : Nat) : Nat := towerBase t + 0x20000 + 0x8
def FZ_TRIM_SEL.COLUMN (t : Nat) : Loc := ⟨FZ_TRIM_SEL.off t, 0, 6, .rw, 0⟩
def FZ_TRIM_SEL.LEVEL (t : Nat) : Loc := ⟨FZ_TRIM_SEL.off t, 6, 3, .rw, 0⟩
def FZ_TRIM_SEL.WIRE (t : Nat) : Loc := ⟨FZ_TRIM_SEL.off t, 9, 9, .rw, 0⟩
def FZ_TRIM_SEL.GEAR (t : Nat) : Loc := ⟨FZ_TRIM_SEL.off t, 18, 3, .rw, 0⟩
/-- The fields of FZ_TRIM_SEL. -/
def FZ_TRIM_SEL.fields (t : Nat) : List Loc := [FZ_TRIM_SEL.COLUMN t, FZ_TRIM_SEL.LEVEL t, FZ_TRIM_SEL.WIRE t, FZ_TRIM_SEL.GEAR t]

/-- Offset of FZ_TRIM_DATA (R94). -/
def FZ_TRIM_DATA.off (t : Nat) : Nat := towerBase t + 0x20000 + 0x10
def FZ_TRIM_DATA.TRIM (t : Nat) : Loc := ⟨FZ_TRIM_DATA.off t, 0, 7, .ro, 0⟩
def FZ_TRIM_DATA.SUSPECT (t : Nat) : Loc := ⟨FZ_TRIM_DATA.off t, 7, 1, .ro, 0⟩
def FZ_TRIM_DATA.ERR_LO (t : Nat) : Loc := ⟨FZ_TRIM_DATA.off t, 8, 7, .ro, 0⟩
def FZ_TRIM_DATA.ERR_HI (t : Nat) : Loc := ⟨FZ_TRIM_DATA.off t, 15, 7, .ro, 0⟩
def FZ_TRIM_DATA.LOW (t : Nat) : Loc := ⟨FZ_TRIM_DATA.off t, 22, 1, .ro, 0⟩
/-- The fields of FZ_TRIM_DATA. -/
def FZ_TRIM_DATA.fields (t : Nat) : List Loc := [FZ_TRIM_DATA.TRIM t, FZ_TRIM_DATA.SUSPECT t, FZ_TRIM_DATA.ERR_LO t, FZ_TRIM_DATA.ERR_HI t, FZ_TRIM_DATA.LOW t]

/-- Offset of FZ_COL_A (R94). -/
def FZ_COL_A.off (col : Nat) : Nat := towerBase (col / 64) + 0x20000 + 0x1000 + (col % 64) * 0x10
def FZ_COL_A.INTERVAL (col : Nat) : Loc := ⟨FZ_COL_A.off col, 0, 7, .ro, 1⟩
def FZ_COL_A.ACTIVE (col : Nat) : Loc := ⟨FZ_COL_A.off col, 7, 1, .ro, 0⟩
def FZ_COL_A.PASS_KEPT (col : Nat) : Loc := ⟨FZ_COL_A.off col, 8, 1, .ro, 0⟩
def FZ_COL_A.GROUP (col : Nat) : Loc := ⟨FZ_COL_A.off col, 9, 5, .ro, 0⟩
def FZ_COL_A.ANY_LOW (col : Nat) : Loc := ⟨FZ_COL_A.off col, 14, 1, .w1c, 0⟩
def FZ_COL_A.ANY_SUSPECT (col : Nat) : Loc := ⟨FZ_COL_A.off col, 15, 1, .ro, 0⟩
def FZ_COL_A.VERIFY_FAIL (col : Nat) : Loc := ⟨FZ_COL_A.off col, 16, 1, .w1c, 0⟩
def FZ_COL_A.LAST_MOVED (col : Nat) : Loc := ⟨FZ_COL_A.off col, 24, 8, .ro, 0⟩
/-- The fields of FZ_COL_A. -/
def FZ_COL_A.fields (col : Nat) : List Loc := [FZ_COL_A.INTERVAL col, FZ_COL_A.ACTIVE col, FZ_COL_A.PASS_KEPT col, FZ_COL_A.GROUP col, FZ_COL_A.ANY_LOW col, FZ_COL_A.ANY_SUSPECT col, FZ_COL_A.VERIFY_FAIL col, FZ_COL_A.LAST_MOVED col]

/-- Offset of FZ_COL_B (R94). -/
def FZ_COL_B.off (col : Nat) : Nat := towerBase (col / 64) + 0x20000 + 0x1008 + (col % 64) * 0x10
def FZ_COL_B.ZONES (col : Nat) : Loc := ⟨FZ_COL_B.off col, 0, 16, .ro, 0⟩
def FZ_COL_B.BURSTS (col : Nat) : Loc := ⟨FZ_COL_B.off col, 16, 16, .ro, 0⟩
def FZ_COL_B.ABORTS (col : Nat) : Loc := ⟨FZ_COL_B.off col, 32, 16, .ro, 0⟩
def FZ_COL_B.IFACE_CORR (col : Nat) : Loc := ⟨FZ_COL_B.off col, 48, 16, .ro, 0⟩
/-- The fields of FZ_COL_B. -/
def FZ_COL_B.fields (col : Nat) : List Loc := [FZ_COL_B.ZONES col, FZ_COL_B.BURSTS col, FZ_COL_B.ABORTS col, FZ_COL_B.IFACE_CORR col]

/-- Offset of CORE_CTRL (R238). -/
def CORE_CTRL.off (c : Nat) : Nat := coreBase c + 0x0
def CORE_CTRL.RESUME (c : Nat) : Loc := ⟨CORE_CTRL.off c, 0, 1, .wo, 0⟩
def CORE_CTRL.STEP (c : Nat) : Loc := ⟨CORE_CTRL.off c, 1, 1, .wo, 0⟩
def CORE_CTRL.LAT_CHECK (c : Nat) : Loc := ⟨CORE_CTRL.off c, 2, 1, .rw, 0⟩
def CORE_CTRL.ARRIVAL_CHECK (c : Nat) : Loc := ⟨CORE_CTRL.off c, 3, 1, .rw, 0⟩
def CORE_CTRL.HALT_REQ (c : Nat) : Loc := ⟨CORE_CTRL.off c, 4, 1, .wo, 0⟩
def CORE_CTRL.TRACE_EN (c : Nat) : Loc := ⟨CORE_CTRL.off c, 5, 1, .rw, 0⟩
/-- The fields of CORE_CTRL. -/
def CORE_CTRL.fields (c : Nat) : List Loc := [CORE_CTRL.RESUME c, CORE_CTRL.STEP c, CORE_CTRL.LAT_CHECK c, CORE_CTRL.ARRIVAL_CHECK c, CORE_CTRL.HALT_REQ c, CORE_CTRL.TRACE_EN c]

/-- Offset of CORE_STAT (R238). -/
def CORE_STAT.off (c : Nat) : Nat := coreBase c + 0x8
def CORE_STAT.RUN (c : Nat) : Loc := ⟨CORE_STAT.off c, 0, 1, .ro, 0⟩
def CORE_STAT.HALTED (c : Nat) : Loc := ⟨CORE_STAT.off c, 1, 1, .ro, 0⟩
def CORE_STAT.BROKEN (c : Nat) : Loc := ⟨CORE_STAT.off c, 2, 1, .ro, 0⟩
def CORE_STAT.HOLD (c : Nat) : Loc := ⟨CORE_STAT.off c, 3, 1, .ro, 0⟩
def CORE_STAT.COMPAT (c : Nat) : Loc := ⟨CORE_STAT.off c, 4, 1, .ro, 0⟩
def CORE_STAT.FUSE (c : Nat) : Loc := ⟨CORE_STAT.off c, 5, 2, .ro, 0⟩
def CORE_STAT.LEADER (c : Nat) : Loc := ⟨CORE_STAT.off c, 7, 1, .ro, 0⟩
def CORE_STAT.P_COLLIDE (c : Nat) : Loc := ⟨CORE_STAT.off c, 8, 1, .w1c, 0⟩
def CORE_STAT.RUNAHEAD (c : Nat) : Loc := ⟨CORE_STAT.off c, 16, 10, .ro, 0⟩
/-- The fields of CORE_STAT. -/
def CORE_STAT.fields (c : Nat) : List Loc := [CORE_STAT.RUN c, CORE_STAT.HALTED c, CORE_STAT.BROKEN c, CORE_STAT.HOLD c, CORE_STAT.COMPAT c, CORE_STAT.FUSE c, CORE_STAT.LEADER c, CORE_STAT.P_COLLIDE c, CORE_STAT.RUNAHEAD c]

/-- Offset of CORE_QSTAT (R238). -/
def CORE_QSTAT.off (c : Nat) : Nat := coreBase c + 0x10
def CORE_QSTAT.IQ0 (c : Nat) : Loc := ⟨CORE_QSTAT.off c, 0, 7, .ro, 0⟩
def CORE_QSTAT.IQ1 (c : Nat) : Loc := ⟨CORE_QSTAT.off c, 7, 7, .ro, 0⟩
def CORE_QSTAT.IQ2 (c : Nat) : Loc := ⟨CORE_QSTAT.off c, 14, 7, .ro, 0⟩
def CORE_QSTAT.IQ3 (c : Nat) : Loc := ⟨CORE_QSTAT.off c, 21, 7, .ro, 0⟩
def CORE_QSTAT.OQ0 (c : Nat) : Loc := ⟨CORE_QSTAT.off c, 28, 7, .ro, 0⟩
def CORE_QSTAT.OQ1 (c : Nat) : Loc := ⟨CORE_QSTAT.off c, 35, 7, .ro, 0⟩
def CORE_QSTAT.GATE (c : Nat) : Loc := ⟨CORE_QSTAT.off c, 42, 3, .ro, 0⟩
/-- The fields of CORE_QSTAT. -/
def CORE_QSTAT.fields (c : Nat) : List Loc := [CORE_QSTAT.IQ0 c, CORE_QSTAT.IQ1 c, CORE_QSTAT.IQ2 c, CORE_QSTAT.IQ3 c, CORE_QSTAT.OQ0 c, CORE_QSTAT.OQ1 c, CORE_QSTAT.GATE c]

/-- Offset of CORE_HALT_PC (R238). -/
def CORE_HALT_PC.off (c : Nat) : Nat := coreBase c + 0x18
def CORE_HALT_PC.ADDR (c : Nat) : Loc := ⟨CORE_HALT_PC.off c, 0, 17, .ro, 0⟩
/-- The fields of CORE_HALT_PC. -/
def CORE_HALT_PC.fields (c : Nat) : List Loc := [CORE_HALT_PC.ADDR c]

/-- Offset of CORE_HALT_INFO (R238). -/
def CORE_HALT_INFO.off (c : Nat) : Nat := coreBase c + 0x20
def CORE_HALT_INFO.CODE (c : Nat) : Loc := ⟨CORE_HALT_INFO.off c, 0, 8, .ro, 0⟩
def CORE_HALT_INFO.STREAM (c : Nat) : Loc := ⟨CORE_HALT_INFO.off c, 8, 2, .ro, 0⟩
def CORE_HALT_INFO.SLOT (c : Nat) : Loc := ⟨CORE_HALT_INFO.off c, 10, 3, .ro, 0⟩
def CORE_HALT_INFO.QUEUE (c : Nat) : Loc := ⟨CORE_HALT_INFO.off c, 13, 3, .ro, 0⟩
def CORE_HALT_INFO.TAG (c : Nat) : Loc := ⟨CORE_HALT_INFO.off c, 16, 8, .ro, 0⟩
def CORE_HALT_INFO.MEMBER (c : Nat) : Loc := ⟨CORE_HALT_INFO.off c, 24, 2, .ro, 0⟩
def CORE_HALT_INFO.CYCLE (c : Nat) : Loc := ⟨CORE_HALT_INFO.off c, 32, 32, .ro, 0⟩
/-- The fields of CORE_HALT_INFO. -/
def CORE_HALT_INFO.fields (c : Nat) : List Loc := [CORE_HALT_INFO.CODE c, CORE_HALT_INFO.STREAM c, CORE_HALT_INFO.SLOT c, CORE_HALT_INFO.QUEUE c, CORE_HALT_INFO.TAG c, CORE_HALT_INFO.MEMBER c, CORE_HALT_INFO.CYCLE c]

/-- Offset of CORE_CYCLE (R238). -/
def CORE_CYCLE.off (c : Nat) : Nat := coreBase c + 0x28
def CORE_CYCLE.CYCLE (c : Nat) : Loc := ⟨CORE_CYCLE.off c, 0, 48, .ro, 0⟩
/-- The fields of CORE_CYCLE. -/
def CORE_CYCLE.fields (c : Nat) : List Loc := [CORE_CYCLE.CYCLE c]

/-- Offset of CORE_BRK (R238). -/
def CORE_BRK.off (c : Nat) : Nat := coreBase c + 0x30
def CORE_BRK.XCNT_EN (c : Nat) : Loc := ⟨CORE_BRK.off c, 0, 1, .rw, 0⟩
def CORE_BRK.ACNT_EN (c : Nat) : Loc := ⟨CORE_BRK.off c, 1, 1, .rw, 0⟩
def CORE_BRK.TAG_EN (c : Nat) : Loc := ⟨CORE_BRK.off c, 2, 1, .rw, 0⟩
def CORE_BRK.TAG (c : Nat) : Loc := ⟨CORE_BRK.off c, 8, 8, .rw, 0⟩
/-- The fields of CORE_BRK. -/
def CORE_BRK.fields (c : Nat) : List Loc := [CORE_BRK.XCNT_EN c, CORE_BRK.ACNT_EN c, CORE_BRK.TAG_EN c, CORE_BRK.TAG c]

/-- Offset of CORE_BRK_XCNT (R238). -/
def CORE_BRK_XCNT.off (c : Nat) : Nat := coreBase c + 0x38
def CORE_BRK_XCNT.COUNT (c : Nat) : Loc := ⟨CORE_BRK_XCNT.off c, 0, 48, .rw, 0⟩
/-- The fields of CORE_BRK_XCNT. -/
def CORE_BRK_XCNT.fields (c : Nat) : List Loc := [CORE_BRK_XCNT.COUNT c]

/-- Offset of CORE_BRK_ACNT (R238). -/
def CORE_BRK_ACNT.off (c : Nat) : Nat := coreBase c + 0x40
def CORE_BRK_ACNT.COUNT (c : Nat) : Loc := ⟨CORE_BRK_ACNT.off c, 0, 48, .rw, 0⟩
/-- The fields of CORE_BRK_ACNT. -/
def CORE_BRK_ACNT.fields (c : Nat) : List Loc := [CORE_BRK_ACNT.COUNT c]

/-- Offset of CORE_HOLDS (R238). -/
def CORE_HOLDS.off (c : Nat) : Nat := coreBase c + 0x48
def CORE_HOLDS.LATE (c : Nat) : Loc := ⟨CORE_HOLDS.off c, 0, 16, .ro, 0⟩
def CORE_HOLDS.DEPEND (c : Nat) : Loc := ⟨CORE_HOLDS.off c, 16, 16, .ro, 0⟩
def CORE_HOLDS.ARRIVAL (c : Nat) : Loc := ⟨CORE_HOLDS.off c, 32, 16, .ro, 0⟩
def CORE_HOLDS.GEAR (c : Nat) : Loc := ⟨CORE_HOLDS.off c, 48, 16, .ro, 0⟩
/-- The fields of CORE_HOLDS. -/
def CORE_HOLDS.fields (c : Nat) : List Loc := [CORE_HOLDS.LATE c, CORE_HOLDS.DEPEND c, CORE_HOLDS.ARRIVAL c, CORE_HOLDS.GEAR c]

/-- Offset of CORE_IMEM (R238). -/
def CORE_IMEM.off (c : Nat) : Nat := coreBase c + 0x50
def CORE_IMEM.EXEC_BASE (c : Nat) : Loc := ⟨CORE_IMEM.off c, 0, 11, .ro, 0⟩
def CORE_IMEM.ACC_BASE (c : Nat) : Loc := ⟨CORE_IMEM.off c, 16, 11, .ro, 0⟩
/-- The fields of CORE_IMEM. -/
def CORE_IMEM.fields (c : Nat) : List Loc := [CORE_IMEM.EXEC_BASE c, CORE_IMEM.ACC_BASE c]

/-- Offset of CORE_TRC (R486). -/
def CORE_TRC.off (c : Nat) : Nat := coreBase c + 0x58
def CORE_TRC.WRAP (c : Nat) : Loc := ⟨CORE_TRC.off c, 0, 1, .rw, 1⟩
def CORE_TRC.ALLTAG (c : Nat) : Loc := ⟨CORE_TRC.off c, 1, 1, .rw, 0⟩
def CORE_TRC.FULL (c : Nat) : Loc := ⟨CORE_TRC.off c, 2, 1, .w1c, 0⟩
def CORE_TRC.NEXT (c : Nat) : Loc := ⟨CORE_TRC.off c, 3, 8, .ro, 0⟩
def CORE_TRC.WRAPPED (c : Nat) : Loc := ⟨CORE_TRC.off c, 11, 1, .ro, 0⟩
/-- The fields of CORE_TRC. -/
def CORE_TRC.fields (c : Nat) : List Loc := [CORE_TRC.WRAP c, CORE_TRC.ALLTAG c, CORE_TRC.FULL c, CORE_TRC.NEXT c, CORE_TRC.WRAPPED c]

/-- Offset of DSC_FAULT_VA (R207). -/
def DSC_FAULT_VA.off (c : Nat) : Nat := coreBase c + 0x800
def DSC_FAULT_VA.VA (c : Nat) : Loc := ⟨DSC_FAULT_VA.off c, 0, 48, .ro, 0⟩
/-- The fields of DSC_FAULT_VA. -/
def DSC_FAULT_VA.fields (c : Nat) : List Loc := [DSC_FAULT_VA.VA c]

/-- Offset of DSC_FAULT_INFO (R207). -/
def DSC_FAULT_INFO.off (c : Nat) : Nat := coreBase c + 0x808
def DSC_FAULT_INFO.VALID (c : Nat) : Loc := ⟨DSC_FAULT_INFO.off c, 0, 1, .ro, 0⟩
def DSC_FAULT_INFO.HANDLE (c : Nat) : Loc := ⟨DSC_FAULT_INFO.off c, 8, 8, .ro, 0⟩
def DSC_FAULT_INFO.CODE (c : Nat) : Loc := ⟨DSC_FAULT_INFO.off c, 16, 8, .ro, 0⟩
def DSC_FAULT_INFO.DIM (c : Nat) : Loc := ⟨DSC_FAULT_INFO.off c, 24, 3, .ro, 0⟩
def DSC_FAULT_INFO.UNIT (c : Nat) : Loc := ⟨DSC_FAULT_INFO.off c, 27, 3, .ro, 0⟩
def DSC_FAULT_INFO.CHANNEL (c : Nat) : Loc := ⟨DSC_FAULT_INFO.off c, 30, 5, .ro, 0⟩
def DSC_FAULT_INFO.SCALE (c : Nat) : Loc := ⟨DSC_FAULT_INFO.off c, 35, 1, .ro, 0⟩
/-- The fields of DSC_FAULT_INFO. -/
def DSC_FAULT_INFO.fields (c : Nat) : List Loc := [DSC_FAULT_INFO.VALID c, DSC_FAULT_INFO.HANDLE c, DSC_FAULT_INFO.CODE c, DSC_FAULT_INFO.DIM c, DSC_FAULT_INFO.UNIT c, DSC_FAULT_INFO.CHANNEL c, DSC_FAULT_INFO.SCALE c]

/-- Offset of SYNC_CTRL (R315). -/
def SYNC_CTRL.off (c : Nat) : Nat := coreBase c + 0xD00
def SYNC_CTRL.WD_MS (c : Nat) : Loc := ⟨SYNC_CTRL.off c, 0, 12, .rw, 0xa⟩
def SYNC_CTRL.WD_EN (c : Nat) : Loc := ⟨SYNC_CTRL.off c, 12, 1, .rw, 1⟩
def SYNC_CTRL.DL_PERIOD (c : Nat) : Loc := ⟨SYNC_CTRL.off c, 16, 10, .rw, 0xa⟩
/-- The fields of SYNC_CTRL. -/
def SYNC_CTRL.fields (c : Nat) : List Loc := [SYNC_CTRL.WD_MS c, SYNC_CTRL.WD_EN c, SYNC_CTRL.DL_PERIOD c]

/-- Offset of TEL_CORE (R482). -/
def TEL_CORE.off (c : Nat) : Nat := coreBase c + 0xE00
def TEL_CORE.XWORDS (c : Nat) : Loc := ⟨TEL_CORE.off c, 0, 24, .ro, 0⟩
def TEL_CORE.AWORDS (c : Nat) : Loc := ⟨TEL_CORE.off c, 24, 16, .ro, 0⟩
def TEL_CORE.WAITS (c : Nat) : Loc := ⟨TEL_CORE.off c, 40, 16, .ro, 0⟩
def TEL_CORE.BARGEN (c : Nat) : Loc := ⟨TEL_CORE.off c, 56, 8, .ro, 0⟩
/-- The fields of TEL_CORE. -/
def TEL_CORE.fields (c : Nat) : List Loc := [TEL_CORE.XWORDS c, TEL_CORE.AWORDS c, TEL_CORE.WAITS c, TEL_CORE.BARGEN c]

/-- Offset of CORE_PARAM (R238). -/
def CORE_PARAM.off (c n : Nat) : Nat := coreBase c + 0x100 + n * 0x8
def CORE_PARAM.VALUE (c n : Nat) : Loc := ⟨CORE_PARAM.off c n, 0, 32, .ro, 0⟩
/-- The fields of CORE_PARAM. -/
def CORE_PARAM.fields (c n : Nat) : List Loc := [CORE_PARAM.VALUE c n]

/-- Offset of STR_PBASE (R290). -/
def STR_PBASE.off (c n : Nat) : Nat := coreBase c + 0x900 + n * 0x10
def STR_PBASE.BASE (c n : Nat) : Loc := ⟨STR_PBASE.off c n, 0, 48, .ro, 0⟩
/-- The fields of STR_PBASE. -/
def STR_PBASE.fields (c n : Nat) : List Loc := [STR_PBASE.BASE c n]

/-- Offset of STR_PSTRIDE (R290). -/
def STR_PSTRIDE.off (c n : Nat) : Nat := coreBase c + 0x908 + n * 0x10
def STR_PSTRIDE.LAP_STRIDE (c n : Nat) : Loc := ⟨STR_PSTRIDE.off c n, 0, 48, .ro, 0⟩
/-- The fields of STR_PSTRIDE. -/
def STR_PSTRIDE.fields (c n : Nat) : List Loc := [STR_PSTRIDE.LAP_STRIDE c n]

/-- Offset of SYNC_VAL (R315). -/
def SYNC_VAL.off (c n : Nat) : Nat := coreBase c + 0xA00 + n * 0x10
def SYNC_VAL.VALUE (c n : Nat) : Loc := ⟨SYNC_VAL.off c n, 0, 32, .rw, 0⟩
def SYNC_VAL.WAITERS (c n : Nat) : Loc := ⟨SYNC_VAL.off c n, 32, 6, .ro, 0⟩
def SYNC_VAL.VOID (c n : Nat) : Loc := ⟨SYNC_VAL.off c n, 38, 1, .ro, 1⟩
def SYNC_VAL.ABORTED (c n : Nat) : Loc := ⟨SYNC_VAL.off c n, 39, 1, .ro, 0⟩
/-- The fields of SYNC_VAL. -/
def SYNC_VAL.fields (c n : Nat) : List Loc := [SYNC_VAL.VALUE c n, SYNC_VAL.WAITERS c n, SYNC_VAL.VOID c n, SYNC_VAL.ABORTED c n]

/-- Offset of SYNC_LAST (R315). -/
def SYNC_LAST.off (c n : Nat) : Nat := coreBase c + 0xA08 + n * 0x10
def SYNC_LAST.ADDR (c n : Nat) : Loc := ⟨SYNC_LAST.off c n, 0, 17, .ro, 0⟩
def SYNC_LAST.SRC (c n : Nat) : Loc := ⟨SYNC_LAST.off c n, 17, 3, .ro, 0⟩
def SYNC_LAST.CORE (c n : Nat) : Loc := ⟨SYNC_LAST.off c n, 20, 6, .ro, 0⟩
def SYNC_LAST.NODE (c n : Nat) : Loc := ⟨SYNC_LAST.off c n, 26, 18, .ro, 0⟩
def SYNC_LAST.LAP (c n : Nat) : Loc := ⟨SYNC_LAST.off c n, 44, 20, .ro, 0⟩
/-- The fields of SYNC_LAST. -/
def SYNC_LAST.fields (c n : Nat) : List Loc := [SYNC_LAST.ADDR c n, SYNC_LAST.SRC c n, SYNC_LAST.CORE c n, SYNC_LAST.NODE c n, SYNC_LAST.LAP c n]

/-- Offset of TEL_ENG (R482). -/
def TEL_ENG.off (c n : Nat) : Nat := coreBase c + 0xF00 + n * 0x8
def TEL_ENG.TOPS (c n : Nat) : Loc := ⟨TEL_ENG.off c n, 0, 24, .ro, 0⟩
def TEL_ENG.VOPS (c n : Nat) : Loc := ⟨TEL_ENG.off c n, 24, 24, .ro, 0⟩
def TEL_ENG.POISON (c n : Nat) : Loc := ⟨TEL_ENG.off c n, 48, 16, .ro, 0⟩
/-- The fields of TEL_ENG. -/
def TEL_ENG.fields (c n : Nat) : List Loc := [TEL_ENG.TOPS c n, TEL_ENG.VOPS c n, TEL_ENG.POISON c n]

/-- Offset of CORE_TRC_REC (R485). -/
def CORE_TRC_REC.off (c n : Nat) : Nat := coreBase c + 0x1000 + n * 0x8
def CORE_TRC_REC.WORD (c n : Nat) : Loc := ⟨CORE_TRC_REC.off c n, 0, 64, .ro, 0⟩
/-- The fields of CORE_TRC_REC. -/
def CORE_TRC_REC.fields (c n : Nat) : List Loc := [CORE_TRC_REC.WORD c n]

namespace Bar0

/-- The register at offset `r` of block GID. -/
def gid (r : Nat) : List Loc :=
  if r = 0x0 then GID_ID.fields
  else if r = 0x8 then GID_VER.fields
  else if r = 0x10 then GID_FWVER.fields
  else if r = 0x28 then GID_CAP0.fields
  else if r = 0x30 then GID_CAP1.fields
  else if r = 0x38 then GID_STRAP.fields
  else if r = 0x40 then GID_COORD.fields
  else if r = 0x48 then GID_NODE.fields
  else if r = 0x50 then GID_SCRATCH.fields
  else if 0x18 ≤ r ∧ r < 0x18 + 2 * 0x8 ∧ (r - 0x18) % 0x8 = 0 then GID_SERIAL.fields ((r - 0x18) / 0x8)
  else []

/-- The register at offset `r` of block EVT. -/
def evt (r : Nat) : List Loc :=
  if r = 0x0 then EVT_CTRL.fields
  else if r = 0x8 then EVT_HEAD.fields
  else if r = 0x10 then EVT_TAIL.fields
  else if r = 0x18 then EVT_STAT.fields
  else if 0x8000 ≤ r ∧ r < 0x8000 + 4096 * 0x8 ∧ (r - 0x8000) % 0x8 = 0 then EVT_REC.fields ((r - 0x8000) / 0x8)
  else []

/-- The register at offset `r` of block PWR. -/
def pwr (r : Nat) : List Loc :=
  if r = 0x0 then PWR_GEAR.fields
  else if r = 0x8 then PWR_CAP.fields
  else if r = 0x10 then PWR_MEAS.fields
  else if r = 0x18 then PWR_FW.fields
  else if r = 0x20 then PWR_TRIP.fields
  else if r = 0x28 then RST_CTRL.fields
  else if r = 0x30 then RST_STAT.fields
  else if r = 0x38 then KICK_STAT.fields
  else if 0x100 ≤ r ∧ r < 0x100 + 30 * 0x8 ∧ (r - 0x100) % 0x8 = 0 then PWR_DOM.fields ((r - 0x100) / 0x8)
  else []

/-- The register at offset `r` of block THM. -/
def thm (r : Nat) : List Loc :=
  if r = 0x0 then THM_STAT.fields
  else if r = 0x8 then THM_HOTREF.fields
  else if 0x100 ≤ r ∧ r < 0x100 + 193 * 0x8 ∧ (r - 0x100) % 0x8 = 0 then THM_SENS.fields ((r - 0x100) / 0x8)
  else if 0x800 ≤ r ∧ r < 0x800 + 64 * 0x8 ∧ (r - 0x800) % 0x8 = 0 then THM_DIE.fields ((r - 0x800) / 0x8)
  else []

/-- The register at offset `r` of block TRU. -/
def tru (r : Nat) : List Loc :=
  if r = 0x0 then TRU_STAT.fields
  else if r = 0x8 then TRU_MBOX.fields
  else if r = 0x10 then TRU_ERASE.fields
  else if 0x4000 ≤ r ∧ r < 0x4000 + 2048 * 0x8 ∧ (r - 0x4000) % 0x8 = 0 then TRU_REQ.fields ((r - 0x4000) / 0x8)
  else if 0x8000 ≤ r ∧ r < 0x8000 + 2048 * 0x8 ∧ (r - 0x8000) % 0x8 = 0 then TRU_RESP.fields ((r - 0x8000) / 0x8)
  else []

/-- The register at offset `r` of block TEL. -/
def tel (r : Nat) : List Loc :=
  if r = 0x0 then IMG_STAT.fields
  else if r = 0x8 then IMG_LAP.fields
  else if r = 0x10 then IMG_WCET.fields
  else if r = 0x18 then IMG_LASTLEN.fields
  else if r = 0x20 then IMG_PATCHQ.fields
  else if r = 0x28 then IMG_LAPMASK.fields
  else if r = 0x80 then TEL_CTRL.fields
  else if r = 0x88 then TEL_LAT.fields
  else if r = 0x90 then TEL_LSTAMP.fields
  else if r = 0x98 then TEL_TIME.fields
  else if r = 0xA0 then TEL_MOD.fields
  else if 0x40 ≤ r ∧ r < 0x40 + 8 * 0x8 ∧ (r - 0x40) % 0x8 = 0 then IMG_DIGEST.fields ((r - 0x40) / 0x8)
  else if 0xC0 ≤ r ∧ r < 0xC0 + 5 * 0x8 ∧ (r - 0xC0) % 0x8 = 0 then TEL_GEAR.fields ((r - 0xC0) / 0x8)
  else []

/-- The register at offset `r` of block MAP. -/
def map (r : Nat) : List Loc :=
  if r = 0x0 then MAP_CTRL.fields
  else if r = 0x8 then MAP_RESERVE.fields
  else if r = 0x10 then MAP_PTROOT.fields
  else if 0x100 ≤ r ∧ r < 0x100 + 16 * 0x20 ∧ (r - 0x100) % 0x20 = 0 then MAP_RGN_A.fields ((r - 0x100) / 0x20)
  else if 0x108 ≤ r ∧ r < 0x108 + 16 * 0x20 ∧ (r - 0x108) % 0x20 = 0 then MAP_RGN_B.fields ((r - 0x108) / 0x20)
  else if 0x110 ≤ r ∧ r < 0x110 + 16 * 0x20 ∧ (r - 0x110) % 0x20 = 0 then MAP_RGN_C.fields ((r - 0x110) / 0x20)
  else if 0x300 ≤ r ∧ r < 0x300 + 16 * 0x20 ∧ (r - 0x300) % 0x20 = 0 then MAP_INST_A.fields ((r - 0x300) / 0x20)
  else if 0x308 ≤ r ∧ r < 0x308 + 16 * 0x20 ∧ (r - 0x308) % 0x20 = 0 then MAP_INST_B.fields ((r - 0x308) / 0x20)
  else if 0x310 ≤ r ∧ r < 0x310 + 16 * 0x20 ∧ (r - 0x310) % 0x20 = 0 then MAP_INST_C.fields ((r - 0x310) / 0x20)
  else []

/-- The register at offset `r` of block `i` of CMD. -/
def cmd (i : Nat) (r : Nat) : List Loc :=
  if r = 0x0 then CMD_CTRL.fields i
  else if r = 0x8 then CMD_SQ.fields i
  else if r = 0x10 then CMD_CQ.fields i
  else if r = 0x18 then CMD_SQ_TAIL.fields i
  else if r = 0x20 then CMD_SQ_HEAD.fields i
  else if r = 0x28 then CMD_CQ_HEAD.fields i
  else if r = 0x30 then CMD_CQ_TAIL.fields i
  else if r = 0x38 then CMD_RES.fields i
  else []

/-- The register at offset `r` of block `i` of FABP. -/
def fab (i : Nat) (r : Nat) : List Loc :=
  if r = 0x0 then FAB_PCTRL.fields i
  else if r = 0x8 then FAB_PSTAT.fields i
  else if r = 0x10 then FAB_PERR.fields i
  else if r = 0x18 then FAB_PVC.fields i
  else if r = 0x100 then TEL_PORT.fields i
  else if r = 0x8000 ∧ i = 0 then FAB_ENUM.fields
  else if r = 0x8008 ∧ i = 0 then FAB_ROUTE.fields
  else if r = 0x8010 ∧ i = 0 then FAB_PEERS.fields
  else if 0x8100 ≤ r ∧ r < 0x8100 + 16 * 0x8 ∧ (r - 0x8100) % 0x8 = 0 ∧ i = 0 then FAB_DEAD.fields ((r - 0x8100) / 0x8)
  else []

/-- The register at offset `r` of block `i` of HUB. -/
def hub (i : Nat) (r : Nat) : List Loc :=
  if r = 0x40000 then DRL_STAT.fields i
  else if r = 0x40008 then DRL_EPOCH.fields i
  else if r = 0x70000 then TEL_HUB.fields i
  else if 0x41000 ≤ r ∧ r < 0x41000 + 128 * 0x8 ∧ (r - 0x41000) % 0x8 = 0 then DRL_EXP.fields i ((r - 0x41000) / 0x8)
  else if 0x71000 ≤ r ∧ r < 0x71000 + 128 * 0x8 ∧ (r - 0x71000) % 0x8 = 0 then TEL_EXP.fields i ((r - 0x71000) / 0x8)
  else if 0x20000 ≤ r ∧ r < 0x20000 + 16 * 0x40 ∧ (r - 0x20000) % 0x40 = 0 then DMA_STAT.fields (16 * i + ((r - 0x20000) / 0x40))
  else if 0x20008 ≤ r ∧ r < 0x20008 + 16 * 0x40 ∧ (r - 0x20008) % 0x40 = 0 then DMA_PRI_ADDR.fields (16 * i + ((r - 0x20008) / 0x40))
  else if 0x60000 ≤ r ∧ r < 0x60000 + 32 * 0x20 ∧ (r - 0x60000) % 0x20 = 0 then BAR_CFG.fields (32 * i + ((r - 0x60000) / 0x20))
  else if 0x60008 ≤ r ∧ r < 0x60008 + 32 * 0x20 ∧ (r - 0x60008) % 0x20 = 0 then BAR_STAT.fields (32 * i + ((r - 0x60008) / 0x20))
  else if 0x60010 ≤ r ∧ r < 0x60010 + 32 * 0x20 ∧ (r - 0x60010) % 0x20 = 0 then BAR_TREE.fields (32 * i + ((r - 0x60010) / 0x20))
  else []

/-- The register at offset `r` of block `i` of TMC. -/
def tmc (i : Nat) (r : Nat) : List Loc :=
  if r = 0x0 then TMC_CTRL.fields i
  else if r = 0x8 then TMC_HOST.fields i
  else if r = 0x10 then TMC_REFSTAT.fields i
  else if r = 0x18 then TMC_ERRLOG.fields i
  else if 0x1000 ≤ r ∧ r < 0x1000 + 64 * 0x10 ∧ (r - 0x1000) % 0x10 = 0 then TMC_COL_A.fields (64 * i + ((r - 0x1000) / 0x10))
  else if 0x1008 ≤ r ∧ r < 0x1008 + 64 * 0x10 ∧ (r - 0x1008) % 0x10 = 0 then TMC_COL_B.fields (64 * i + ((r - 0x1008) / 0x10))
  else if 0x2000 ≤ r ∧ r < 0x2000 + 64 * 0x10 ∧ (r - 0x2000) % 0x10 = 0 then TEL_COL_A.fields (64 * i + ((r - 0x2000) / 0x10))
  else if 0x2008 ≤ r ∧ r < 0x2008 + 64 * 0x10 ∧ (r - 0x2008) % 0x10 = 0 then TEL_COL_B.fields (64 * i + ((r - 0x2008) / 0x10))
  else []

/-- The register at offset `r` of block `i` of PROT. -/
def prot (i : Nat) (r : Nat) : List Loc :=
  if r = 0x0 then PROT_CTRL.fields i
  else if r = 0x8 then PROT_STAT.fields i
  else if r = 0x10 then PROT_SCRUBPOS.fields i
  else if r = 0x18 then PROT_ERRCNT.fields i
  else if 0x100 ≤ r ∧ r < 0x100 + 16 * 0x8 ∧ (r - 0x100) % 0x8 = 0 then PROT_PATCH.fields i ((r - 0x100) / 0x8)
  else if 0x200 ≤ r ∧ r < 0x200 + 64 * 0x8 ∧ (r - 0x200) % 0x8 = 0 then PROT_TRACK.fields i ((r - 0x200) / 0x8)
  else []

/-- The register at offset `r` of block `i` of FZ. -/
def fz (i : Nat) (r : Nat) : List Loc :=
  if r = 0x0 then FZ_CTRL.fields i
  else if r = 0x8 then FZ_TRIM_SEL.fields i
  else if r = 0x10 then FZ_TRIM_DATA.fields i
  else if 0x1000 ≤ r ∧ r < 0x1000 + 64 * 0x10 ∧ (r - 0x1000) % 0x10 = 0 then FZ_COL_A.fields (64 * i + ((r - 0x1000) / 0x10))
  else if 0x1008 ≤ r ∧ r < 0x1008 + 64 * 0x10 ∧ (r - 0x1008) % 0x10 = 0 then FZ_COL_B.fields (64 * i + ((r - 0x1008) / 0x10))
  else []

/-- The register at offset `r` of block `i` of CORE. -/
def core (i : Nat) (r : Nat) : List Loc :=
  if r = 0x0 then CORE_CTRL.fields i
  else if r = 0x8 then CORE_STAT.fields i
  else if r = 0x10 then CORE_QSTAT.fields i
  else if r = 0x18 then CORE_HALT_PC.fields i
  else if r = 0x20 then CORE_HALT_INFO.fields i
  else if r = 0x28 then CORE_CYCLE.fields i
  else if r = 0x30 then CORE_BRK.fields i
  else if r = 0x38 then CORE_BRK_XCNT.fields i
  else if r = 0x40 then CORE_BRK_ACNT.fields i
  else if r = 0x48 then CORE_HOLDS.fields i
  else if r = 0x50 then CORE_IMEM.fields i
  else if r = 0x58 then CORE_TRC.fields i
  else if r = 0x800 then DSC_FAULT_VA.fields i
  else if r = 0x808 then DSC_FAULT_INFO.fields i
  else if r = 0xD00 then SYNC_CTRL.fields i
  else if r = 0xE00 then TEL_CORE.fields i
  else if 0x100 ≤ r ∧ r < 0x100 + 32 * 0x8 ∧ (r - 0x100) % 0x8 = 0 then CORE_PARAM.fields i ((r - 0x100) / 0x8)
  else if 0x900 ≤ r ∧ r < 0x900 + 8 * 0x10 ∧ (r - 0x900) % 0x10 = 0 then STR_PBASE.fields i ((r - 0x900) / 0x10)
  else if 0x908 ≤ r ∧ r < 0x908 + 8 * 0x10 ∧ (r - 0x908) % 0x10 = 0 then STR_PSTRIDE.fields i ((r - 0x908) / 0x10)
  else if 0xA00 ≤ r ∧ r < 0xA00 + 48 * 0x10 ∧ (r - 0xA00) % 0x10 = 0 then SYNC_VAL.fields i ((r - 0xA00) / 0x10)
  else if 0xA08 ≤ r ∧ r < 0xA08 + 48 * 0x10 ∧ (r - 0xA08) % 0x10 = 0 then SYNC_LAST.fields i ((r - 0xA08) / 0x10)
  else if 0xF00 ≤ r ∧ r < 0xF00 + 8 * 0x8 ∧ (r - 0xF00) % 0x8 = 0 then TEL_ENG.fields i ((r - 0xF00) / 0x8)
  else if 0x1000 ≤ r ∧ r < 0x1000 + 512 * 0x8 ∧ (r - 0x1000) % 0x8 = 0 then CORE_TRC_REC.fields i ((r - 0x1000) / 0x8)
  else []

/-- The fields of the register at the 8-aligned offset `off`: none where R492 leaves it unassigned or unused. -/
def regAt (off : Nat) : List Loc :=
  if off < 0x10000 then gid off
  else if off < 0x20000 then evt (off - 0x10000)
  else if off < 0x30000 then cmd ((off - 0x20000) / 0x1000) (off % 0x1000)
  else if off < 0x40000 then pwr (off - 0x30000)
  else if off < 0x50000 then thm (off - 0x40000)
  else if off < 0x60000 then tru (off - 0x50000)
  else if off < 0x70000 then tel (off - 0x60000)
  else if off < 0x80000 then map (off - 0x70000)
  else if off < 0x100000 then fab ((off - 0x80000) / 0x10000) (off % 0x10000)
  else if off < 0x200000 then hub ((off - 0x100000) / 0x80000) (off % 0x80000)
  else if off < 0x1000000 then []
  else if 0x2000000 ≤ off then []
  else
    let t := (off - 0x1000000) / 0x200000
    let r := (off - 0x1000000) % 0x200000
    if r < 0x10000 then tmc t r
    else if r < 0x20000 then prot t (r - 0x10000)
    else if r < 0x30000 then fz t (r - 0x20000)
    else if r < 0x100000 then []
    else if r < 0x180000 then core (8 * t + (r - 0x100000) / 0x10000) (r % 0x10000)
    else []

/-- The Reset value of the register at `off` (R10). -/
def resetWord (off : Nat) : BitVec 64 :=
  BitVec.ofNat 64 ((regAt off).foldl (fun a l => a + l.rst * 2 ^ l.lo) 0)

end Bar0

end Sys2Proof.Machine
end

