-- ==== Sys2Proof/Machine/State.lean ====
section
/-!
DEFINITION. State as plain data: every piece of state the spec gives the module, the queue of waiting commands, the state right
after reset, and the reasons a step can stop. Register fields have one home, the table `csr` keyed by BAR0 offset.
-/
namespace Sys2Proof.Machine

/-- A queued request: its place in arrival order, and the marks of R49 and R60. -/
structure QReq where
  id : Nat
  r : ColReq
  /-- housekeeping time of entry (R60) -/
  t0 : Nat := 0
  depDrain : Bool := false
  urgent : Bool := false
  aged : Bool := false
  /-- a read that waited on a write of another class (R222) -/
  dependent : Bool := false
  deriving DecidableEq, Repr

/-- An entry of the merge buffer (R62): the class, requester and source of the narrow write that opened it, and whether a read waits on it (R49). -/
structure MergeEnt where
  id : Nat
  word : Nat
  data : Word
  mask : BitVec 32
  cls : Cls
  req : Nat
  src : ReqSrc
  closed : Bool
  dep : Bool := false
  deriving DecidableEq, Repr

/-- An open row of a column bank (R47): dirty mark, and the next word of an inline write series (R102). -/
structure OpenRow where
  level : Nat
  row : Nat
  dirty : Bool
  inl : Nat
  deriving DecidableEq, Repr

/-- What a slow path does with the word it recovers (R63, R64, R105). -/
inductive SlowCont where
  | deliver (q : QReq)
  | merge (m : MergeEnt)
  | atomic (q : QReq)
  deriving DecidableEq, Repr

/-- A slow path in progress (R105). -/
structure Slow where
  id : Nat
  word : Nat
  cont : SlowCont
  deriving DecidableEq, Repr

/-- A wire-level that a feed zone has still to decide (R84): wire, level, error counts of the two sides. -/
structure ZoneCell where
  wire : Nat
  level : Nat
  eL : Nat
  eR : Nat
  deriving DecidableEq, Repr

/-- A feed zone in progress (R85): wire-levels to decide in group order, and those moved and LOW so far. -/
structure Zone where
  cells : List ZoneCell := []
  moved : Nat := 0
  lows : Nat := 0
  deriving DecidableEq, Repr

/-- One column: its sequencer, feed-zone sampler and patrol position. -/
structure Col where
  rq : List QReq := []
  wq : List QReq := []
  merge : List MergeEnt := []
  waiting : List ColReq := []
  flight : List QReq := []
  slow : List Slow := []
  /-- slow paths whose word a re-encode has found uncorrectable and poisoned (R103) -/
  lost : List Nat := []
  rows : List OpenRow := []
  drainMode : Bool := false
  /-- the first slot not yet decided, in root periods since the PLL lock (R52) -/
  next : Nat := 0
  /-- the slot of the last non-PACED activation (R55), below 0 where it lies before the PLL lock -/
  lastAct : Option Int := none
  /-- the due-time counters: the housekeeping time at which each bank's next refresh falls due (R66) -/
  refAt : List Int := [0, 0, 0, 0, 0, 0]
  /-- the six calibration rows hold their pattern (R78) -/
  cal : Bool := false
  /-- the feed zone in progress (R85) -/
  zone : Zone := {}
  /-- levels that owe 4 refreshes, in the order they reached it (R68) -/
  flushQ : List Nat := []
  /-- levels the sequencer no longer uses (R74) -/
  failed : List Nat := []
  /-- level and time of the command alerts of the last millisecond (R74) -/
  alerts : List (Nat × Nat) := []
  /-- sampler: (wire × 6 + level) × 2 + side, to samples and errors (R81) -/
  samples : Tab (Nat × Nat) := []
  /-- the side each level samples next (R81) -/
  side : List Bool := [false, false, false, false, false, false]
  /-- counts of the kept pass, decided at the next feed zone (R81, R84) -/
  kept : Tab (Nat × Nat) := []
  /-- trims: (gear × 6 + level) × 272 + wire (R77), as steps above -64 -/
  trims : Tab Nat := []
  /-- suspect wire-levels, level × 272 + wire (R88) -/
  suspect : List Nat := []
  /-- wire-level and time of recent corrections (R88) -/
  corr : List (Nat × Nat) := []
  /-- what FZ_TRIM_DATA shows of each wire-level at the last decision: eL, eR, LOW -/
  shown : Tab (Nat × Nat × Bool) := []
  /-- the patrol's row sequence (R111) -/
  patrol : Nat := 0
  /-- a feed zone falls due by FORCE (R94) -/
  due : Bool := false
  /-- in self-refresh (R75) -/
  selfRef : Bool := false
  /-- samples of the column's sensors at the end of its last feed zone (R83) -/
  temps : List Nat := []
  deriving DecidableEq, Repr

/-- A tracker entry's age and a patch spare (R110, R113). -/
structure Tower where
  /-- age order of the tracker entries, oldest first -/
  order : List Nat := []
  /-- spare of each patch entry: data and its word mark -/
  spares : Tab (Word × Bool) := []
  /-- patch entries not yet in the patch store of flash -/
  unsaved : List Nat := []
  /-- hard words that found no free entry: column and word, and whether this patrol pass has reported it (R114) -/
  hard : List (Nat × Nat × Bool) := []
  /-- the present patrol pass has met a poisoned word that the list cannot hold, or the list has overflowed during it (R118) -/
  missed : Bool := false
  /-- the last complete pass since an overflow found every poisoned word of the tower listed (R118) -/
  listed : Bool := false
  deriving DecidableEq, Repr

/-! ## Cores and their streams (R208 to R237, R268 to R281, R291 to R297) -/

/-- The run states of a stream. -/
inductive StreamSt where
  | stopped | running | ended
  deriving DecidableEq, Repr

/-- A standing wait (R294): kind 1 wait-ge, 2 take, 3 barrier; `released` once R295 has released it. -/
structure Wait where
  kind : Nat
  idx : Nat
  amt : Nat
  since : Nat
  released : Bool
  /-- the word's own arrival at the barrier has been made (R305) -/
  arrived : Bool := false
  deriving DecidableEq, Repr

/-- An open loop (R227): offsets of the first and of the last body word, passes left. -/
structure Loop where
  beg : Nat
  last : Nat
  left : Nat
  deriving DecidableEq, Repr

/-- When a deferred signal is sent (R280, R297). -/
inductive DefCond where
  | now
  | atCycle (n : Nat)
  | ofWord (id : Nat)
  | before (id : Nat)
  | accepted (id : Nat)
  deriving DecidableEq, Repr

/-- A deferred signal (R296), with the offset and tag of its word. -/
structure DefSig where
  kind : Nat
  idx : Nat
  amt : Nat
  pc : Nat
  cond : DefCond
  tag : Option Nat
  deriving DecidableEq, Repr

/-- One word position of a queue entry (R210): words still to come, how many of them have sent a late marker, data and poison mark. -/
structure Slot where
  pending : Nat := 0
  late : Nat := 0
  data : Word := 0
  mark : Bool := false
  /-- a word of the last packet of its tensor (R155) -/
  tail : Bool := false
  deriving DecidableEq, Repr

/-- A queue entry: its number in allocation order, eight positions, the access word that allocated it (none for a push) and
the core cycle from which the access stream sees it (R211, R218). -/
structure QEnt where
  id : Nat
  slots : List Slot
  word : Option Nat
  seen : Nat
  deriving DecidableEq, Repr

/-- What a CXL.io request of an engine access is for (R286). -/
inductive IoDest where
  /-- a word of a tile: core, queue, entry, positions -/
  | fetch (core q ent : Nat) (places : List Place)
  /-- a store of an output tile: core, access word -/
  | drain (core word : Nat)
  /-- a word of an index tensor or a side table: core, access word -/
  | index (core word : Nat)
  /-- source bytes of a block, or its stores: channel, entry, block, byte offset in the block -/
  | chanRead (k ent block off : Nat)
  | chanWrite (k ent block : Nat)
  /-- a request of a batch that has stopped -/
  | gone
  deriving DecidableEq, Repr

/-- A request of a core's near port (R278): to a column, a read or a store of SRAM (for a read the queue, entry and positions, for a store the
access word and the space), to host memory. -/
inductive PortReq where
  | col (r : ColReq)
  | load (q ent : Nat) (places : List Place) (a : Nat)
  | store (word space a : Nat) (mask : BitVec 32) (data : Word) (mark : Bool)
  | io (addr n : Nat) (write : Bool) (data : List Byte) (dest : IoDest) (poison : Bool := false)
  deriving DecidableEq, Repr

/-- A word read for an indirect position, from which the next position is served where its index is the same (R168): word of the space, entry and
positions it was read for, the position it served last, its data once here, whether a late marker stands for it, and the entries that follow. -/
structure KeptRead where
  word : Nat
  ent : Nat
  places : List Place
  pos : Nat
  val : Option (Word × Bool) := none
  late : Bool := false
  next : List (Nat × List Place) := []
  deriving DecidableEq, Repr

/-- An armed FETCH or DRAIN (R271): latched descriptors and record, start indices after R270, counters, walk position of a
transposition, bits carried into the next tile (R272), the mask tile held (R274). -/
structure Armed where
  id : Nat
  pc : Nat
  tag : Nat
  drain : Bool
  queue : Nat
  handle : Nat
  ihandle : Nat
  desc : BitVec 512
  rcd : BitVec 512
  idesc : BitVec 512
  i2desc : BitVec 512
  /-- the side-table descriptor of a block-sparse tensor -/
  sdesc : BitVec 512
  base : Nat
  start : List Int
  cnt : List Nat
  xpose : Bool
  th : Nat
  tw : Nat
  /-- an element split at a tile's end (R272): bit address of the rest, and its bits -/
  carry : Option (Nat × Nat)
  /-- index vector of that element -/
  carryIdx : List Int := []
  mask : Option Tile
  done : Bool
  /-- writes not yet acknowledged -/
  acks : Nat
  /-- waits for a page request of host memory (R288) -/
  paged : Bool
  /-- the walk has closed the tile that the rest of a split element begins (R271, R272) -/
  closing : Bool := false
  /-- the indirect position the walk stands at and the slice it selects (R168) -/
  ipos : Option (Nat × Int) := none
  /-- that slice is the one of the position before (R168) -/
  ishare : Bool := false
  kept : List KeptRead := []
  /-- the word of the last request of a FETCH's tile, which the next tile's first element may share (R272) -/
  lastWord : Option Nat := none
  /-- bytes of which a DRAIN has written a part of the bits: address, bits written, mask of those bits (R272) -/
  parts : List (Nat × Nat × Nat) := []
  /-- mask tiles of the passes that have ended in the tile in the making, and whether the word holds a place of the gate input (R274) -/
  past : List Tile := []
  /-- words that host memory has yet to deliver, by host address, with the index vector of their first element: the first is the restart point (R288) -/
  away : List (Nat × List Int) := []
  gateHeld : Bool := false
  /-- words of index tensors and side tables that have been read (column, or none for host memory; word; data; poison mark), and those asked for
  (R192, R278) -/
  idxGot : List ((Option Nat × Nat) × Word × Bool) := []
  idxAsk : List (Option Nat × Nat) := []
  deriving DecidableEq, Repr

/-- An access DMA word whose batch has not ended (R280). -/
structure DmaWord where
  id : Nat
  chan : Nat
  pc : Nat
  tag : Nat
  accepted : Bool
  ended : Bool
  /-- every write of the batch has been acknowledged -/
  written : Bool := false
  deriving DecidableEq, Repr

/-- Where a slot's result lands (R215, R218). Engines are numbered over the module; `mark` is the poison mark it leaves, for B registers and
scale parts with the policy it carries: 0 none, 1 halt, 2 propagate (R198, R522). -/
inductive Dest where
  /-- `n` bytes from byte `off` of the B registers -/
  | breg (e off n mark : Nat)
  /-- the low `width` bits of the metadata shadow of B register `i` -/
  | shadow (e i width : Nat)
  | scale (e part mark : Nat)
  /-- block products added into an accumulator row, into -0 where `clear` (R132) -/
  | acc (e r : Nat) (clear : Bool) (prods : List FV) (mark : Bool)
  /-- lanes 0 to n - 1 of an accumulator row -/
  | row (e r n : Nat) (mark : Bool)
  /-- `n` pieces of `w` bytes of the engine buffer, from byte `a`, `step` apart -/
  | ebuf (e a w step n : Nat) (mark : Bool)
  /-- 32-bit elements at bytes of the engine buffer -/
  | elems (e : Nat) (at' : List Nat) (mark : Bool)
  | sreg (i : Nat)
  | preg (i : Nat)
  | bc (e i : Nat)
  | sres (e : Nat)
  | maskReg (e : Nat)
  deriving DecidableEq, Repr

/-- A result in flight: the core cycle in which it lands, and its value (lanes little-endian). -/
structure Land where
  at' : Nat
  dest : Dest
  val : Nat
  deriving DecidableEq, Repr

/-- A packet in assembly (R251). -/
structure Packet where
  dst : Nat
  desc : BitVec 512
  words : List (List Word)
  marks : List Bool
  /-- by engine, whether it is the last packet of its tensor (R155) -/
  tails : List Bool := []
  deriving DecidableEq, Repr

/-- The causes of a hold (R222). -/
inductive HoldCause where
  | late | depend | arrival
  deriving DecidableEq, Repr

/-- A hold: its cause and the entries it waits for (8 × core + queue, entry). -/
structure Hold where
  cause : HoldCause
  ents : List (Nat × Nat)
  deriving DecidableEq, Repr

/-- The scalar processor's states (R224, R294, R329). -/
inductive ScSt where
  | stopped | running | waiting | lapWait
  deriving DecidableEq, Repr

/-- One core (R208 to R237). Its p registers, persistent slots, sync objects, halt and break registers and counts are the
registers of its block. -/
structure CoreSt where
  s : Tab W32 := []
  spc : Nat := 0
  sst : ScSt := .stopped
  swait : Option Wait := none
  xst : StreamSt := .stopped
  xpc : Nat := 0
  xloops : List Loop := []
  xwait : Option Wait := none
  xdef : List DefSig := []
  /-- execute words issued since START (R236) -/
  xcount : Nat := 0
  /-- delay words left and target of a taken legacy branch (R233) -/
  legacy : Option (Nat × Nat) := none
  ast : StreamSt := .stopped
  apc : Nat := 0
  aloops : List Loop := []
  await : Option Wait := none
  adef : List DefSig := []
  acount : Nat := 0
  armed : List Armed := []
  dmas : List DmaWord := []
  wordId : Nat := 0
  /-- IQ0 to IQ3, OQ0, OQ1, head first -/
  q : Tab (List QEnt) := []
  entId : Nat := 0
  /-- mask tiles of the gate input and the cycle from which they are seen -/
  gate : List (Tile × Nat) := []
  pk : Tab (Option Packet) := []
  lands : List Land := []
  /-- recorded barrier generations (R302) -/
  gens : Tab (Option Nat) := []
  hold : Option Hold := none
  gearHold : Bool := false
  imgHold : Bool := false
  haltReq : Bool := false
  stepping : Bool := false
  /-- translation cache: virtual page to entry (R39) -/
  tlb : Tab (Option W64) := []
  lapDone : Bool := false
  /-- its LAP was issued between a boundary and its release, so that it waits for the next (R329) -/
  lapLate : Bool := false
  /-- destination of the LAP that waits (R329) -/
  lapD : Nat := 0
  /-- base of the 32 KiB staging area (R201) -/
  staging : Option Nat := none
  /-- cycles from which the tensor and vector units may start again (R149, R217) -/
  tFree : Nat := 0
  vFree : Nat := 0
  /-- cycle in which every result issued so far can be read (R297) -/
  resAt : Nat := 0
  /-- the word at which the execute or the access stream broke issues without a further break (R236) -/
  passX : Bool := false
  passA : Bool := false
  /-- scalar instructions that have run: two of them never share a cycle (R225, R226) -/
  sub : Nat := 0
  /-- last write of each p register: cycle, `sub` then, priority, and the value before that cycle (R226) -/
  pLast : Tab (Nat × Nat × Nat × W32) := []
  /-- cycle and `sub` of the last S-slot write of each s register (R225) -/
  sLast : Tab (Option (Nat × Nat)) := []
  /-- the last scalar store to the descriptor table: cycle, `sub` then, address and the word before (R188) -/
  sold : Option (Nat × Nat × Nat × W32) := none
  /-- cycle and stream of the fault that is recorded (R234) -/
  faultIn : Option (Nat × Nat) := none
  /-- requests of the near port behind one that has been refused credit, and whether one has (R278) -/
  port : List PortReq := []
  portWait : Bool := false
  /-- the access word whose store has been refused credit -/
  portHead : Option Nat := none
  /-- requests that the near port has passed in the present arithmetic cycle -/
  passed : Nat := 0
  /-- a fault has stopped the streams (R235) -/
  faulted : Bool := false
  deriving DecidableEq, Repr

/-- The latched tensor configuration (R252): descriptors of weights and activations, token count, activation base, the handle of the activations. -/
structure TCfg where
  b : BitVec 512
  a : BitVec 512
  tok : Nat
  abase : Nat
  ah : Nat
  deriving DecidableEq, Repr

/-- One spoke engine (R123, R248). Marks are poison marks (R116, R522). -/
structure Eng where
  b : Tab (Word × BitVec 192) := []
  bMark : Tab Nat := []
  scale : Tab Byte := []
  scaleMark : Tab Nat := []
  tcfg : Option TCfg := none
  w0 : Nat := 0
  w1 : Nat := 0
  bc : Tab W32 := []
  sres : W32 := 0
  maskReg : Tile := 0
  stage : List Byte := []
  stageMark : Bool := false
  acc : Tab W32 := []
  accMark : Tab Bool := []
  crc : W32 := 0xFFFFFFFF
  gens : Tab W32 := []
  deriving DecidableEq, Repr

/-! ## DMA channels (R282 to R288) -/

/-- A batch: issuing core, its access word, entries, latched descriptors (handle, descriptor) and per-entry progress:
blocks written, chunks signalled, remote signal sent. -/
structure Batch where
  core : Nat
  word : Nat
  entries : List (BitVec 128)
  descs : List (Nat × BitVec 512)
  done : List (List Nat)
  chunks : List Nat
  /-- blocks of each fabric entry whose requests have been sent (R361) -/
  sent : List (List Nat)
  /-- SIGNAL of each PUT_SIG entry: 0 not sent, 1 sent, 2 answered -/
  sigs : List Nat
  /-- source bytes and marks of an entry as they stood at its start, where the copy reads them later (R203, R205, R206) -/
  olds : Tab (List (Byte × Bool)) := []
  /-- where the free choices of R206 start -/
  mix : Nat := 0
  /-- source bytes that have arrived from host memory: entry, block, offset, bytes -/
  got : List (Nat × Nat × Nat × List Byte)
  /-- poisoned words counted (R116) -/
  poisoned : Nat
  /-- the block at which the batch will stop once every access before it is complete, and whether its entry is refused at its start (R197) -/
  fails : Option (Nat × Nat × Bool) := none
  deriving DecidableEq, Repr

/-- One DMA channel. -/
structure Chan where
  run : Option Batch := none
  /-- batches handed and not yet accepted: core, access word, length, core-SRAM offset -/
  next : List (Nat × Nat × Nat × Nat) := []
  /-- entries started (R284) -/
  started : Nat := 0
  /-- the restart point of R288: entry and block -/
  restart : Option (Nat × Nat) := none
  /-- poisoned words that the last completed batch counted (R116) -/
  poisoned : Nat := 0
  tlb : Tab (Option W64) := []
  deriving DecidableEq, Repr

/-! ## Barriers (R301 to R306) -/

/-- What a barrier holds beside its registers: child nodes recorded for this generation and the next, held messages. -/
structure BarSt where
  kids : List Nat := []
  nextKids : List Nat := []
  held : List (Bool × Nat × Nat) := []
  deriving DecidableEq, Repr

/-! ## Command windows (R386 to R396) -/

/-- A completion that waits for its entry (R393). -/
structure Cpl where
  cid : Nat
  status : Nat
  detail : Nat
  kind : Nat
  lap : Nat
  stamp : Nat
  deriving DecidableEq, Repr

/-- A submission entry fetched (R387): its 64 bytes, the number of the doorbell that announced it, and the address at which the map refused its read. -/
structure SqFetched where
  entry : BitVec 512
  bell : Nat := 0
  refused : Option Nat := none
  deriving DecidableEq, Repr

/-- One command window: entries fetched and not yet run, the running entry, completions not yet written. Its indices are registers. -/
structure Win where
  sq : List SqFetched := []
  run : Option (BitVec 512) := none
  done : List Cpl := []
  /-- entries announced and still to be fetched, each as the number of its doorbell (R387) -/
  due : List Nat := []
  /-- EN was written 0 while a command runs (R402) -/
  closing : Bool := false
  deriving DecidableEq, Repr

/-! ## The image context (R317 to R339) -/

/-- A queued patch (R332). -/
structure Patch where
  core : Nat
  p : Nat
  value : W32
  lap : Nat
  deriving DecidableEq, Repr

/-- What the quiesced cores wait for (R333, R335). -/
inductive Quiesce where
  | snap (slot : Nat) (w : Option Nat) (thenStop : Bool) (stopW : List Nat)
  | stop (ws : List Nat) (status : Nat)
  deriving DecidableEq, Repr

/-- A collective window in progress (R365): the fields latched at GO and the results still to come. -/
structure Coll where
  word : BitVec 512
  /-- result blocks not yet written -/
  results : List Nat
  /-- the window has failed a check and stands still (R367) -/
  stopped : Bool
  deriving DecidableEq, Repr

/-! ## The derailleur (R172 to R186) -/

/-- A record (R173), with its poison mark in bit 128 (R116). -/
abbrev DRec := BitVec 129

/-- A local expert of one epoch: records in arrival order, rounds, rounds whose index buffers are written, consume signals received. -/
structure DrlExp where
  recs : List DRec := []
  total : Nat := 0
  rounds : Nat := 0
  consumed : Nat := 0
  deriving DecidableEq, Repr

/-- A source of an epoch: end marker's count and records received. -/
structure DrlSrc where
  marker : Option Nat := none
  got : Nat := 0
  deriving DecidableEq, Repr

/-- One epoch, held under its parity. -/
structure DrlEpoch where
  closed : Bool := false
  exps : Tab DrlExp := []
  srcs : Tab DrlSrc := []
  count : Nat := 0
  full : Bool := false
  /-- records sent to each node, and whether the end markers have been sent (R183) -/
  sent : Tab Nat := []
  marked : Bool := false
  deriving DecidableEq, Repr

/-- The derailleur: records queued for intake (source, record), at most a tile or flit of each source; epochs by parity; records held for a node. -/
structure DrlSt where
  queue : List (Nat × DRec) := []
  epochs : Tab DrlEpoch := []
  held : Tab (List DRec) := []
  deriving DecidableEq, Repr

/-- A snapshot (R336). -/
structure Snap where
  digest : Nat
  lap : Nat
  csr : Tab W64
  sram : Memory
  marks : Tab Bool
  cores : Tab CoreSt
  engs : Tab Eng
  bars : Tab BarSt
  drl : DrlSt
  deriving DecidableEq, Repr

/-- The image context. -/
structure ImgSt where
  conf : Option ImgConf := none
  patches : List Patch := []
  snaps : Tab (Option Snap) := []
  /-- windows whose STOP, and the window and slot whose SNAPSHOT, wait for a boundary -/
  stopW : List Nat := []
  snapW : Option (Nat × Nat × Bool) := none
  /-- waiting STOPs accepted before the waiting SNAPSHOT (R333, R335) -/
  snapAt : Nat := 0
  /-- a LOAD_IMAGE in progress: window, host address, length -/
  load : Option (Nat × Nat × Nat) := none
  quiesce : Option Quiesce := none
  lapWin : Option Nat := none
  /-- housekeeping time of the last boundary, cycles of ended holds since then that R331 excludes, and when the present gear hold or snapshot hold
  began -/
  lapStart : Nat := 0
  excluded : Nat := 0
  holdFrom : Option Nat := none
  /-- step 7 of R330 waits for the CQ or a result buffer -/
  relWait : Bool := false
  /-- a hot array die has asked for the stop of a cool-only image (R327) -/
  hotStop : Bool := false
  /-- held result buffers: buffer and CQ index of its entry (R396) -/
  bufs : List (Nat × Nat) := []
  /-- windows whose SET_GEAR_CAP waits (R433) -/
  gearW : List Nat := []
  deriving DecidableEq, Repr

/-! ## The host port (R376 to R401) -/

/-- A committed HDM decoder. -/
structure Hdm where
  dec : HdmDecoder
  dpaBase : Nat
  deriving DecidableEq, Repr

/-- A CXL.io read or write: its data where it writes. -/
structure IoReq where
  id : Nat
  addr : Nat
  n : Nat
  write : Bool
  data : List Byte
  dest : IoDest
  poison : Bool := false
  deriving DecidableEq, Repr

/-- A cached translation (R286). -/
structure AtcEnt where
  page : Nat
  phys : Nat
  read : Bool
  write : Bool
  /-- pages of 4 KiB that it spans: a power of two, up to 1 GiB -/
  span : Nat := 1
  deriving DecidableEq, Repr

/-- The state of an IDE stream: 0 insecure (off), 1 keyed and Secure. -/
structure HostSt where
  hdm : Tab (Option Hdm) := []
  /-- Error Not Committed of each decoder (R379) -/
  hdmErr : Tab Bool := []
  /-- the host link is up, and whether it has trained with CXL: without it the function is a PCIe endpoint and CXL.mem is not there (R378) -/
  link : Bool := false
  cxl : Bool := true
  /-- RAS Uncorrectable Error Status, Internal Error; AER uncorrectable, IDE Check Failed (R376, R400) -/
  rasInternal : Bool := false
  aerIde : Bool := false
  ideIo : Bool := false
  ideMem : Bool := false
  keyIo : BitVec 256 := 0
  keyMem : BitVec 256 := 0
  /-- function 0 is in D3hot -/
  d3hot : Bool := false
  /-- records cleared and poison sources: 0 internal, 1 scrub, 2 injected, by address -/
  sources : List (Nat × Nat) := []
  /-- ATS is enabled by the host (R286) -/
  ats : Bool := true
  /-- the address translation cache, oldest first -/
  atc : List AtcEnt := []
  /-- CXL.io requests in flight, and those that wait for a translation or a page -/
  io : List IoReq := []
  ioWait : List IoReq := []
  /-- pages asked for by a translation request, and by a page request -/
  asked : List Nat := []
  paging : List Nat := []
  /-- the outstanding page requests that the host grants (R286) -/
  prg : Nat := 512
  /-- invalidations not yet completed: first page and pages -/
  inv : List (Nat × Nat) := []
  deriving DecidableEq, Repr

/-- The MSI-X capability, table and pending-bit array (R376, R378). No command of the table reaches configuration space or BAR2: function and vectors
stand as a host driver leaves them, enabled and not masked (DESIGN CHOICE, log 13). -/
structure Msix where
  enabled : Bool := true
  funcMask : Bool := false
  masked : List Nat := []
  pending : List Nat := []
  deriving DecidableEq, Repr

/-! ## Start, reset and kickstand (R454 to R471) -/

/-- Where the module stands in its starts. -/
inductive Phase where
  /-- no input power, or before a cold start -/
  | off
  /-- power-off sequence done, the 5 s of R451 not over -/
  | heldOff
  /-- three trips in an hour: off until the input has been removed -/
  | locked
  | recovery
  | unreleased
  /-- start-up done but for step 12 or W8 -/
  | linkWait
  | released
  deriving DecidableEq, Repr

/-- Why an erase runs (R417, R418, R422, R464). -/
inductive EraseWhy where
  | command (w : Nat) (verify : Bool)
  | owner (rec : OwnerRec)
  | debug (level : Nat)
  | cxlReset
  deriving DecidableEq, Repr

/-- A gear change in progress: whether the PLL has relocked, its target once relock has begun. -/
structure GearSt where
  locked : Bool
  target : Nat
  old : Nat
  deriving DecidableEq, Repr

/-- An access to a register as it waits for the root PLL (R496). -/
inductive RegAccess where
  | write (off size v : Nat)
  | testOpen (t : Fin 8) (v : Bool)
  | fzForce (t : Fin 8)
  | scrubNow (t : Fin 8)
  | portEnable (p : Fin 8) (v : Bool)
  | retrain (p : Fin 8)
  | doorbell (w tail : Nat)
  /-- by the sideband (4) or the test connector (5) -/
  | debug (path : Nat) (a : DebugAccess)
  deriving DecidableEq, Repr

structure ModeSt where
  phase : Phase := .off
  perst : Bool := false
  linkDisabled : Bool := false
  gear : Option GearSt := none
  /-- root periods since the last PLL lock (R52) -/
  frame : Nat := 0
  /-- vertical interface training has ended (R89) -/
  trained : Bool := false
  /-- columns whose verification zone after a clock restart has not ended (R90) -/
  verify : List Nat := []
  erase : Option EraseWhy := none
  /-- the root die's copy of the kickstand record (R470) -/
  kick : List Byte := []
  boot : Nat := 0
  /-- a freewheel request that waits for a gear change (R436) -/
  freeWaits : Bool := false
  /-- write of the power cap that the next 1 ms measurement takes up (R428) -/
  cap : Nat := 650
  capBelow : Nat := 0
  capDown : Option Nat := none
  capChange : Option Nat := none
  unmetAt : Option Nat := none
  /-- register accesses that wait for the root PLL, in their order (R495, R496) -/
  regHeld : List RegAccess := []
  deriving DecidableEq, Repr

/-- A record of the trip log (R450). -/
structure TripRec where
  seq : Nat
  bytes : List Byte
  deriving DecidableEq, Repr

/-- Thermal state (R441 to R448): engaged thresholds of each die (bit 0 WARN to bit 3 TRIP), samples of the fast round newest first,
the sensor that engaged BRAKE, times of the last rate downshift and inlet report. -/
structure ThermSt where
  engaged : Tab Nat := []
  fast : Tab (List Int) := []
  brakeBy : Tab Nat := []
  rateAt : Option Nat := none
  inletAt : Option Nat := none
  deriving DecidableEq, Repr

/-! ## Trust (R403 to R423) and flash -/

/-- Fuses: counters that only rise, and the variant (R403). -/
structure Fuses where
  svn : Nat := 0
  epoch : Nat := 0
  variantS : Bool := false
  deriving DecidableEq, Repr

/-- The erase record (R420). -/
structure EraseRec where
  seq : Nat := 0
  kind : Nat := 0
  complete : Bool := false
  clean : Bool := false
  boot : Nat := 0
  deriving DecidableEq, Repr

/-- Bruros. -/
structure TrustSt where
  /-- challenges that stand, oldest first (R416) -/
  challenge : List Nat := []
  /-- the opcode that GO started (R419) -/
  op : Nat := 0
  /-- the starts so far, which number the attestation keys (R408) -/
  ak : Nat := 0
  /-- CDI of this start, the seed of its attestation key pair (R408), and the CLAIM of that key's certificate (R412) -/
  cdi : Nat := 0
  akSeed : Nat := 0
  claim : Nat := 0
  unlocks : List (Nat × Nat) := []
  erase : EraseRec := {}
  sel : Option OwnerRec := none
  deriving DecidableEq, Repr

/-- What flash holds: the two firmware slots, BOOT_PREF (true for B), the two copies of the owner record with their TAG, RSV_NEXT, the patch stores of the towers,
the trip log and the highest SEQ posted. -/
structure FlashSt where
  slotA : Memory := shippedFirmware
  slotB : Memory := []
  bootPref : Option Bool := none
  owner0 : Option (OwnerRec × Nat) := none
  owner1 : Option (OwnerRec × Nat) := none
  rsv : Nat := 4
  patches : Tab W64 := []
  trips : List TripRec := []
  posted : Nat := 0
  deriving DecidableEq, Repr

/-! ## The fabric (R340 to R375) -/

/-- One port: the next sequence number to send and to receive, retry buffer, output queues and credits by virtual channel, flits held for their tag, tag failures of the
present group, flits sent under the key and full flits in the open group, handshakes ended, the neighbour's KEY_ID, cage power. -/
structure Port where
  seq : Nat := 0
  got : Nat := 0
  retry : List (Nat × Flit) := []
  q : Tab (List Flit) := []
  used : Tab Nat := []
  rx : List Flit := []
  rxFail : Nat := 0
  sent : Nat := 0
  grp : Nat := 0
  keys : Nat := 0
  peer : Option Nat := none
  /-- the key of each direction, and whether this side encapsulated (R369) -/
  txKey : Nat := 0
  rxKey : Nat := 0
  encap : Bool := false
  /-- flits of the open group, oldest first (R370) -/
  open' : List Flit := []
  /-- the session keys stand: a retrain after a degrade needs no handshake (R344) -/
  auth : Bool := false
  cageOff : Bool := false
  /-- lanes left out since the last full training -/
  lanesOut : Nat := 0
  /-- the flit that the neighbour NAKs and how many times in a row (R344) -/
  naks : Nat × Nat := (0, 0)
  deriving DecidableEq, Repr

/-- What a transaction of the endpoint is for: a block of a DMA entry (channel, issuing core, its access word), its SIGNAL, or derailleur records. -/
inductive Txn where
  /-- `n` bytes from byte `off` of a block asked for -/
  | get (chan core word ent block off n : Nat)
  | put (chan core word ent block : Nat)
  | sig (chan core word ent : Nat)
  | drl (node : Nat) (recs : List DRec)
  deriving DecidableEq, Repr

/-- Enumeration on this module (R351, R521). -/
structure EnumSt where
  /-- the window whose FABRIC_ENUM runs; none for a cold start -/
  cmd : Option Nat := none
  origin : Bool := false
  /-- axes whose token this module sent and awaits -/
  tokens : List Nat := []
  /-- ORIGIN_ID of the token that gave the coordinates (R352) -/
  took : Option Nat := none
  reports : List (Nat × Nat × Nat) := []
  deriving DecidableEq, Repr

/-- The endpoint and the ports. -/
structure FabSt where
  ports : Tab Port := []
  /-- flits delivered here, oldest first, with the port they came by (8 for this node's own) -/
  inbox : List (Nat × Flit) := []
  txns : Tab (Option Txn) := []
  nextTx : Nat := 0
  enum : EnumSt := {}
  colls : Tab (Option Coll) := []
  /-- remote increments and barrier messages held during a snapshot (R314) -/
  held : List (Nat × Flit) := []
  /-- flits that wait at their port while the root PLL is unlocked (R435): port, flit, and whether its CRC is good -/
  arrived : List (Nat × Flit × Bool) := []
  deriving DecidableEq, Repr

/-! ## The test connector (R491) -/

/-- Instruction selected, bypass bit, boundary register. -/
structure JtagSt where
  ir : Nat := 0
  bypass : Bool := false
  bsr : BitVec 17 := 0
  pins : BitVec 17 := 0
  deriving DecidableEq, Repr

/-! ## Events (R501 to R505) -/

/-- An event record (R502) before it has a PHASE. -/
structure Ev where
  code : Nat
  sev : Nat
  skind : Nat
  sindex : Nat
  count : Nat
  stamp : Nat
  arg0 : Nat
  arg1 : Nat
  deriving DecidableEq, Repr

/-- The four CXL event logs and the coalescing windows (R398, R504). -/
structure EvtSt where
  logs : List (List Ev) := [[], [], [], []]
  wins : List Ev := []
  /-- the records that the queue got in this housekeeping cycle, oldest slot first (R503) -/
  now : List Ev := []
  deriving DecidableEq, Repr

/-! ## Messages to the outside -/

/-- What the module sends: answers, requests and interrupts. -/
inductive Msg where
  /-- MemData of a host read (R380) -/
  | memData (tag : Nat) (data : Line) (poison : Bool)
  /-- Cmp of a host write (R380) -/
  | memCmp (tag : Nat)
  /-- BISnpInv (true) or BISnpData of a line (R382) -/
  | biSnp (inv : Bool) (line : Nat)
  /-- CXL.io reads and writes of host memory (R286) -/
  | ioRead (id addr n : Nat)
  | ioWrite (id addr : Nat) (data : List Byte) (poison : Bool)
  | atsRequest (page : Nat) (write : Bool)
  | pageRequest (page : Nat) (write : Bool)
  | atsInvDone (page : Nat)
  /-- an MSI-X vector (R399) -/
  | msix (v : Nat)
  /-- a flit sent on a port (R343) -/
  | flit (port : Nat) (f : Flit)
  /-- what trailers carry back on a port: an acknowledgement or NAK of a sequence number, credits of a channel (R349) -/
  | ack (port seq : Nat) (nak : Bool)
  | credit (port vc n : Nat)
  /-- a LINK flit of the handshake, a tag, a sequence exchange (R369, R370, R466) -/
  | link (port what arg : Nat)
  /-- an error reported to the host (R400): 0 AER IDE check failed, 1 RAS -/
  | err (kind arg : Nat)
  /-- the answer to a mailbox command (R398): return code and payload -/
  | mailbox (code : Nat) (data : List Byte)
  /-- an answer of the trust mailbox, SPDM, PLDM, sideband or test connector -/
  | reply (what code : Nat) (data : List Byte)
  deriving DecidableEq, Repr

/-! ## Host coherence (R379 to R384) -/

/-- A tracked line (DPA / 64): true for state A, false for S (R382). -/
structure FiltEnt where
  line : Nat
  excl : Bool
  deriving DecidableEq, Repr

/-- A back-invalidation that awaits its BIRsp, with the requests it holds. -/
structure Snoop where
  line : Nat
  inv : Bool
  held : List ColReq
  /-- the host has taken the line again since the snoop was issued (R383) -/
  again : Bool := false
  deriving DecidableEq, Repr

/-- The host-cached filter: sets of 16, oldest first, and the eviction buffer (R382, R383). -/
structure FiltSt where
  sets : Tab (List FiltEnt) := []
  evict : List Nat := []
  snoops : List Snoop := []
  deriving DecidableEq, Repr

/-- A host CXL.mem request that waits to be decoded. -/
structure HostReq where
  write : Bool
  hpa : Nat
  tag : Nat
  mv : MetaValue
  data : Line
  poison : Bool
  /-- a parity check that fails on its way to the column (R120) -/
  par : Option XbarFault
  deriving DecidableEq, Repr

/-- A host line read in progress: its two words as they arrive. -/
structure LineRead where
  tag : Nat
  lo : Option (Word × Bool)
  hi : Option (Word × Bool)
  deriving DecidableEq, Repr

/-! ## The module -/

/-- The module: everything but the queue of commands. -/
structure Hw where
  /-- BAR0 registers by offset, each reading as its Reset value where not listed (R10) -/
  csr : Tab W64 := []
  /-- latched copies of the counter registers (R480) -/
  lat : Tab W64 := []
  /-- bits that the module has set in this housekeeping cycle: offset and place (R9) -/
  setNow : List (Nat × Nat) := []
  /-- the arrays: data, inner check bytes and outer check bytes of every row (R14, R99) -/
  dram : Memory := []
  /-- the SRAMs of R18 in one address space (Ops.lean gives the bases) -/
  sram : Memory := []
  /-- poison marks of 32-byte SRAM words (R115, R119) -/
  marks : Tab Bool := []
  cols : Tab Col := []
  towers : Tab Tower := []
  cores : Tab CoreSt := []
  engs : Tab Eng := []
  chans : Tab Chan := []
  bars : Tab BarSt := []
  filt : FiltSt := {}
  /-- host requests not yet decoded (R41, R383, R496) -/
  hostHeld : List HostReq := []
  lines : List LineRead := []
  /-- poison list (R118), and its overflow flag -/
  poison : List Nat := []
  poisonOver : Bool := false
  evt : EvtSt := {}
  wins : Tab Win := []
  /-- doorbells of all windows so far: their order across windows (R387) -/
  bells : Nat := 0
  img : ImgSt := {}
  host : HostSt := {}
  msix : Msix := {}
  mode : ModeSt := {}
  therm : ThermSt := {}
  fuses : Fuses := {}
  trust : TrustSt := {}
  flash : FlashSt := {}
  fab : FabSt := {}
  drl : DrlSt := {}
  jtag : JtagSt := {}
  /-- messages to the outside, newest first -/
  out : List Msg := []
  /-- the model's counter for free values -/
  fresh : Nat := 0
  /-- the model's numbering of requests in arrival order -/
  ids : Nat := 0
  deriving DecidableEq, Repr

/-- A stop of the model. -/
inductive Fault where
  /-- the command's operands are none of the table's (WellFormed refuses it); safe: nothing can be proved of it -/
  | malformed
  deriving DecidableEq, Repr

/-- A refusal of the model. -/
inductive Refusal where
  /-- the command has no meaning yet; safe -/
  | notModelled (mnemonic : String)
  deriving DecidableEq, Repr

/-- The machine: the commands that wait, first in, first out, and the module. -/
structure State where
  pending : List Instr := []
  hw : Hw := {}
  deriving DecidableEq, Repr

/-- Right after reset: no command waits; every register holds its Reset value; nothing else has happened (log 2). -/
def State.reset : State := {}

end Sys2Proof.Machine
end

