-- ==== Sys2Proof/Machine/Ops.lean ====
section
/-!
DEFINITION. The named operations on registers, SRAM, units of the module, messages and events.
-/
namespace Sys2Proof.Machine

/-! ## Registers -/

/-- The 64 bits of the register at `off`. -/
def Hw.word (h : Hw) (off : Nat) : W64 := tget Bar0.resetWord h.csr off

/-- The register at `off` written whole. -/
def Hw.setWord (h : Hw) (off : Nat) (v : W64) : Hw := { h with csr := tset Bar0.resetWord h.csr off v }

/-- The value of a field. -/
def Hw.get (h : Hw) (l : Loc) : Nat := bitsOf (h.word l.off).toNat l.lo l.width

/-- A field written. -/
def Hw.put (h : Hw) (l : Loc) (v : Nat) : Hw := h.setWord l.off (setBits (h.word l.off) l.lo l.width v)

/-- A one-bit field as a truth value. -/
def Hw.flag (h : Hw) (l : Loc) : Bool := h.get l == 1

/-- Fields written in order. -/
def Hw.puts (h : Hw) : List (Loc × Nat) → Hw
  | [] => h
  | (l, v) :: t => (h.put l v).puts t

/-- A live count plus `n`, saturating at its field (R479). -/
def Hw.count (h : Hw) (l : Loc) (n : Nat) : Hw := h.put l (satAdd l.width (h.get l) n)

/-- Bit `i` of a W1C or W1S field set by an event: it stands against a write of the same housekeeping cycle (R9). -/
def Hw.markBit (h : Hw) (l : Loc) (i : Nat) : Hw := { h.put l (h.get l ||| 2 ^ i) with setNow := (l.off, l.lo + i) :: h.setNow }

/-- A one-bit W1C or W1S field set by an event. -/
def Hw.mark (h : Hw) (l : Loc) : Hw := h.markBit l 0

/-- Every field of a register to its Reset value. -/
def Hw.resetReg (h : Hw) (off : Nat) : Hw := h.setWord off (Bar0.resetWord off)

/-- The housekeeping time stamp (R487). -/
def Hw.time (h : Hw) : Nat := h.get TEL_TIME.TIME

/-! ## Units -/

def Hw.col (h : Hw) (c : Nat) : Col := tget (fun _ => {}) h.cols c
def Hw.setCol (h : Hw) (c : Nat) (v : Col) : Hw := { h with cols := tset (fun _ => {}) h.cols c v }
def Hw.modCol (h : Hw) (c : Nat) (f : Col → Col) : Hw := h.setCol c (f (h.col c))

def Hw.tower (h : Hw) (t : Nat) : Tower := tget (fun _ => {}) h.towers t
def Hw.modTower (h : Hw) (t : Nat) (f : Tower → Tower) : Hw :=
  { h with towers := tset (fun _ => {}) h.towers t (f (h.tower t)) }

def Hw.core (h : Hw) (c : Nat) : CoreSt := tget (fun _ => {}) h.cores c
def Hw.setCore (h : Hw) (c : Nat) (v : CoreSt) : Hw := { h with cores := tset (fun _ => {}) h.cores c v }
def Hw.modCore (h : Hw) (c : Nat) (f : CoreSt → CoreSt) : Hw := h.setCore c (f (h.core c))

def Hw.eng (h : Hw) (e : Nat) : Eng := tget (fun _ => {}) h.engs e
def Hw.setEng (h : Hw) (e : Nat) (v : Eng) : Hw := { h with engs := tset (fun _ => {}) h.engs e v }
def Hw.modEng (h : Hw) (e : Nat) (f : Eng → Eng) : Hw := h.setEng e (f (h.eng e))

def Hw.chan (h : Hw) (k : Nat) : Chan := tget (fun _ => {}) h.chans k
def Hw.modChan (h : Hw) (k : Nat) (f : Chan → Chan) : Hw :=
  { h with chans := tset (fun _ => {}) h.chans k (f (h.chan k)) }

def Hw.bar (h : Hw) (b : Nat) : BarSt := tget (fun _ => {}) h.bars b
def Hw.modBar (h : Hw) (b : Nat) (f : BarSt → BarSt) : Hw :=
  { h with bars := tset (fun _ => {}) h.bars b (f (h.bar b)) }

/-- The next value of the model's numbering, and the module after taking it. -/
def Hw.nextId (h : Hw) : Nat × Hw := (h.ids, { h with ids := h.ids + 1 })

/-- A value the spec leaves open (Config.freeValue), and the module after taking it. -/
def Hw.free (h : Hw) : Nat × Hw := (Config.freeValue h.fresh, { h with fresh := h.fresh + 1 })

/-! ## SRAM (R18): one address space, in which each SRAM has a base -/

def sramEng (e : Nat) : Nat := e * 0x30000
def sramCore (c : Nat) : Nat := 0x10000000 + c * 0x100000
def sramCluster (k : Nat) : Nat := 0x20000000 + k * 0x1000000
def sramHub : Nat := 0x40000000
def sramImem (c : Nat) : Nat := 0x50000000 + c * 0x20000
def sramScalar (c : Nat) : Nat := 0x51000000 + c * 0x10000
/-- The end of the SRAM address space. -/
def sramEnd : Nat := 0x52000000

/-- `n` bytes of SRAM, little-endian. -/
def Hw.sread (h : Hw) (a n : Nat) : Nat := Memory.readLE h.sram a n

/-- Whether an SRAM word that holds byte `a` is marked poisoned. -/
def Hw.smark (h : Hw) (a : Nat) : Bool := tget (fun _ => false) h.marks (a / 32)

/-- The mark of the SRAM word that holds byte `a`. -/
def Hw.setMark (h : Hw) (a : Nat) (m : Bool) : Hw := { h with marks := tset (fun _ => false) h.marks (a / 32) m }

/-- `n` bytes written to SRAM. A clean write of a whole word clears its mark; a narrow write keeps it. -/
def Hw.swrite (h : Hw) (a n v : Nat) : Hw :=
  let h := { h with sram := Memory.writeLE h.sram a n v }
  if a % 32 = 0 ∧ n = 32 then h.setMark a false else h

/-- A word written to SRAM under a byte mask, with a poison mark (R115, R116). -/
def Hw.swriteWord (h : Hw) (a : Nat) (mask : BitVec 32) (v : Word) (poison : Bool) : Hw :=
  let h := { h with sram := Memory.writeMasked h.sram a 32 mask.toNat v.toNat }
  if poison then h.setMark a true else if mask = 0xFFFFFFFF#32 then h.setMark a false else h

/-- Bytes written to SRAM across words, with a mark. -/
def Hw.sput (h : Hw) (a n v : Nat) (mark : Bool) : Hw :=
  foldUp ((a % 32 + n + 31) / 32) (fun i h =>
    let w := a / 32 * 32 + 32 * i
    let lo := max a w
    let hi := min (a + n) (w + 32)
    h.swriteWord w (BitVec.ofNat 32 ((2 ^ (hi - lo) - 1) * 2 ^ (lo - w))) (BitVec.ofNat 256 (bitsOf v ((lo - a) * 8) ((hi - lo) * 8) <<< ((lo - w) * 8))) mark) h

/-! ## Messages and interrupts -/

/-- A message to the outside. -/
def Hw.send (h : Hw) (m : Msg) : Hw := { h with out := m :: h.out }

/-- A vector is sent: MSI-X is enabled, and neither the function nor the vector is masked. -/
def Msix.sends (m : Msix) (v : Nat) : Bool := m.enabled && !m.funcMask && !m.masked.contains v

/-- An MSI-X vector raised (R399): its message is sent, or its pending bit stands (R376). -/
def Hw.raise (h : Hw) (v : Nat) : Hw :=
  { h with out := if h.msix.sends v then .msix v :: h.out else h.out,
           msix := if h.msix.sends v ∨ h.msix.pending.contains v then h.msix else { h.msix with pending := h.msix.pending ++ [v] } }

/-! ## Events (R501 to R505) -/

/-- A record's 32 bytes as four words, with its PHASE (R502). -/
def Ev.words (e : Ev) (phase : Nat) : List Nat :=
  [e.code + e.sev * 2 ^ 12 + phase * 2 ^ 15 + e.skind * 2 ^ 16 + e.sindex * 2 ^ 20 + e.count * 2 ^ 32, e.stamp, e.arg0, e.arg1]

/-- Records the host has not consumed. -/
def Hw.evtUsed (h : Hw) : Nat := (h.get EVT_TAIL.TAIL + 1024 - h.get EVT_HEAD.HEAD) % 1024

/-- A record behind those of its code and of lower codes. -/
def evPlace (e : Ev) : List Ev → List Ev
  | [] => [e]
  | x :: l => if e.code < x.code then e :: x :: l else x :: evPlace e l

/-- A record in slot `n` of the queue: bytes 8 to 31 before bytes 0 to 7 (R503). -/
def Hw.evSlot (h : Hw) (n phase : Nat) (e : Ev) : Hw :=
  foldUp 4 (fun i h => h.setWord (EVT_REC.off (4 * n + (3 - i))) (BitVec.ofNat 64 ((e.words phase).getD (3 - i) 0))) h

/-- A record in its CXL log (R398), whose status raises vector 17 where the log was empty (R399). -/
def Hw.evLog (h : Hw) (e : Ev) : Hw :=
  let was := h.evt.logs.getD e.sev []
  let h := { h with evt := { h.evt with logs := h.evt.logs.modify e.sev (· ++ [e]) } }
  if was.isEmpty then h.raise 17 else h

/-- A record written: to its CXL log, and to the queue where there is room (R398, R503, R504). Records that the queue gets in one housekeeping cycle
stand in order of code: those of the cycle that the host has not consumed are written again behind it, each with the PHASE of its slot's pass. -/
def Hw.evWrite (h : Hw) (e : Ev) : Hw :=
  let h := h.evLog e
  if h.evtUsed ≥ 1023 then
    let h := if ¬ h.flag EVT_STAT.OVF ∧ h.flag EVT_CTRL.IEN then h.raise 0 else h
    (h.mark EVT_STAT.OVF).count EVT_STAT.LOST 1
  else
    let n := h.get EVT_TAIL.TAIL
    let phase := h.get EVT_TAIL.PHASE
    let old := h.evt.now.drop (h.evt.now.length - h.evtUsed)
    let l := evPlace e old
    let h : Hw := foldUp l.length (fun i h =>
      let j := n + 1024 - old.length + i
      h.evSlot (j % 1024) (if j < 1024 then 1 - phase else phase) (l.getD i e)) h
    let h : Hw := { h.put EVT_TAIL.TAIL (n + 1) with evt := { h.evt with now := l } }
    let h : Hw := if n = 1023 then h.put EVT_TAIL.PHASE (1 - phase) else h
    if h.flag EVT_CTRL.IEN ∧ bitAt (h.get EVT_CTRL.IMASK) e.sev then h.raise 0 else h

/-- An event of code `code`, severity `sev`, source kind and number, and arguments, logged once. -/
def Hw.ev (h : Hw) (code sev skind sindex arg0 arg1 : Nat) : Hw :=
  h.evWrite ⟨code, sev, skind, sindex, 1, h.time, arg0, arg1⟩

/-- Whether an open window has this key (R504): code and source, and the requester where ARG1 holds one. -/
def Ev.sameKey (a b : Ev) : Bool :=
  a.code == b.code && a.skind == b.skind && a.sindex == b.sindex &&
    (if a.code = 0x101 ∨ a.code = 0x102 ∨ a.code = 0x227 then a.arg1 == b.arg1 else true)

/-- A coalescing event (R504): counted in its open window, or the first of a new window, or written at once where 16 are open. -/
def Hw.evC (h : Hw) (code sev skind sindex arg0 arg1 : Nat) : Hw :=
  let e : Ev := ⟨code, sev, skind, sindex, 1, h.time, arg0, arg1⟩
  if h.evt.wins.any (Ev.sameKey e) then
    { h with evt := { h.evt with wins := h.evt.wins.map fun w => if Ev.sameKey e w then { w with count := w.count + 1 } else w } }
  else if h.evt.wins.length < 16 then { h with evt := { h.evt with wins := h.evt.wins ++ [e] } }
  else h.evWrite e

/-- The REQ argument of an event (R504). -/
def reqArg (kind index node : Nat) : Nat := kind + index * 2 ^ 8 + node * 2 ^ 16

/-- The WLOC argument of an event (R504): bit 0 is 1, then column in tower, level, row, word. -/
def wloc (col level row word : Nat) : Nat := 1 + (col % 64) * 2 + level * 2 ^ 7 + row * 2 ^ 10 + word * 2 ^ 28

/-! ## Fused groups (R230) -/

/-- Members of the group of core `c`. -/
def Hw.groupSize (h : Hw) (c : Nat) : Nat := if h.get (CORE_STAT.FUSE c) = 1 then 2 else if h.get (CORE_STAT.FUSE c) = 2 then 4 else 1

/-- The leader of core `c`'s group: its lowest-numbered member. -/
def Hw.leader (h : Hw) (c : Nat) : Nat := c / h.groupSize c * h.groupSize c

/-- The members of core `c`'s group. -/
def Hw.members (h : Hw) (c : Nat) : List Nat := (List.range (h.groupSize c)).map (h.leader c + ·)

/-! ## Halts (R234, R235, R267) -/

/-- What a halt records beside its code (CORE_HALT_INFO): stream 0 execute, 1 access, 2 scalar, 3 DMA channel; SLOT and TAG where there is one;
QUEUE (7 none). -/
structure HaltAt where
  stream : Nat
  pc : Nat
  slot : Option Nat := none
  queue : Nat := 7
  tag : Option Nat := none

/-- A value, or a free one below `n` where the spec states none. -/
def Hw.orFree (h : Hw) (n : Nat) : Option Nat → Nat × Hw
  | some v => (v, h)
  | none => (h.free.1 % n, h.free.2)

/-- The tag of the word at an offset of core `c`'s execute area, or of its access area for streams 1 and 3; none outside them (R208, R240, R261). -/
def Hw.tagAt (h : Hw) (c st pc : Nat) : Option Nat :=
  let l := if st = 0 then h.leader c else c
  let lo := (if st = 0 then h.get (CORE_IMEM.EXEC_BASE l) else h.get (CORE_IMEM.ACC_BASE l)) * 64
  let hi := if st = 0 then h.get (CORE_IMEM.ACC_BASE l) * 64 else 0x20000
  if st = 2 ∨ pc < lo ∨ pc + (if st = 0 then 8 else 16) > hi then none else some (bitsOf (h.sread (sramImem l + pc) 2) 8 8)

/-- CORE_HALT_INFO as a word, for a halt that core `c` caused. SLOT of a halt that no slot caused and TAG of one outside the words are free values. -/
def Hw.haltInfo (h : Hw) (code : Nat) (w : HaltAt) (c cycle : Nat) : Nat × Hw :=
  let (tag, h) := h.orFree 256 (w.tag.or (h.tagAt c w.stream w.pc))
  let (slot, h) := h.orFree 8 w.slot
  (code + w.stream * 2 ^ 8 + slot * 2 ^ 10 + w.queue * 2 ^ 13 + tag * 2 ^ 16 + c % 4 * 2 ^ 24 + (cycle % 2 ^ 32) * 2 ^ 32, h)

/-! ## The trace buffer (R484 to R486) -/

/-- A record written to core `c`'s trace buffer. A full buffer with WRAP = 0 discards it and sets FULL. -/
def Hw.trace (h : Hw) (c kind code tag addr : Nat) : Hw :=
  if ¬ h.flag (CORE_CTRL.TRACE_EN c) then h
  else if ¬ h.flag (CORE_TRC.WRAP c) ∧ h.flag (CORE_TRC.WRAPPED c) then h.mark (CORE_TRC.FULL c)
  else
    let n := h.get (CORE_TRC.NEXT c)
    let h := h.puts [(CORE_TRC_REC.WORD c (2 * n), h.get (CORE_CYCLE.CYCLE c) + kind * 2 ^ 48 + tag * 2 ^ 52),
      (CORE_TRC_REC.WORD c (2 * n + 1), addr + code * 2 ^ 24 + h.time % 2 ^ 32 * 2 ^ 32)]
    let h := if n = 255 then h.put (CORE_TRC.WRAPPED c) 1 else h
    h.put (CORE_TRC.NEXT c) ((n + 1) % 256)

/-- The trace buffer emptied. -/
def Hw.traceEmpty (h : Hw) (c : Nat) : Hw := h.puts [(CORE_TRC.FULL c, 0), (CORE_TRC.NEXT c, 0), (CORE_TRC.WRAPPED c, 0)]

/-- The fault recorded in the leader of core `c`, with the core as MEMBER, and CORE_HALT logged (R238). -/
def Hw.haltRecord (h : Hw) (c code : Nat) (w : HaltAt) : Hw :=
  let l := h.leader c
  let now := h.get (CORE_CYCLE.CYCLE l)
  let (info, h) := h.haltInfo code w c now
  let h := (h.setWord (CORE_HALT_INFO.off l) (BitVec.ofNat 64 info)).put (CORE_HALT_PC.ADDR l) w.pc
  ((h.modCore l fun s => { s with faultIn := some (now, w.stream) }).trace l 4 code (bitsOf info 16 8) w.pc).ev 0x401 2 3 l info (h.get (CORE_HALT_PC.ADDR l))

/-- Of two streams' faults in one core cycle the execute stream's is recorded first, then the access stream's, then the scalar processor's (R234):
whether one of stream `st` takes the place of the recorded one. -/
def Hw.sameCycle (h : Hw) (l st : Nat) : Bool :=
  match (h.core l).faultIn with
  | some (n, s) => (h.core l).faulted && n == h.get (CORE_CYCLE.CYCLE l) && decide (st < s) && decide (s ≤ 2)
  | none => false

/-- A fault halt of core `c` with `code` (R235): the group stops, the first fault is recorded, and a running image becomes FAULTED with IMG_FAULT
(R334). -/
def Hw.halt (h : Hw) (c code : Nat) (w : HaltAt) : Hw :=
  let l := h.leader c
  let first := h.sameCycle l w.stream
  let h := (h.members c).foldl (fun h m =>
    (h.modCore m fun s => { s with faulted := true }).puts [(CORE_STAT.RUN m, 0), (CORE_STAT.HALTED m, 1), (CORE_STAT.BROKEN m, 0)]) h
  if h.get (CORE_HALT_INFO.CODE l) ≠ 0 ∧ h.get (CORE_HALT_INFO.CODE l) ≠ 0x0F then (if first then h.haltRecord c code w else h)
  else
    let h := h.haltRecord c code w
    let h := if code = 0x0C then h.count TEL_MOD.WD_HALTS 1 else h.count TEL_MOD.HALTS 1
    if h.get IMG_STAT.STATE = 3 then
      (h.put IMG_STAT.STATE 4).ev 0x501 2 0 0 (l + code * 2 ^ 8) (h.get IMG_LAP.LAP)
    else match h.img.quiesce with
      | some (.snap ..) => h.ev 0x501 2 0 0 (l + code * 2 ^ 8) (h.get IMG_LAP.LAP)
      | _ => h

/-- A step `f` of stream `st` in a group that has not stopped; in the core cycle of another stream's fault only a fault of its own comes of it (R234). -/
def Hw.orFault (h : Hw) (l st : Nat) (f : Hw → Hw) : Hw :=
  if h.sameCycle l st then
    let g := f ((h.members l).foldl (fun h m => (h.modCore m fun s => { s with faulted := false }).put (CORE_STAT.RUN m) 1) h)
    if (g.core l).faulted then g else h
  else f h

/-- A break of the group of leader `l` at a word of core `c`: the clocks stop before the next word, with code 0x0F. The word of the stream that broke
passes its own break when it goes on. -/
def Hw.breakCore (h : Hw) (l c st pc : Nat) : Hw :=
  let (info, h) := h.haltInfo 0x0F { stream := st, pc := pc } c (h.get (CORE_CYCLE.CYCLE l))
  let h := (h.trace l 5 0x0F (bitsOf info 16 8) pc).modCore l fun s =>
    { s with haltReq := false, stepping := false, passX := s.passX || st == 0, passA := s.passA || st == 1 }
  let h := (h.members l).foldl (fun h m => h.put (CORE_STAT.BROKEN m) 1) h
  if h.get (CORE_HALT_INFO.CODE l) ≠ 0 ∧ h.get (CORE_HALT_INFO.CODE l) ≠ 0x0F then h
  else (h.setWord (CORE_HALT_INFO.off l) (BitVec.ofNat 64 info)).put (CORE_HALT_PC.ADDR l) pc

/-- A break asked for during a hold takes effect once no hold is left (R236). -/
def Hw.breakPending (h : Hw) (l : Nat) : Hw :=
  if (h.core l).haltReq ∧ ¬ h.flag (CORE_STAT.HOLD l) then h.breakCore l l 0 (h.core l).xpc else h

/-- The first descriptor fault since the core's start (R207): handle, code, dimension, unit, channel, scale mark and address. Other codes are no
descriptor faults. -/
def Hw.dscFault (h : Hw) (c handle code dim unit chan : Nat) (scale : Bool) (va : Nat) : Hw :=
  if h.flag (DSC_FAULT_INFO.VALID c) ∨ ¬ [0x03, 0x04, 0x05, 0x06, 0x12, 0x14].contains code then h
  else h.puts [(DSC_FAULT_INFO.VALID c, 1), (DSC_FAULT_INFO.HANDLE c, handle), (DSC_FAULT_INFO.CODE c, code), (DSC_FAULT_INFO.DIM c, dim),
    (DSC_FAULT_INFO.UNIT c, unit), (DSC_FAULT_INFO.CHANNEL c, chan), (DSC_FAULT_INFO.SCALE c, bnat scale), (DSC_FAULT_VA.VA c, va)]

/-- The outcome of a command: the module after it. -/
def done (s : State) (h : Hw) : Host.Outcome State Fault Refusal := .next { s with hw := h }

/-- This module's node number. -/
def Hw.node (h : Hw) : Nat := h.get GID_COORD.X + 64 * h.get GID_COORD.Y + 4096 * h.get GID_COORD.Z

/-! ## Units with one record each -/

def Hw.win (h : Hw) (w : Nat) : Win := tget (fun _ => {}) h.wins w
def Hw.modWin (h : Hw) (w : Nat) (f : Win → Win) : Hw := { h with wins := tset (fun _ => {}) h.wins w (f (h.win w)) }
def Hw.modImg (h : Hw) (f : ImgSt → ImgSt) : Hw := { h with img := f h.img }
def Hw.modHost (h : Hw) (f : HostSt → HostSt) : Hw := { h with host := f h.host }
def Hw.modMode (h : Hw) (f : ModeSt → ModeSt) : Hw := { h with mode := f h.mode }
def Hw.modTherm (h : Hw) (f : ThermSt → ThermSt) : Hw := { h with therm := f h.therm }
def Hw.modTrust (h : Hw) (f : TrustSt → TrustSt) : Hw := { h with trust := f h.trust }
def Hw.modFlash (h : Hw) (f : FlashSt → FlashSt) : Hw := { h with flash := f h.flash }
def Hw.modFab (h : Hw) (f : FabSt → FabSt) : Hw := { h with fab := f h.fab }
def Hw.modDrl (h : Hw) (f : DrlSt → DrlSt) : Hw := { h with drl := f h.drl }
def Hw.port (h : Hw) (p : Nat) : Port := tget (fun _ => {}) h.fab.ports p
def Hw.modPort (h : Hw) (p : Nat) (f : Port → Port) : Hw :=
  h.modFab fun s => { s with ports := tset (fun _ => {}) s.ports p (f (h.port p)) }

/-- The module is released to the host (R455) and not in freewheel. -/
def Hw.released (h : Hw) : Bool := h.mode.phase == .released

/-- The root PLL is unlocked (R435). -/
def Hw.pllOff (h : Hw) : Bool :=
  match h.mode.gear with
  | some g => !g.locked
  | none => false

/-- A register of the FAB, HUB and tower blocks, which answer while the root PLL is locked (R496). -/
def pllBlock (off : Nat) : Bool :=
  (decide (0x80000 ≤ off) && decide (off < 0x200000)) || (decide (0x1000000 ≤ off) && decide ((off - 0x1000000) % 0x200000 < 0x100000))

/-- A register access of the host: while the root PLL is unlocked one of those blocks waits, and behind it every access that keeps its order (R495). -/
def Hw.atPll (h : Hw) (block : Bool) (i : RegAccess) (f : Hw → Hw) : Hw :=
  if h.pllOff ∧ (block ∨ ¬ h.mode.regHeld.isEmpty) then h.modMode fun m => { m with regHeld := m.regHeld ++ [i] } else f h

/-- What logic clocked by the root PLL does, which stands still while it is unlocked (R435). -/
def Hw.whenLocked (h : Hw) (f : Hw → Hw) : Hw := if h.pllOff then h else f h

/-- The module is in kickstand (R467). -/
def Hw.kick (h : Hw) : Bool := h.flag KICK_STAT.KICK

/-- Whether an image is loaded: READY, RUNNING, FAULTED, or stopping (R321, R339). -/
def Hw.loaded (h : Hw) : Bool := decide (2 ≤ h.get IMG_STAT.STATE)

end Sys2Proof.Machine
end

