-- ==== Sys2Proof/Machine/Fabric.lean ====
section
/-!
DEFINITION. Flits and their way out: fields of header and trailer (R347, R349), routes (R354, R355), detours (R373, R374), credits,
output queues and retry buffers (R343, R355), CRC and link encryption (R343, R370). A message `Msg.flit` is a flit before encryption, with the CRC that it
has after it; `Msg.ack` and `Msg.credit` are the trailer of a LINK flit that carries nothing else, so that a sent flit owes no credit and no NAK.
-/
namespace Sys2Proof.Machine

/-! ## Fields -/

def Flit.f (f : Flit) (lo n : Nat) : Nat := bitsOf f.hdr.toNat lo n
def Flit.vc (f : Flit) : Nat := Flit.f f 0 4
def Flit.type (f : Flit) : Nat := Flit.f f 4 4
def Flit.dst (f : Flit) : Nat := Flit.f f 8 18
def Flit.src (f : Flit) : Nat := Flit.f f 26 18
def Flit.addr (f : Flit) : Nat := Flit.f f 44 40
def Flit.wmask (f : Flit) : Nat := Flit.f f 84 8
def Flit.txid (f : Flit) : Nat := Flit.f f 92 12
def Flit.core (f : Flit) : Nat := Flit.f f 104 6
def Flit.obj (f : Flit) : Nat := Flit.f f 110 6
def Flit.etype (f : Flit) : Nat := Flit.f f 116 3
def Flit.seq (f : Flit) : Nat := bitsOf f.trl.toNat 0 12
def Flit.hops (f : Flit) : Nat := bitsOf f.trl.toNat 33 7
def Flit.det (f : Flit) : Nat := bitsOf f.trl.toNat 40 8
def Flit.poison (f : Flit) : Nat := bitsOf f.trl.toNat 48 8
/-- Payload word `j`. -/
def Flit.word (f : Flit) (j : Nat) : Word := BitVec.ofNat 256 (bitsOf f.payload.toNat (256 * j) 256)
/-- Payload byte `j`. -/
def Flit.byte (f : Flit) (j : Nat) : Nat := bitsOf f.payload.toNat (8 * j) 8

/-- Whether a type has a payload (R348). -/
def fullType (t : Nat) : Bool := t == 2 || t == 3 || t == 5 || t == 6 || t == 8 || t == 10

/-- Whether a type is a request (R348). -/
def requestType (t : Nat) : Bool := t == 1 || t == 3 || t == 4 || t == 5 || t == 6

/-- The class 0 channel of a type's traffic class (R348, R355). -/
def typeVc (t : Nat) : Nat := if requestType t then 0 else if t = 2 ∨ t = 7 then 2 else if t = 8 then 4 else 6

/-- A flit of the endpoint. -/
def mkFlit (type dst src addr wmask txid core obj etype : Nat) (payload : Tile) (poison : Nat) : Flit :=
  { hdr := BitVec.ofNat 128 (typeVc type + type * 2 ^ 4 + dst % 2 ^ 18 * 2 ^ 8 + src % 2 ^ 18 * 2 ^ 26 + addr % 2 ^ 40 * 2 ^ 44 +
      wmask % 256 * 2 ^ 84 + txid % 4096 * 2 ^ 92 + core % 64 * 2 ^ 104 + obj % 64 * 2 ^ 110 + etype % 8 * 2 ^ 116),
    payload := payload, trl := BitVec.ofNat 128 (poison % 256 * 2 ^ 48) }

/-- A flit with another channel, hop count and detour state. -/
def Flit.onward (f : Flit) (vc hops det : Nat) : Flit :=
  { f with hdr := BitVec.ofNat 128 (f.hdr.toNat / 16 * 16 + vc),
           trl := BitVec.ofNat 128 (hops % 128 * 2 ^ 33 + det % 256 * 2 ^ 40 + Flit.poison f * 2 ^ 48) }

/-- An address of a flit that names hub SRAM: bit 39 set and an offset within its 128 MiB (R347). Device addresses from 512 GiB (R30) have bit 39 set as
well; one that is also such an offset is taken for the offset (log 42). -/
def hubAddr (a : Nat) : Bool := decide (2 ^ 39 ≤ a) && decide (a < 2 ^ 39 + 0x8000000)

/-! ## Nodes (R350, R499) -/

def nodeX (n : Nat) : Nat := n % 64
def nodeY (n : Nat) : Nat := n / 64 % 64
def nodeZ (n : Nat) : Nat := n / 4096 % 64
def nodeAxis (n a : Nat) : Nat := if a = 0 then nodeX n else if a = 1 then nodeY n else nodeZ n

/-- The ring size of an axis; 0 unknown. -/
def Hw.ring (h : Hw) (a : Nat) : Nat := if a = 0 then h.get GID_COORD.SX else if a = 1 then h.get GID_COORD.SY else h.get GID_COORD.SZ
/-- This module holds coordinates. -/
def Hw.hasCoord (h : Hw) : Bool := h.flag GID_COORD.VALID

/-- A node inside the peloton (R360, R499): all ring sizes known and the node within them, or this node. -/
def Hw.inPeloton (h : Hw) (n : Nat) : Bool :=
  n == h.node || (decide (h.ring 0 ≠ 0) && decide (h.ring 1 ≠ 0) && decide (h.ring 2 ≠ 0) &&
    decide (nodeX n < h.ring 0) && decide (nodeY n < h.ring 1) && decide (nodeZ n < h.ring 2))

/-- A node listed in FAB_DEAD (R373). -/
def Hw.isDead (h : Hw) (n : Nat) : Bool := (List.range 16).any fun i => h.flag (FAB_DEAD.VALID i) && h.get (FAB_DEAD.NODE i) == n

/-- A port that is up. -/
def Hw.portUp (h : Hw) (p : Nat) : Bool := h.get (FAB_PSTAT.STATE p) == 3

/-! ## Routes (R354, R355, R373) -/

/-- The first hop toward `n` in dimension order: the direction, and whether it crosses the ring's dateline. None where the node is here or
its ring is unknown. -/
def Hw.nextDir (h : Hw) (n : Nat) : Option (Nat × Bool) :=
  (List.range 3).findSome? fun a =>
    let s := h.ring a
    let x := nodeAxis h.node a
    let y := nodeAxis n a
    if x = y ∨ s = 0 then none
    else
      let up := (y + s - x) % s
      if up ≤ s - up then some (2 * a, x + 1 == s) else some (2 * a + 1, x == 0)

/-- The bypass of direction `d`: its side direction (R373). -/
def Hw.bypass (h : Hw) (d : Nat) : Option Nat :=
  let b := bitsOf (h.get FAB_ROUTE.BYPASS) (4 * d) 4
  if b ≥ 8 then some (b % 8) else none

/-- The way out of a flit: port, channel, detour state. `inAxis` is the axis of the port it came by (3 for none). -/
def Hw.wayOut (h : Hw) (f : Flit) (inAxis : Nat) : Option (Nat × Nat × Nat) :=
  let d := Flit.dst f
  if h.flag FAB_PEERS.TANDEM_EN ∧ d = h.get FAB_PEERS.TANDEM ∧ inAxis = 3 ∧ (h.portUp 6 ∨ h.portUp 7) then
    let p := if h.portUp 6 ∧ h.portUp 7 then 6 + Flit.txid f % 2 else if h.portUp 6 then 6 else 7
    some (p, typeVc (Flit.type f), 0)
  else match h.nextDir d with
    | none => none
    | some (dir, cross) =>
      let base := typeVc (Flit.type f)
      let cls := if cross then 1 else if inAxis = dir / 2 then Flit.vc f % 2 else 0
      match h.bypass dir with
      | some s => some (s, 8, s + dir * 8)
      | none => some (dir, base + cls, 0)

/-! ## Sending (R343, R355) -/

/-- The neighbour's input buffer for a channel. -/
def vcRoom (vc : Nat) : Nat := if vc < 4 then 64 else if vc < 6 then 32 else if vc < 8 then 8 else 16

/-- A byte taken into a CRC-64 with the polynomial of ECMA-182, its highest bit first (R343). -/
def crcByte (c b : Nat) : Nat :=
  foldUp 8 (fun _ c => if bitAt c 63 then (c * 2 % 2 ^ 64) ^^^ 0x42F0E1EBA9EA3693 else c * 2) (c ^^^ (b * 2 ^ 56))

/-- CRC-64 over a byte string, from 0. -/
def crc64 (l : List Byte) : Nat := l.foldl (fun c b => crcByte c b.toNat) 0

/-- The bytes that encryption covers (R370): header and payload. -/
def Flit.span (f : Flit) : List Byte := natLE 16 f.hdr.toNat ++ if fullType (Flit.type f) then natLE 256 f.payload.toNat else []

/-- A flit whose CRC field holds the CRC-64 of its bytes before it, where `wire` are its header and payload as sent (R343, R349). -/
def Flit.withCrc (f : Flit) (wire : List Byte) : Flit :=
  let low := f.trl.toNat % 2 ^ 64
  { f with trl := BitVec.ofNat 128 (low + crc64 (wire ++ natLE 8 low) * 2 ^ 64) }

/-- Whether a flit that travels in clear has a good CRC. -/
def Flit.crcGood (f : Flit) : Bool := (Flit.withCrc f (Flit.span f)).trl == f.trl

/-- The nonce of the open group: its first flit's counter, and the direction bit (R370). -/
def Port.nonce (s : Port) : Nat := (s.sent - s.open'.length) % 2 ^ 64 + bnat (!s.encap) * 2 ^ 64

/-- The plaintext of the open group. -/
def Port.plain (s : Port) : List Byte := s.open'.flatMap Flit.span

/-- A flit with its sequence number, acknowledgement and CRC as a port sends it next; `enc` with encryption on. -/
def Port.stamp (s : Port) (seq : Nat) (enc : Bool) (f : Flit) : Flit :=
  let f : Flit := { f with trl := BitVec.ofNat 128 (seq + (s.got + 4095) % 4096 * 2 ^ 12 + f.trl.toNat % 2 ^ 56 / 2 ^ 33 * 2 ^ 33), par := none, buf := none }
  Flit.withCrc f (if enc then Config.gcmCipher s.txKey s.nonce s.plain.length (Flit.span f) else Flit.span f)

/-- A flit encrypted into the open group (R370). -/
def Port.enclose (s : Port) (f : Flit) : Port :=
  { s with sent := s.sent + 1, grp := s.grp + bnat (fullType (Flit.type f)), open' := s.open' ++ [f] }

/-- The credit of a flit that leaves its input buffer (R355). -/
def Hw.creditBack (h : Hw) (f : Flit) : Hw :=
  match f.buf with
  | some (p, vc) => h.send (.credit p vc 1)
  | none => h

/-- The head of one output queue sent, where port, credit, retry buffer and group allow. -/
def Hw.sendHead (h : Hw) (p vc : Nat) : Hw :=
  let s := h.port p
  match tget (fun _ => []) s.q vc with
  | [] => h
  | f :: rest =>
    if ¬ h.portUp p ∨ tget (fun _ => 0) s.used vc ≥ vcRoom vc ∨ s.retry.length ≥ 2048 ∨ s.grp ≥ 16 then h
    else
      let enc := h.flag (FAB_PSTAT.ENC p)
      let f' := s.stamp s.seq enc f
      let s := { s with q := tset (fun _ => []) s.q vc rest, used := tset (fun _ => 0) s.used vc (tget (fun _ => 0) s.used vc + 1),
                        seq := (s.seq + 1) % 4096, retry := s.retry ++ [(s.seq, f')] }
      let h := h.modPort p fun _ => if enc then s.enclose f' else s
      let h := if fullType (Flit.type f) then h.count (TEL_PORT.TXFULL p) 1 else h
      (h.send (.flit p f')).creditBack f

/-- Everything queued on a port that may leave leaves, channel by channel. -/
def Hw.pump (h : Hw) (p : Nat) : Hw :=
  foldUp 9 (fun vc h => foldUp (tget (fun _ => []) (h.port p).q vc).length (fun _ h => h.sendHead p vc) h) h

/-- A flit queued on a port. -/
def Hw.toPort (h : Hw) (p vc : Nat) (f : Flit) : Hw :=
  (h.modPort p fun s => { s with q := tset (fun _ => []) s.q vc (tget (fun _ => []) s.q vc ++ [f]) }).pump p

/-- A flit of this module's endpoint or hub on its way: to this node's own endpoint, or to a port (R360). -/
def Hw.sendFlit (h : Hw) (f : Flit) : Hw :=
  if Flit.dst f = h.node then h.modFab fun s => { s with inbox := s.inbox ++ [(8, f)] }
  else match h.wayOut f 3 with
    | none => h
    | some (p, vc, det) => h.toPort p vc (Flit.onward f vc 0 det)

/-- The tandem ports lead to a node: it is named, and one of them is up (R354). -/
def Hw.tandemTo (h : Hw) (n : Nat) : Bool := h.flag FAB_PEERS.TANDEM_EN && n == h.get FAB_PEERS.TANDEM && (h.portUp 6 || h.portUp 7)

/-- Whether this module can send to a node: known, and its first hop up or bypassed (R306, R360). -/
def Hw.reachable (h : Hw) (n : Nat) : Bool :=
  h.inPeloton n && !h.isDead n &&
    (n == h.node || h.tandemTo n || (match h.nextDir n with
      | none => false
      | some (d, _) => h.portUp d || (h.bypass d).isSome))

/-- A free entry of hub `hub`'s transaction tracker: bit 11 names the hub (R347). -/
def Hw.freeTx (h : Hw) (hub : Nat) : Option Nat :=
  ((List.range 2048).map fun i => hub * 2048 + (h.fab.nextTx + i) % 2048).find? fun t => (tget (fun _ => none) h.fab.txns t).isNone

/-- A tracker entry taken. -/
def Hw.takeTx (h : Hw) (t : Nat) (x : Txn) : Hw :=
  h.modFab fun f => { f with nextTx := (t + 1) % 2048, txns := tset (fun _ => none) f.txns t (some x) }

/-- A tracker entry freed. -/
def Hw.dropTx (h : Hw) (t : Nat) : Hw := h.modFab fun f => { f with txns := tset (fun _ => none) f.txns t none }

/-- A RESP to the source of a request (R362). -/
def Hw.respond (h : Hw) (f : Flit) (status : Nat) : Hw :=
  h.sendFlit (mkFlit 7 (Flit.src f) h.node status 0 (Flit.txid f) (Flit.core f) 0 0 0 0)

/-- A management flit in the layout of R350, little-endian payload `p`. -/
def Hw.mgmt (h : Hw) (dst : Nat) (p : Nat) : Hw := h.sendFlit (mkFlit 10 dst h.node 0 0 0 0 0 0 (BitVec.ofNat 2048 p) 0)

/-- A fabric manager notice to FMNODE where FM_EN is set (R345, R467). -/
def Hw.fmNotice (h : Hw) : Hw := if h.flag FAB_PEERS.FM_EN then h.mgmt (h.get FAB_PEERS.FMNODE) 4 else h

end Sys2Proof.Machine
end

