-- ==== Sys2Proof/Machine/Map.lean ====
section
/-!
DEFINITION. Bank columns, the region map, the page table and the two views of memory (R24 to R45).
-/
namespace Sys2Proof.Machine

/-- Words of one column (R14): 1,152 MiB of 32 bytes. -/
def colWords : Nat := 37748736

/-- Bytes of one column. -/
def colBytes : Nat := 1207959552

/-! ## The arrays: where row sequence `n` of a column lies (R25, R99) -/

/-- Base of row sequence `n` of column `c`: 1,024 data bytes, 64 inner check bytes, 32 outer check bytes. -/
def rowBase (c n : Nat) : Nat := ((c * 6 + n % 6) * 196608 + n / 6) * 1120

def wordAddr (c w : Nat) : Nat := rowBase c (w / 32) + w % 32 * 32
def checkAddr (c w : Nat) : Nat := rowBase c (w / 32) + 1024 + w % 32 * 2
def outerAddr (c n : Nat) : Nat := rowBase c n + 1088

def wordLevel (w : Nat) : Nat := w / 32 % 6
def wordRow (w : Nat) : Nat := w / 192

/-- WLOC of word `w` of column `c`. -/
def wlocOf (c w : Nat) : Nat := wloc c (wordLevel w) (wordRow w) (w % 32)

/-! ## Region entries (R27, R45) -/

/-- A region entry. -/
structure Region where
  valid : Bool
  lock : Bool
  base : Nat
  size : Nat
  grainK : Nat
  first : Nat
  count : Nat
  colbase : Nat
  coh : Nat
  perms : Nat
  hb : Bool
  hostaddr : Nat
  deriving DecidableEq, Repr

/-- The entry that three words in the layout of MAP_RGN_A to MAP_RGN_C describe. -/
def Region.ofWords (a b c : Nat) : Region :=
  { valid := bitAt a 0, lock := bitAt a 1, base := bitsOf a 4 12, size := bitsOf a 16 12, grainK := bitsOf a 28 5, first := bitsOf a 36 9,
    count := bitsOf a 45 10, colbase := bitsOf b 0 12, coh := bitsOf b 16 1, perms := bitsOf b 17 6, hb := bitAt b 23,
    hostaddr := bitsOf c 12 52 * 4096 }

/-- The staging copy of entry `n`. -/
def Hw.staged (h : Hw) (n : Nat) : Region :=
  Region.ofWords (h.word (MAP_RGN_A.off n)).toNat (h.word (MAP_RGN_B.off n)).toNat (h.word (MAP_RGN_C.off n)).toNat

/-- The installed entry `n`. -/
def Hw.region (h : Hw) (n : Nat) : Region :=
  Region.ofWords (h.word (MAP_INST_A.off n)).toNat (h.word (MAP_INST_B.off n)).toNat (h.word (MAP_INST_C.off n)).toNat

def Region.lo (r : Region) : Nat := r.base * 2 ^ 28
def Region.bytes (r : Region) : Nat := r.size * 2 ^ 28
def Region.grain (r : Region) : Nat := 256 * 2 ^ r.grainK
/-- F: the bytes of one column's slice. -/
def Region.slice (r : Region) : Nat := r.bytes / r.count
def Region.sliceLo (r : Region) : Nat := r.colbase * 2 ^ 19

/-- Column and column offset of the byte at region offset `o` (R28). -/
def Region.place (r : Region) (o : Nat) : Nat × Nat :=
  let g := r.grain
  let i := o / g
  (r.first + i % r.count, r.sliceLo + i / r.count * g + o % g)

/-- Permission bits of MAP_RGN_B, in their order: HR, HW, ER, EW, FR, FW. -/
inductive Perm where
  | hr | hw | er | ew | fr | fw
  deriving DecidableEq, Repr

def Perm.bit : Perm → Nat
  | .hr => 0 | .hw => 1 | .er => 2 | .ew => 3 | .fr => 4 | .fw => 5

/-! ## The device reserve (R33) -/

def dpaEnd : Nat := 576 * 2 ^ 30
/-- S: bytes of the reserve in force. -/
def Hw.rsvBytes (h : Hw) : Nat := h.get MAP_RESERVE.RSV_NOW * 2 ^ 31
def Hw.rsvLo (h : Hw) : Nat := dpaEnd - h.rsvBytes
/-- B: the column offset at which the reserve's slice starts. -/
def Hw.rsvSlice (h : Hw) : Nat := colBytes - h.rsvBytes / 512

/-- Column and column offset of a byte of the reserve: grain 4 KiB over all columns. -/
def Hw.rsvPlace (h : Hw) (d : Nat) : Nat × Nat :=
  let o := d - h.rsvLo
  let i := o / 4096
  (i % 512, h.rsvSlice + i / 512 * 4096 + o % 4096)

/-! ## Device physical addresses -/

/-- The installed region that holds `d`: the lowest-numbered (R30 lets only one). -/
def Hw.regionOf (h : Hw) (d : Nat) : Option Nat :=
  (List.range 16).find? fun n => (h.region n).valid && decide ((h.region n).lo ≤ d) && decide (d < (h.region n).lo + (h.region n).bytes)

/-- What an access to a device physical address meets (R28, R29, R31, R32). -/
inductive MapRes where
  | at' (col off : Nat)
  | hostMem (addr : Nat)
  | hole
  | perm
  deriving DecidableEq, Repr

/-- A data access to `d` that needs permission `p`; `engine` where it is made in the engine view, which alone reaches a host-backed
region (R29). -/
def Hw.mapAccess (h : Hw) (d : Nat) (p : Perm) (engine : Bool) : MapRes :=
  if d ≥ h.rsvLo then .hole
  else match h.regionOf d with
    | none => .hole
    | some n =>
      let r := h.region n
      if r.hb && !engine then .hole
      else if !(bitAt r.perms p.bit) then .perm
      else if r.hb then .hostMem (r.hostaddr + (d - r.lo))
      else .at' (r.place (d - r.lo)).1 (r.place (d - r.lo)).2

/-- MAP_HOLE or MAP_PERM for a failed access (R31, R32). -/
def Hw.mapEvent (h : Hw) (res : MapRes) (d req : Nat) : Hw :=
  match res with
  | .hole => h.evC 0x101 1 0 0 d req
  | .perm => h.evC 0x102 1 0 0 d req
  | _ => h

/-- Column and word of a byte of the reserve or of a region with columns, permissions left aside (upkeep and the module's own
units). -/
def Hw.placeOf (h : Hw) (d : Nat) : Option (Nat × Nat) :=
  if d ≥ dpaEnd then none
  else if d ≥ h.rsvLo then some (h.rsvPlace d)
  else match h.regionOf d with
    | none => none
    | some n => if (h.region n).hb then none else some ((h.region n).place (d - (h.region n).lo))

/-- The device physical address of byte `a` of column `c` (R40). -/
def Hw.dpaOf (h : Hw) (c a : Nat) : Option Nat :=
  (List.range 16).findSome? fun n =>
    let r := h.region n
    if r.valid && !r.hb && decide (r.first ≤ c) && decide (c < r.first + r.count) then
      let s := r.sliceLo
      if s ≤ a ∧ a < s + r.slice then
        let g := r.grain
        let rel := a - s
        let i := rel / g * r.count + (c - r.first)
        some (r.lo + i * g + rel % g)
      else none
    else none

/-- The DPA argument of PROT_POISON: bit 63 set where unmapped (R505). -/
def Hw.dpaArg (h : Hw) (c w : Nat) : Nat :=
  match h.dpaOf c (w * 32) with
  | some d => d
  | none => 2 ^ 63

/-! ## Validity (R30) -/

/-- Two ranges from `a` and `c`, of `m` and `n` units, have a unit in common: an empty range overlaps nothing. -/
def overlap (a m c n : Nat) : Bool := decide (max a c < min (a + m) (c + n))

/-- The other valid entries with columns that share a column with entry `n` and overlap its slice. -/
def sliceClash (r q : Region) : Bool :=
  q.valid && !q.hb && overlap r.first r.count q.first q.count && overlap r.sliceLo r.slice q.sliceLo q.slice

/-- The code of the first condition of R30 that entry `n` of `rs` breaks; 0 for none. `locked` are the installed LOCK bits,
`limit` the end of the regions, `slice` the reserve slice base, `running` whether an image runs. While one runs, the lowest entry without
another fault reports 0x09, locked or not: a lower entry that is not locked comes first (DESIGN CHOICE, log 55: R44 states 0x06 for such
a commit, R30 and R41 the lowest entry's code). -/
def regionCode (rs : List Region) (locked : Nat → Bool) (limit slice : Nat) (running : Bool) (n : Nat) : Nat :=
  let r := rs.getD n (Region.ofWords 0 0 0)
  let others := (List.range 16).filter fun m => decide (m ≠ n)
  let get := fun m => rs.getD m (Region.ofWords 0 0 0)
  if r.valid && (decide (r.grainK > 22) || (!r.hb && (decide (r.count = 0) || decide (r.count > 512) || decide (r.first + r.count > 512)))) then 0x01
  else if r.valid && !r.hb && decide (r.bytes % (r.grain * r.count) ≠ 0) then 0x02
  else if r.valid && (decide (r.size ≠ 0 ∧ r.lo + r.bytes > limit) ||
      others.any fun m => (get m).valid && overlap r.lo r.bytes (get m).lo (get m).bytes) then 0x03
  else if r.valid && !r.hb && others.any fun m => sliceClash r (get m) then 0x04
  else if r.valid && !r.hb && decide (r.sliceLo + r.slice > slice) then 0x05
  else if locked n then 0x06
  else if r.valid && r.hb && (decide (r.coh ≠ 0) || bitAt r.perms Perm.hw.bit || decide (r.hostaddr % 4096 ≠ 0)) then 0x07
  else if r.valid && decide (r.size = 0) then 0x08
  else if running then 0x09
  else 0

/-- The lowest entry that fails, with its code (R41). -/
def mapErr (rs : List Region) (locked : Nat → Bool) (limit slice : Nat) (running : Bool) : Option (Nat × Nat) :=
  (List.range 16).findSome? fun n =>
    let k := regionCode rs locked limit slice running n
    if k = 0 then none else some (n, k)

/-! ## The page table (R37 to R39) -/

/-- Outcome of a translation: the device physical address and WD, or none. -/
abbrev Xlat := Option (Nat × Bool)

end Sys2Proof.Machine
end

