-- ==== Sys2Proof/Machine/RowCode.lean ====
section
/-!
DEFINITION. The two nested codes of stored data: the inner word code (R95, R96, R98) and the outer row code, a Reed-Solomon code over
GF(2^16) (R99 to R101).
-/
namespace Sys2Proof.Machine

/-! ## Inner code -/

/-- f(b): the (b + 1)-th smallest 8-bit value of weight 2 or 4 (R95). -/
def innerF : List Nat := [0x3, 0x5, 0x6, 0x9, 0xa, 0xc, 0xf, 0x11, 0x12, 0x14, 0x17, 0x18, 0x1b, 0x1d, 0x1e, 0x21, 0x22, 0x24, 0x27, 0x28, 0x2b, 0x2d, 0x2e, 0x30, 0x33, 0x35, 0x36, 0x39, 0x3a, 0x3c, 0x41, 0x42]

/-- Parity of the low `n` bits. -/
def parity : Nat → Nat → Bool
  | 0, _ => false
  | n + 1, v => xor (v % 2 == 1) (parity n (v / 2))

/-- Low half: the XOR of the bytes; high half: the XOR of f(b) over the bytes of odd weight. -/
def innerHalves : List Nat → Nat → Nat × Nat
  | [], _ => (0, 0)
  | f :: fs, v =>
    let (lo, hi) := innerHalves fs (v / 256)
    (lo ^^^ (v % 256), if parity 8 v then hi ^^^ f else hi)

/-- The check bits c[15:0] of a word (R95). -/
def innerCheck (d : Word) : BitVec 16 :=
  let (lo, hi) := innerHalves innerF d.toNat
  BitVec.ofNat 16 (lo + 256 * hi)

/-- The classes of R96; a corrected bit is named by its wire, data wires first. -/
inductive InnerCls where
  | clean
  | corrected (wire : Nat)
  | poison
  | bad
  deriving DecidableEq, Repr

/-- Position of the one set bit of an 8-bit value. -/
def oneBit (v : Nat) : Option Nat := (List.range 8).find? fun k => v == 2 ^ k

/-- The class of a syndrome (R96). -/
def innerClass (syn : BitVec 16) : InnerCls :=
  let lo := syn.toNat % 256
  let hi := syn.toNat / 256
  if syn = 0 then .clean
  else if syn = 0xFFFF#16 then .poison
  else match oneBit lo with
    | some k =>
      if hi = 0 then .corrected (256 + k)
      else match (List.range 32).find? fun b => innerF.getD b 0 == hi with
        | some b => .corrected (8 * b + k)
        | none => .bad
    | none =>
      if lo = 0 then match oneBit hi with
        | some m => .corrected (264 + m)
        | none => .bad
      else .bad

/-- A word as it leaves the inner code: its class, and its data with a corrected bit inverted. -/
def innerDecode (d : Word) (c : BitVec 16) : InnerCls × Word :=
  match innerClass (c ^^^ innerCheck d) with
  | .corrected w => (.corrected w, if w < 256 then d ^^^ BitVec.ofNat 256 (2 ^ w) else d)
  | k => (k, d)

/-! ## GF(2^16) on x^16 + x^12 + x^3 + x + 1 (R100) -/

/-- A field element times alpha. -/
def gfX (a : Nat) : Nat := if a ≥ 2 ^ 15 then (2 * a) ^^^ 0x1100B else 2 * a

/-- Product, bit by bit of `b`. -/
def gfMulN : Nat → Nat → Nat → Nat
  | 0, _, _ => 0
  | n + 1, a, b => (if b % 2 = 1 then a else 0) ^^^ gfMulN n (gfX a) (b / 2)

def gfMul (a b : Nat) : Nat := if a = 0 ∨ b = 0 then 0 else gfMulN 16 a b

/-- `a` to the power `n`, `n` below 2^k. -/
def gfPow : Nat → Nat → Nat → Nat
  | 0, _, _ => 1
  | k + 1, a, n => gfMul (if n % 2 = 1 then a else 1) (gfPow k (gfMul a a) (n / 2))

/-- Inverse of a non-zero element: the power 2^16 - 2. -/
def gfInv (a : Nat) : Nat := gfPow 16 a 65534

/-- alpha to the power `n`. -/
def gfAlpha (n : Nat) : Nat := gfPow 16 2 (n % 65535)

/-! ## Polynomials, lowest coefficient first -/

def polyAdd : List Nat → List Nat → List Nat
  | [], q => q
  | p, [] => p
  | a :: p, b :: q => (a ^^^ b) :: polyAdd p q

def polyScale (c : Nat) (p : List Nat) : List Nat := p.map (gfMul c)

def polyMul : List Nat → List Nat → List Nat
  | [], _ => []
  | a :: p, q => polyAdd (polyScale a q) (0 :: polyMul p q)

def polyEval (p : List Nat) (x : Nat) : Nat := p.foldr (fun c acc => c ^^^ gfMul acc x) 0

/-- The formal derivative: odd coefficients, one place down. -/
def polyDeriv (p : List Nat) : List Nat := (List.range (p.length - 1)).map fun i => if i % 2 = 0 then p.getD (i + 1) 0 else 0

/-- g(x), lowest coefficient first (R100). -/
def rsGen : List Nat := foldUp 16 (fun i g => polyMul g [gfAlpha i, 1]) [1]

/-- h(x) of 512 message symbols, given from the highest place down (R100). -/
def rsEncodeFrom (g : List Nat) (syms : List Nat) : List Nat :=
  syms.foldl (fun par m =>
    let fb := m ^^^ par.getD 15 0
    polyAdd (0 :: par.take 15) (polyScale fb (g.take 16))) (List.replicate 16 0)

/-- The 512 symbols of a row's data words, lowest place first. -/
def rowSyms (ws : List Word) : List Nat := ws.flatMap fun w => (List.range 16).map fun i => bitsOf w.toNat (16 * i) 16

/-- The 32 outer check bytes of a row, as a number (R100). -/
def outerCheck (ws : List Word) : Nat :=
  (rsEncodeFrom rsGen (rowSyms ws).reverse).foldr (fun s acc => s + 65536 * acc) 0

/-- A word of 16 symbols. -/
def symsWord (ss : List Nat) : Word := BitVec.ofNat 256 (ss.foldr (fun s acc => s + 65536 * acc) 0)

/-- The code word of a row: 16 check symbols, then 512 data symbols. -/
def rowCodeWord (ws : List Word) (outer : Nat) : List Nat := ((List.range 16).map fun i => bitsOf outer (16 * i) 16) ++ rowSyms ws

/-- The 16 syndromes. -/
def rsSyndromes (cw : List Nat) : List Nat := (List.range 16).map fun i => polyEval cw (gfAlpha i)

/-- Berlekamp-Massey: the error locator of the syndromes. State: locator, previous locator, its length, gap, last discrepancy. -/
def rsLocator (syn : List Nat) : List Nat :=
  let step := fun (n : Nat) (st : List Nat × List Nat × Nat × Nat × Nat) =>
    let (lam, prev, len, gap, last) := st
    let d := (List.range (len + 1)).foldl (fun acc i => acc ^^^ (if i ≤ n then gfMul (lam.getD i 0) (syn.getD (n - i) 0) else 0)) 0
    if d = 0 then (lam, prev, len, gap + 1, last)
    else
      let adj := polyScale (gfMul d (gfInv last)) (List.replicate gap 0 ++ prev)
      if 2 * len ≤ n then (polyAdd lam adj, lam, n + 1 - len, 1, d)
      else (polyAdd lam adj, prev, len, gap + 1, last)
  (foldUp 16 step ([1], [1], 0, 1, 1)).1

/-- Degree of a locator. -/
def polyDeg (p : List Nat) : Nat := (List.range p.length).foldl (fun d i => if p.getD i 0 ≠ 0 then i else d) 0

/-- Forney: the values at places `ps` for the locator `lam`, first root alpha^0. -/
def rsValues (syn lam : List Nat) (ps : List Nat) : List (Nat × Nat) :=
  let om := (polyMul syn lam).take 16
  let dv := polyDeriv lam
  ps.map fun p =>
    let xi := gfAlpha (65535 - p % 65535)
    (p, gfMul (gfAlpha p) (gfMul (polyEval om xi) (gfInv (polyEval dv xi))))

/-- A code word with values added at places. -/
def rsApply (cw : List Nat) (vs : List (Nat × Nat)) : List Nat :=
  vs.foldl (fun cw v => cw.set v.1 (cw.getD v.1 0 ^^^ v.2)) cw

/-- Errors only: up to 8 wrong symbols anywhere (R101). -/
def rsErrors (cw : List Nat) : Option (List Nat) :=
  let syn := rsSyndromes cw
  if syn.all (· == 0) then some cw
  else
    let lam := rsLocator syn
    let ps := (List.range 528).filter fun p => polyEval lam (gfAlpha (65535 - p)) == 0
    if polyDeg lam > 8 ∨ ps.length ≠ polyDeg lam then none
    else
      let cw' := rsApply cw (rsValues syn lam ps)
      if (rsSyndromes cw').all (· == 0) then some cw' else none

/-- Erasure of the 16 symbols of word `w` (R101). -/
def rsErasure (cw : List Nat) (w : Nat) : List Nat :=
  let ps := (List.range 16).map fun i => 16 + 16 * w + i
  let cw0 := ps.foldl (fun c p => c.set p 0) cw
  let lam := ps.foldl (fun l p => polyMul l [1, gfAlpha p]) [1]
  rsApply cw0 (rsValues (rsSyndromes cw0) lam ps)

/-- The outer decoder (R101): data words and check bytes of the decoded row, or none on outer failure. `bad` are the words the inner
code classed uncorrectable. -/
def outerDecode (ws : List Word) (outer : Nat) (bad : List Nat) : Option (List Word × Nat) :=
  let cw := rowCodeWord ws outer
  let out := match bad with
    | [w] => some (rsErasure cw w)
    | _ => rsErrors cw
  out.map fun c =>
    ((List.range 32).map fun i => symsWord ((c.drop (16 + 16 * i)).take 16), (c.take 16).foldr (fun s acc => s + 65536 * acc) 0)

end Sys2Proof.Machine
end

