-- ==== Sys2Proof/Machine/Array.lean ====
section
/-!
DEFINITION. Words and rows in the arrays: codes, patches, poison, the repeat tracker, open rows and their outer check bytes
(R47, R95 to R118).
-/
namespace Sys2Proof.Machine

def Hw.rawWord (h : Hw) (c w : Nat) : Word := BitVec.ofNat 256 (Memory.readLE h.dram (wordAddr c w) 32)
def Hw.rawCheck (h : Hw) (c w : Nat) : BitVec 16 := BitVec.ofNat 16 (Memory.readLE h.dram (checkAddr c w) 2)
def Hw.rawOuter (h : Hw) (c n : Nat) : Nat := Memory.readLE h.dram (outerAddr c n) 32

/-- The array cells of a word: data under fresh check bits, or 32 zero bytes under check bits 0xFFFF (R95, R98). -/
def Hw.putRaw (h : Hw) (c w : Nat) (d : Word) (poison : Bool) : Hw :=
  let v := if poison then 0 else d.toNat
  let k := if poison then 0xFFFF else (innerCheck d).toNat
  { h with dram := Memory.writeLE (Memory.writeLE h.dram (wordAddr c w) 32 v) (checkAddr c w) 2 k }

/-! ## Patches (R113) -/

/-- The patch entry of word `w` of column `c`. -/
def Hw.patchOf (h : Hw) (c w : Nat) : Option Nat :=
  let t := c / 64
  (List.range 16).find? fun n =>
    h.flag (PROT_PATCH.VALID t n) && h.get (PROT_PATCH.COLUMN t n) == c % 64 && h.get (PROT_PATCH.LEVEL t n) == wordLevel w &&
      h.get (PROT_PATCH.ROW t n) == wordRow w && h.get (PROT_PATCH.WORD t n) == w % 32

def Hw.spare (h : Hw) (t n : Nat) : Word × Bool := tget (fun _ => (0, false)) (h.tower t).spares n

def Hw.setSpare (h : Hw) (t n : Nat) (d : Word) (poison : Bool) : Hw :=
  h.modTower t fun s => { s with spares := tset (fun _ => (0, false)) s.spares n (if poison then 0 else d, poison) }

/-! ## Reading and writing one word -/

/-- A word as the inner code delivers it, `flips` inverted on the vertical path; a patched word comes from its spare (R96, R113). -/
def Hw.readWord (h : Hw) (c w : Nat) (flips : Wires) : InnerCls × Word :=
  match h.patchOf c w with
  | some n => if (h.spare (c / 64) n).2 then (.poison, 0) else (.clean, (h.spare (c / 64) n).1)
  | none =>
    innerDecode (h.rawWord c w ^^^ BitVec.ofNat 256 flips.toNat) (h.rawCheck c w ^^^ BitVec.ofNat 16 (flips.toNat / 2 ^ 256))

/-- Poison that the full list cannot hold: the overflow flag, until a complete pass of every tower has found the list complete (R118). -/
def Hw.poisonLost (h : Hw) : Hw :=
  let h : Hw := { h with poisonOver := true }
  foldUp 8 (fun t h => h.modTower t fun s => { s with missed := true, listed := false }) h

/-- The poison list with the word's address added; the overflow flag where it holds 2,048 (R118). -/
def Hw.listPoison (h : Hw) (c w : Nat) : Hw :=
  let h := h.count (PROT_ERRCNT.POISON_NEW (c / 64)) 1
  match h.dpaOf c (w * 32) with
  | none => h
  | some d =>
    if h.poison.contains d then h
    else if h.poison.length < 2048 then { h with poison := h.poison ++ [d] }
    else h.poisonLost

/-- The poison list without the word's address and its source. -/
def Hw.unlistPoison (h : Hw) (c w : Nat) : Hw :=
  if h.poison.isEmpty then h
  else match h.dpaOf c (w * 32) with
    | none => h
    | some d => { h with poison := h.poison.filter (· != d), host := { h.host with sources := h.host.sources.filter fun y => y.1 != d } }

/-- A listed address with a source other than Internal: 1 Scrub, 2 Injected (R398). -/
def Hw.poisonSource (h : Hw) (c w n : Nat) : Hw :=
  match h.dpaOf c (w * 32) with
  | some d => if h.poison.contains d then { h with host := { h.host with sources := h.host.sources.filter (fun y => y.1 != d) ++ [(d, n)] } } else h
  | none => h

/-- A whole word stored: the array, and the spare of a patched word (R98, R113); poison is listed, clean data unlist it (R118). -/
def Hw.storeWord (h : Hw) (c w : Nat) (d : Word) (poison : Bool) : Hw :=
  let h := h.putRaw c w d poison
  let h := match h.patchOf c w with
    | some n => h.setSpare (c / 64) n d poison
    | none => h
  if poison then h.listPoison c w else h.unlistPoison c w

/-! ## The repeat tracker and the patch table (R110, R113, R114) -/

/-- The tracker entry of a word. -/
def Hw.trackOf (h : Hw) (c w : Nat) : Option Nat :=
  let t := c / 64
  (List.range 64).find? fun n =>
    h.flag (PROT_TRACK.VALID t n) && h.get (PROT_TRACK.COLUMN t n) == c % 64 && h.get (PROT_TRACK.LEVEL t n) == wordLevel w &&
      h.get (PROT_TRACK.ROW t n) == wordRow w && h.get (PROT_TRACK.WORD t n) == w % 32

/-- Entry `n` of tower `t` freed. -/
def Hw.trackFree (h : Hw) (t n : Nat) : Hw :=
  if h.flag (PROT_TRACK.VALID t n) then
    ((h.setWord (PROT_TRACK.off t n) 0).put (PROT_STAT.TRACK_USED t) (h.get (PROT_STAT.TRACK_USED t) - 1)).modTower t
      fun s => { s with order := s.order.filter (· != n) }
  else h

/-- The entry to replace: lowest count, then oldest (R110). -/
def Hw.trackVictim (h : Hw) (t : Nat) : Nat :=
  ((h.tower t).order.foldl (fun best n => match best with
    | none => some n
    | some b => if h.get (PROT_TRACK.COUNT t n) < h.get (PROT_TRACK.COUNT t b) then some n else some b) none).getD 0

/-- The word's entry, made if absent (R110): its number, and the module after. -/
def Hw.trackMake (h : Hw) (c w : Nat) : Nat × Hw :=
  match h.trackOf c w with
  | some n => (n, h)
  | none =>
    let t := c / 64
    let freeN := (List.range 64).find? fun n => !h.flag (PROT_TRACK.VALID t n)
    let n := freeN.getD (h.trackVictim t)
    let h := if freeN.isSome then h else h.trackFree t n
    let h := (h.setWord (PROT_TRACK.off t n) 0).puts [(PROT_TRACK.VALID t n, 1), (PROT_TRACK.COLUMN t n, c % 64),
      (PROT_TRACK.LEVEL t n, wordLevel w), (PROT_TRACK.ROW t n, wordRow w), (PROT_TRACK.WORD t n, w % 32)]
    (n, (h.put (PROT_STAT.TRACK_USED t) (h.get (PROT_STAT.TRACK_USED t) + 1)).modTower t fun s => { s with order := s.order ++ [n] })

/-- PROT_PATCH_FULL for a hard word that has no spare: when it becomes hard, and once in each later patrol pass of the tower (R114). -/
def Hw.hardReport (h : Hw) (c w : Nat) : Hw :=
  if (h.tower (c / 64)).hard.any fun x => x.1 == c && x.2.1 == w && x.2.2 then h
  else (h.modTower (c / 64) fun s => { s with hard := s.hard.filter (fun x => !(x.1 == c && x.2.1 == w)) ++ [(c, w, true)] }).ev
    0x226 1 4 c (wlocOf c w) (h.dpaArg c w)

/-- A hard word takes a free patch entry with its data (R113), or is reported where the table is full (R114). -/
def Hw.patchWord (h : Hw) (c w : Nat) (d : Word) (poison : Bool) : Hw :=
  let t := c / 64
  if (h.patchOf c w).isSome then h
  else match (List.range 16).find? fun n => !h.flag (PROT_PATCH.VALID t n) with
    | none => (h.put (PROT_STAT.PATCH_FULL t) 1).hardReport c w
    | some n =>
      let h := h.puts [(PROT_PATCH.VALID t n, 1), (PROT_PATCH.COLUMN t n, c % 64), (PROT_PATCH.LEVEL t n, wordLevel w),
        (PROT_PATCH.ROW t n, wordRow w), (PROT_PATCH.WORD t n, w % 32), (PROT_STAT.PATCH_USED t, h.get (PROT_STAT.PATCH_USED t) + 1)]
      let h := (h.setSpare t n d poison).modTower t fun s => { s with unsaved := s.unsaved ++ [n] }
      let h := match h.trackOf c w with
        | some m => h.trackFree t m
        | none => h
      h.ev 0x225 0 4 c (wlocOf c w) n

/-- A correction of a data word counted (R110); the word may become hard. `d` is its corrected data. -/
def Hw.trackCorrection (h : Hw) (c w : Nat) (d : Word) : Hw :=
  let t := c / 64
  let h := h.count (PROT_ERRCNT.CORR t) 1
  let (n, h) := h.trackMake c w
  let k := h.get (PROT_TRACK.COUNT t n) + 1
  let hard := h.flag (PROT_TRACK.REWRITTEN t n) || decide (k ≥ 8)
  let h := h.put (PROT_TRACK.COUNT t n) (min k 8)
  if hard then h.patchWord c w d false else h

/-- The word's entry marked rewritten, made if absent (R106, R111). -/
def Hw.trackRewritten (h : Hw) (c w : Nat) : Hw :=
  let (n, h) := h.trackMake c w
  h.put (PROT_TRACK.REWRITTEN (c / 64) n) 1

/-- Whether the word's entry has REWRITTEN set. -/
def Hw.isRewritten (h : Hw) (c w : Nat) : Bool :=
  match h.trackOf c w with
  | some n => h.flag (PROT_TRACK.REWRITTEN (c / 64) n)
  | none => false

/-! ## Rows and the outer code (R101 to R103) -/

/-- Words of row sequence `n`, with their classes. -/
def Hw.rowWords (h : Hw) (c n : Nat) : List (InnerCls × Word) := (List.range 32).map fun i => h.readWord c (n * 32 + i) 0

/-- The outer decoder over row sequence `n` (R101): poisoned words as zero, patched words from their spares. -/
def Hw.decodeRow (h : Hw) (c n : Nat) : Option (List Word × Nat) :=
  let ws := h.rowWords c n
  let bad := (List.range 32).filter fun i => (ws.getD i (.clean, 0)).1 == .bad
  outerDecode (ws.map fun x => if x.1 = .poison then 0 else x.2) (h.rawOuter c n) bad

/-- The check transfer written for the row as it stands (R100, R102). -/
def Hw.encodeRow (h : Hw) (c n : Nat) : Hw :=
  let ws := (h.rowWords c n).map fun x => if x.1 = .poison then 0 else x.2
  { h with dram := Memory.writeLE h.dram (outerAddr c n) 32 (outerCheck ws) }

/-- A word of an open dirty row that the inner code cannot correct (R103): PROT_STALE, and the word is written poisoned unless a
write to it entered the queues after the failing read (R112). A rewritten word becomes hard (R110). -/
def Hw.staleWord (h : Hw) (c w after : Nat) : Hw :=
  let was := h.isRewritten c w
  let h := h.ev 0x224 2 4 c (wlocOf c w) (h.dpaArg c w)
  let h := if (h.col c).wq.any fun q => q.r.word == w && decide (q.id > after) then h else h.storeWord c w 0 true
  if was then h.patchWord c w 0 true else h

/-- A slow path whose word a re-encode has found uncorrectable ends as the failing read of a stale word (R103). -/
def Hw.slowStale (h : Hw) (c w : Nat) : Hw :=
  h.modCol c fun s => { s with lost := s.lost ++ (s.slow.filter fun x => x.word == w).map (·.id) }

/-! ## Corrections by wire (R88, R110) -/

/-- A correction at wire `wire` of a level, from a data or a calibration row (R88): true where the wire-level is suspect already, so that it
counts as an interface correction; more than 8 of one wire-level within 1 ms make it suspect. -/
def Hw.wireCorr (h : Hw) (c level wire : Nat) : Bool × Hw :=
  let wl := level * 272 + wire
  let s := h.col c
  let recent := (s.corr.filter fun x => decide (h.time - x.2 < 100000)) ++ [(wl, h.time)]
  let h := h.modCol c fun s => { s with corr := recent }
  if s.suspect.contains wl then (true, h.count (FZ_COL_B.IFACE_CORR c) 1)
  else if (recent.filter fun x => x.1 == wl).length > 8 then
    let h := h.modCol c fun s => { s with suspect := s.suspect ++ [wl] }
    (false, ((h.put (FZ_COL_A.ANY_SUSPECT c) 1).put (FZ_COL_A.INTERVAL c) 1).ev 0x212 1 4 c (level + wire * 2 ^ 8) 0)
  else (false, h)

/-- A correction of a data word: counted by the repeat tracker unless it is an interface correction (R88, R110). The correction that makes its
wire-level suspect is counted by the tracker too, since the wire-level was not suspect when it was made (DESIGN CHOICE, log 55). -/
def Hw.correction (h : Hw) (c w wire : Nat) (d : Word) : Hw :=
  let (iface, h) := h.wireCorr c (wordLevel w) wire
  if iface then h else h.trackCorrection c w d

/-! ## The sampler (R79 to R81) -/

/-- Key of a counter. -/
def sampleKey (wire level side : Nat) : Nat := (wire * 6 + level) * 2 + side

def Col.samp (s : Col) (wire level side : Nat) : Nat × Nat := tget (fun _ => (0, 0)) s.samples (sampleKey wire level side)

/-- One sampled transfer of a level: `bad` are the wires of the group whose sample at the trial delay differs from the known bit. -/
def Hw.sample (h : Hw) (c level : Nat) (bad : BitVec 16) : Hw :=
  let g := h.get (FZ_COL_A.GROUP c)
  let s := h.col c
  let full := fun side => decide ((s.samp (16 * g) level side).1 ≥ 64)
  if full 0 && full 1 then h
  else
    let want := bnat (s.side.getD level false)
    let side := if full want then 1 - want else want
    let t := foldUp 16 (fun i t =>
        let k := sampleKey (16 * g + i) level side
        let (n, e) := tget (fun _ => (0, 0)) t k
        tset (fun _ => (0, 0)) t k (n + 1, e + bnat (bad.getLsbD i))) s.samples
    let s : Col := { s with side := listSet s.side level (side == 0), samples := t }
    let all := (List.range 6).all fun l => decide ((s.samp (16 * g) l 0).1 ≥ 64) && decide ((s.samp (16 * g) l 1).1 ≥ 64)
    if ¬ all then h.setCol c s
    else if g = 16 then
      (h.setCol c { s with kept := s.samples, samples := [] }).puts [(FZ_COL_A.PASS_KEPT c, 1), (FZ_COL_A.GROUP c, 0)]
    else (h.setCol c s).put (FZ_COL_A.GROUP c) (g + 1)

/-- The transfer of a word of class `cls` sampled (R80): only a clean or corrected word counts. Between a clock restart and the end of the
column's verification no sample is taken (R92). -/
def Hw.sampleRead (h : Hw) (c level : Nat) (cls : InnerCls) (bad : BitVec 16) : Hw :=
  if h.mode.verify.contains c then h
  else match cls with
    | .clean => h.sample c level bad
    | .corrected _ => h.sample c level bad
    | _ => h

/-! ## Rows read and closed (R102, R103, R110) -/

/-- The corrections that a reading of the whole row makes, each counted (R110) and each word sampled, with no sample that differs (R80); `skip` is a
word whose own reading has been counted. -/
def Hw.rowCorrections (h : Hw) (c n : Nat) (skip : Option Nat) : Hw :=
  foldUp 32 (fun i h => if skip = some (n * 32 + i) then h
    else
      let (x, d) := h.readWord c (n * 32 + i) 0
      let h := h.sampleRead c (n % 6) x 0
      match x with
      | .corrected wire => h.correction c (n * 32 + i) wire d
      | _ => h) h

/-- The open row of a bank. -/
def Col.openOf (s : Col) (level : Nat) : Option OpenRow := s.rows.find? fun r => r.level == level

/-- The bank's row closed: a dirty row is read back and its check bytes are written (R102, R103). -/
def Hw.closeRow (h : Hw) (c level : Nat) : Hw :=
  match (h.col c).openOf level with
  | none => h
  | some r =>
    let h := h.modCol c fun s => { s with rows := s.rows.filter fun x => x.level != level }
    if r.dirty ∨ r.inl > 0 then
      let n := r.row * 6 + level
      let h := foldUp 32 (fun i h => if (h.readWord c (n * 32 + i) 0).1 = .bad then (h.staleWord c (n * 32 + i) h.ids).slowStale c (n * 32 + i) else h) h
      (h.rowCorrections c n none).encodeRow c n
    else h

/-- Every row of the column closed. -/
def Hw.closeRows (h : Hw) (c : Nat) : Hw := foldUp 6 (fun l h => h.closeRow c l) h

/-- Whether the word's row is open. -/
def Hw.rowHit (h : Hw) (c w : Nat) : Bool :=
  match (h.col c).openOf (wordLevel w) with
  | some r => r.row == wordRow w
  | none => false

/-- Whether the word's row is open and its check bytes do not describe it (R103). -/
def Hw.rowDirty (h : Hw) (c w : Nat) : Bool :=
  match (h.col c).openOf (wordLevel w) with
  | some r => r.row == wordRow w && (r.dirty || decide (r.inl > 0))
  | none => false

/-- A row activated in a closed bank; a non-PACED activation is noted for the activation window, and counted in a PACED burst (R47, R55). -/
def Hw.activate (h : Hw) (c level row : Nat) (paced : Bool) : Hw :=
  let at' := h.mode.frame
  let h := h.modCol c fun s => { s with rows := s.rows ++ [⟨level, row, false, 0⟩], lastAct := if paced then s.lastAct else some at' }
  if ¬ paced ∧ h.flag (TMC_COL_B.PBURST c) then h.count (TEL_COL_B.ACTS c) 1 else h

/-- Whether the activation window permits a non-PACED activation now (R55): outside a PACED burst always; inside, once in ACT_WIN frames. -/
def Hw.windowOpen (h : Hw) (c : Nat) : Bool :=
  !h.flag (TMC_CTRL.PACED_ON (c / 64)) || !h.flag (TMC_COL_B.PBURST c) ||
    (match (h.col c).lastAct with
      | none => true
      | some n => decide ((h.mode.frame : Int) - n ≥ 64 * h.get (TMC_COL_B.ACT_WIN c)))

/-- The word's row opened, its bank's other row closed (R47). -/
def Hw.openRow (h : Hw) (c w : Nat) (cls : Cls) : Hw :=
  if h.rowHit c w then h
  else
    let h := h.closeRow c (wordLevel w)
    h.activate c (wordLevel w) (wordRow w) (cls == .paced)

/-- The open row after a write to word `w`: the next step of an inline series of 32 whole words, or dirty (R102). -/
def Hw.rowWritten (h : Hw) (c w : Nat) (whole : Bool) : Hw :=
  match (h.col c).openOf (wordLevel w) with
  | none => h
  | some r =>
    let put := fun (h : Hw) (r' : OpenRow) =>
      h.modCol c fun s => { s with rows := s.rows.map fun x => if x.level = r.level then r' else x }
    if whole ∧ ¬ r.dirty ∧ r.inl = w % 32 then
      if r.inl = 31 then
        let h := h.encodeRow c (w / 32)
        h.modCol c fun s => { s with rows := s.rows.filter fun x => x.level != r.level }
      else put h { r with inl := r.inl + 1 }
    else put h { r with dirty := true, inl := 0 }

/-- A word written through its row (R102). -/
def Hw.writeThrough (h : Hw) (c w : Nat) (d : Word) (poison : Bool) (cls : Cls) : Hw :=
  ((h.openRow c w cls).storeWord c w d poison).rowWritten c w true

/-- PROT_POISON for a word lost to the outer code (R106, R111). -/
def Hw.poisonEvent (h : Hw) (c w : Nat) : Hw := h.ev 0x223 2 4 c (wlocOf c w) (h.dpaArg c w)

end Sys2Proof.Machine
end

