-- ==== Sys2Proof/Machine/Stop.lean ====
section
/-!
DEFINITION. Sizes of tensors in memory (R150 to R156), the fields of a transfer entry (R283), and the stop of a DMA channel with its aborted
objects (R197, R285).
-/
namespace Sys2Proof.Machine

/-- The signal route entry `i` of core `c`. -/
def Hw.route (h : Hw) (c i : Nat) : Nat := h.sread (sramScalar c + 0xBE00 + 8 * i) 8

/-! ## A channel that stops (R197, R285) -/

/-- Kept values and position bits of a block (R150). -/
def keptOf (s : Nat) : Nat := if s = 1 then 16 else if s = 2 ∨ s = 3 then 8 else 32
def posBits (s : Nat) : Nat := if s = 3 then 3 else if s = 1 ∨ s = 2 then 2 else 0

/-- Words of a packet (R153). -/
def packetWords (width s : Nat) : Nat :=
  match width, s with
  | 4, 1 => 3 | 4, 2 => 3 | 4, _ => 7
  | 6, 1 => 1 | 6, 2 => 1 | 6, _ => 9
  | _, 1 => 5 | _, 2 => 5 | _, _ => 11

/-- Blocks of a packet (R153): P. -/
def packetBlocks (width s : Nat) : Nat := packetWords width s * 256 / (keptOf s * (width + posBits s))

/-- Size of dimension `k` of a descriptor. -/
def descSize (d : BitVec 512) (k : Nat) : Nat := if k < bitsOf d.toNat 1 3 then bitsOf d.toNat (164 + 26 * k) 26 else 1
def typeBits (t : Nat) : Nat :=
  match t with
  | 0x0 => 32 | 0x1 => 16 | 0x2 => 16 | 0xA => 4 | 0x8 => 6 | 0x9 => 6 | 0xC => 32 | 0xD => 64 | _ => 8
def descElems (d : BitVec 512) : Nat := (List.range 6).foldl (fun n k => n * descSize d k) 1
def descType (d : BitVec 512) : Nat := bitsOf d.toNat 4 4
def descSparse (d : BitVec 512) : Nat := bitsOf d.toNat 8 3
/-- Bytes that a tensor's elements take in element order: packed elements, whole packets (R153), or the window of a block-sparse tensor (R156). -/
def descBytes (d : BitVec 512) : Nat :=
  let w := typeBits (descType d)
  if descSparse d = 0 then (descElems d * w + 7) / 8
  else if descSparse d = 4 then bitsOf d.toNat 128 36 * 32
  else
    let span := 32 * packetBlocks w (descSparse d)
    (descElems d + span - 1) / span * packetWords w (descSparse d) * 32

/-! Fields of a transfer entry (R283). -/
def entKind (e : BitVec 128) : Nat := bitsOf e.toNat 0 8
def entSrc (e : BitVec 128) : Nat := bitsOf e.toNat 8 8
def entDst (e : BitVec 128) : Nat := bitsOf e.toNat 16 8
def entTh (e : BitVec 128) : Nat := bitsOf e.toNat 24 6 + 1
def entTw (e : BitVec 128) : Nat := bitsOf e.toNat 30 6 + 1
def entChunk (e : BitVec 128) : Nat := 2 ^ bitsOf e.toNat 36 4
def entSobj (e : BitVec 128) : Nat := bitsOf e.toNat 40 6
def entSen (e : BitVec 128) : Bool := bitAt e.toNat 46
def entNode (e : BitVec 128) : Nat := bitsOf e.toNat 48 18
def entRcore (e : BitVec 128) : Nat := bitsOf e.toNat 66 6
def entRobj (e : BitVec 128) : Nat := bitsOf e.toNat 72 6

def Batch.desc (b : Batch) (n : Nat) : BitVec 512 := ((b.descs.find? fun x => x.1 == n).map (·.2)).getD 0
/-- Blocks of entry `i`. -/
def Batch.blocks (b : Batch) (i : Nat) : Nat := (descBytes (b.desc (entDst (b.entries.getD i 0))) + 255) / 256
/-- Chunks of entry `i`. -/
def Batch.chunkCount (b : Batch) (i : Nat) : Nat := (b.blocks i + entChunk (b.entries.getD i 0) - 1) / entChunk (b.entries.getD i 0)

/-- An object of leader `c` marked aborted: no change of it will come from the stopped batch. A stream that stands waiting on it halts with code
0x11 (R197, R285). -/
def Hw.abortObj (h : Hw) (c obj : Nat) : Hw :=
  if obj > 47 then h
  else
    let on := fun (w : Option Wait) => match w with
      | some w => (w.kind == 1 || w.kind == 2) && w.idx == obj && !w.released
      | none => false
    let s := h.core c
    let stood := ((h.members c).filter fun m => on (h.core m).await).map fun m => (m, (h.core m).apc)
    let h := h.put (SYNC_VAL.ABORTED c obj) 1
    let h := if on s.xwait then h.halt c 0x11 { stream := 0, pc := s.xpc } else h
    let h := if on s.swait then h.halt c 0x11 { stream := 2, pc := s.spc } else h
    stood.foldl (fun h x => h.halt x.1 0x11 { stream := 1, pc := x.2 }) h

/-- The end of a channel that a request to host memory is for. -/
def IoDest.chan? : IoDest → Option Nat
  | .chanRead k _ _ _ => some k
  | .chanWrite k _ _ => some k
  | _ => none

/-- The requests to host memory of channel `k`'s batch are nobody's: those that wait are dropped, and what comes of those in flight goes nowhere. -/
def Hw.dropChanIo (h : Hw) (k : Nat) : Hw :=
  h.modHost fun x => { x with ioWait := x.ioWait.filter fun r => r.dest.chan? != some k,
                              io := x.io.map fun r => if r.dest.chan? = some k then { r with dest := .gone } else r }

/-- Where a DMA word of a core stands. -/
def CoreSt.dmaAt (s : CoreSt) (id : Nat) : Nat × Nat := ((s.dmas.find? fun d => d.id == id).map fun d => (d.pc, d.tag)).getD (0, 0)

/-- Channel `k` stops with a code (R285): the objects its batch would still have signalled are aborted, also through
a route or by a PUT_SIG to this module (R360); its word's signal is dropped. The issuing core halts with the code first, then with 0x11 a core that waits on such an object (R197). -/
def Hw.chanStop (h : Hw) (k code : Nat) : Hw :=
  match (h.chan k).run with
  | none => h
  | some b =>
    let l := h.leader b.core
    let mine := fun (d : DefSig) => d.cond == .ofWord b.word || d.cond == .accepted b.word
    let sigs := (h.core b.core).adef.filter mine
    let at' := (h.core b.core).dmaAt b.word
    let h := h.modCore b.core fun s => { s with adef := s.adef.filter fun d => !mine d }
    let h := ((h.dropChanIo k).modChan k fun s => { s with run := none, restart := none }).puts [(DMA_STAT.STATE k, 3), (DMA_STAT.CODE k, code)]
    let h := h.halt b.core code { stream := 3, pc := at'.1, tag := at'.2 }
    let h := (List.range b.entries.length).foldl (fun h i =>
      let e := b.entries.getD i 0
      let h := if entSen e ∧ b.chunks.getD i 0 < b.chunkCount i then h.abortObj l (entSobj e) else h
      if entKind e = 5 ∧ entNode e = h.node ∧ b.sigs.getD i 0 = 0 then h.abortObj (h.leader (entRcore e)) (entRobj e) else h) h
    sigs.foldl (fun h d =>
      if d.kind = 1 then h.abortObj l d.idx
      else if d.kind = 2 then
        let r := h.route b.core d.idx
        if bitAt r 0 ∧ bitsOf r 1 2 = 0 ∧ bitsOf r 8 8 < 64 then h.abortObj (h.leader (bitsOf r 8 8)) (bitsOf r 16 6) else h
      else h) h

end Sys2Proof.Machine
end

