-- ==== Sys2Proof/Machine/Deliver.lean ====
section
/-!
DEFINITION. What becomes of the outcome of a column request: words and late markers in queue entries (R107, R210), host lines (R380),
acknowledgements (R280) and command errors (R73).
-/
namespace Sys2Proof

/-- Whether a delivery leaves the memory for the host, a core or a remote requester (R116). -/
def ReqSrc.outside : ReqSrc → Bool
  | .spill _ | .fill _ | .scrub | .upkeep => false
  | _ => true

end Sys2Proof

namespace Sys2Proof.Machine

/-- `width` bits of a word replaced. -/
def setWordBits (w : Word) (lo width v : Nat) : Word :=
  let m : Word := BitVec.ofNat 256 ((2 ^ width - 1) * 2 ^ lo)
  (w &&& ~~~ m) ||| BitVec.ofNat 256 (v % 2 ^ width * 2 ^ lo)

/-- Bits `p.src` on of `w` put at `p.dst mod 256` of `d`. -/
def placeBits (d w : Word) (p : Place) : Word := setWordBits d (p.dst % 256) p.len (bitsOf w.toNat p.src p.len)

/-- A word's share of one position of an entry; `late` where a late marker stood for the word (R210). -/
def Slot.take (s : Slot) (w : Word) (mark late : Bool) (ps : List Place) : Slot :=
  { s with data := ps.foldl (fun d p => placeBits d w p) s.data, pending := s.pending - 1, mark := s.mark || mark, late := s.late - bnat late }

/-- An entry that holds a late word (R108). -/
def QEnt.late (e : QEnt) : Bool := e.slots.any fun s => s.late != 0

/-- The positions of an entry changed where a word has bits for them. -/
def QEnt.update (e : QEnt) (ps : List Place) (f : List Place → Slot → Slot) : QEnt :=
  { e with slots := (List.range e.slots.length).zipWith (fun j s =>
      let here := ps.filter fun p => p.dst / 256 == j
      if here.isEmpty then s else f here s) e.slots }

/-- A queue of a core. -/
def CoreSt.queue (s : CoreSt) (q : Nat) : List QEnt := tget (fun _ => []) s.q q
def CoreSt.setQueue (s : CoreSt) (q : Nat) (l : List QEnt) : CoreSt := { s with q := tset (fun _ => []) s.q q l }

/-- Entry `ent` of a core's queue changed. -/
def Hw.modEnt (h : Hw) (c q ent : Nat) (f : QEnt → QEnt) : Hw :=
  h.modCore c fun s => s.setQueue q ((s.queue q).map fun e => if e.id = ent then f e else e)

/-- The armed word with number `id` of a core. -/
def CoreSt.armedOf (s : CoreSt) (id : Nat) : Option Armed := s.armed.find? fun a => a.id == id

def CoreSt.modArmed (s : CoreSt) (id : Nat) (f : Armed → Armed) : CoreSt :=
  { s with armed := s.armed.map fun a => if a.id = id then f a else a }

/-- The access word whose stream owns an entry of a core, for halts. -/
def CoreSt.wordOfEnt (s : CoreSt) (q ent : Nat) : Nat :=
  match (s.queue q).find? fun e => e.id == ent with
  | some e => e.word.getD 0
  | none => 0

/-- Offset and tag of an access word that is still armed (0 where it is not). -/
def CoreSt.wordAt (s : CoreSt) (id : Nat) : Nat × Nat :=
  match s.armedOf id with
  | some a => (a.pc, a.tag)
  | none => (0, 0)

/-- A read word or a late marker reaches an entry, and the entries that R168 serves from the same read. -/
def Hw.toEntry (h : Hw) (c q ent : Nat) (ps : List Place) (f : List Place → Slot → Slot) (keep : KeptRead → KeptRead) : Hw :=
  let hit := fun (r : KeptRead) => r.ent == ent && r.places == ps
  let next := ((h.core c).armed.flatMap fun a => a.kept.filter hit).flatMap (·.next)
  let h := h.modCore c fun s => { s with armed := s.armed.map fun a => { a with kept := a.kept.map fun r => if hit r then keep r else r } }
  ((ent, ps) :: next).foldl (fun h n => h.modEnt c q n.1 fun e => e.update n.2 f) h

/-- A read word in its entry. -/
def Hw.wordTo (h : Hw) (c q ent : Nat) (ps : List Place) (w : Word) (mark late : Bool) : Hw :=
  h.toEntry c q ent ps (fun here s => s.take w mark late here) fun r => { r with val := some (w, mark), next := [] }

/-- The two words of a host line that have arrived, and MemData once both have (R380). -/
def Hw.hostWord (h : Hw) (tag : Nat) (half : Bool) (w : Word) (poison : Bool) : Hw :=
  let l := (h.lines.find? fun l => l.tag == tag).getD ⟨tag, none, none⟩
  let l : LineRead := if half then { l with hi := some (w, poison) } else { l with lo := some (w, poison) }
  let rest := h.lines.filter fun l => l.tag != tag
  match l.lo, l.hi with
  | some (a, p), some (b, q) =>
    { h with lines := rest }.send (.memData tag (if p || q then 0 else b ++ a) (p || q))
  | _, _ => { h with lines := rest ++ [l] }

/-- PROT_POISON_READ for a delivery of a poisoned word (R116). A word that no region maps has no device physical address: the event names 0
(DESIGN CHOICE, log 55). -/
def Hw.poisonRead (h : Hw) (c w req : Nat) : Hw := h.evC 0x227 2 0 0 (((h.dpaOf c (w * 32)).getD 0) % 2 ^ 40) req

/-- The outcome of a read handed to its requester; `late` where a late marker went before it. -/
def Hw.deliver (h : Hw) (q : QReq) (w : Word) (poison late : Bool) : Hw :=
  let h := if poison && q.r.src.outside then h.poisonRead q.r.col q.r.word q.r.req else h
  match q.r.src with
  | .host tag half =>
    let h := if h.time - q.t0 > h.get (TMC_HOST.HOST_TGT (q.r.col / 64)) then h.count (TEL_COL_B.HMISS q.r.col) 1 else h
    h.hostWord tag half w poison
  | .queue c k ent ps => h.wordTo c k ent ps w poison late
  | .index c id => h.modCore c fun s => s.modArmed id fun a => { a with idxGot := a.idxGot ++ [((some q.r.col.val, q.r.word), w, poison)] }
  | _ => h

/-- A late marker in place of a word (R105, R107, R210). -/
def Hw.lateMark (h : Hw) (q : QReq) : Hw :=
  match q.r.src with
  | .queue c k ent ps => h.toEntry c k ent ps (fun _ s => { s with late := s.late + 1 }) fun r => { r with late := true }
  | _ => h

/-- A write acknowledged: its sequencer has queued it (R280, R380). -/
def Hw.ackWrite (h : Hw) (r : ColReq) : Hw :=
  match r.src with
  | .drain c word => h.modCore c fun s => s.modArmed word fun a => { a with acks := a.acks - 1 }
  | .hostWrite tag true => h.send (.memCmp tag)
  | _ => h

/-! ## Host memory (R286 to R289) -/

/-- A CXL.io request sent under its translation. -/
def Hw.ioSend (h : Hw) (r : IoReq) (addr : Nat) : Hw :=
  (h.modHost fun x => { x with io := x.io ++ [r] }).send (if r.write then .ioWrite r.id addr r.data r.poison else .ioRead r.id addr r.n)

/-- Whether a cached translation is of a page. -/
def AtcEnt.covers (e : AtcEnt) (p : Nat) : Bool := decide (e.page ≤ p) && decide (p < e.page + e.span)

/-- A request of an engine access to host memory: sent untranslated where ATS is off, sent under a cached translation, or held while its
page is asked for. -/
def Hw.ioAccess (h : Hw) (addr n : Nat) (write : Bool) (data : List Byte) (dest : IoDest) (poison : Bool := false) : Hw :=
  let (id, h) := h.nextId
  let r : IoReq := ⟨id, addr, n, write, data, dest, poison⟩
  let p := addr / 4096
  if ¬ h.host.ats then h.ioSend r addr
  else match h.host.atc.find? fun (e : AtcEnt) => e.covers p && (if write then e.write else e.read) with
    | some e => h.ioSend r ((e.phys + (p - e.page)) * 4096 + addr % 4096)
    | none =>
      let h := h.modHost fun x => { x with ioWait := x.ioWait ++ [r] }
      if h.host.asked.contains p ∨ h.host.paging.contains p then h
      else (h.modHost fun x => { x with asked := x.asked ++ [p] }).send (.atsRequest p write)

/-! ## Command errors (R73) -/

/-- CID of a submission entry (R388). -/
def sqCid (e : BitVec 512) : Nat := bitsOf e.toNat 16 16

/-- A completion of window `w`'s running command (R393). -/
def Hw.complete (h : Hw) (w : Nat) (e : BitVec 512) (status detail : Nat) : Hw :=
  h.modWin w fun s => { s with run := none, done := s.done ++ [⟨sqCid e, status, detail % 2 ^ 32, 0, h.get IMG_LAP.LAP, h.time⟩] }

/-- The command that a window runs ends, where one runs. -/
def Hw.completeRun (h : Hw) (w status detail : Nat) : Hw :=
  match (h.win w).run with
  | some e => h.complete w e status detail
  | none => h

/-- A request ended with a command error: what its requester sees (R73, R120). A fill's and the patrol's outcomes are their sequencer's
(Hw.reissue, Hw.scrubRow). -/
def Hw.cmdError (h : Hw) (q : QReq) : Hw :=
  match q.r.src with
  | .host tag half => h.hostWord tag half 0 true
  | .hostWrite _ _ => ((h.modHost fun x => { x with rasInternal := true }).send (.err 1 q.r.word)).raise 0
  | .queue c k ent _ =>
    let s := h.core c
    let at' := s.wordAt (s.wordOfEnt k ent)
    h.halt c 0x18 { stream := 1, pc := at'.1, tag := at'.2, queue := k }
  | .drain c word | .index c word => h.halt c 0x18 { stream := 1, pc := ((h.core c).wordAt word).1, tag := ((h.core c).wordAt word).2 }
  | .chan k => h.chanStop k 0x18
  | .window w => h.completeRun w 0x04 ((h.dpaOf q.r.col (q.r.word * 32)).getD 0)
  | .remote node tx core _ => h.sendFlit (mkFlit 7 node h.node 0x18 0 tx core 0 0 0 0)
  | .spill _ | .fill _ | .scrub | .upkeep => h

/-- A request that has not been queued ends with a command error; a host write completes to the host all the same (R73). -/
def Hw.refuse (h : Hw) (r : ColReq) : Hw := (h.cmdError { id := h.ids, r := r }).ackWrite r

end Sys2Proof.Machine
end

