-- ==== Sys2Proof/Machine/Sampler.lean ====
section
/-!
DEFINITION. The calibration of the vertical path on live traffic (R77 to R94): trims, calibration rows, the shadow sampler, feed zones.
-/
namespace Sys2Proof.Machine

/-! ## Trims and trial delays (R77, R79) -/

/-- The trim of a wire-level in a gear's set, as steps above -64. -/
def Col.trim (s : Col) (gear level wire : Nat) : Nat := tget (fun _ => 64) s.trims ((gear * 6 + level) * 272 + wire)

/-- The probe offset P of a gear, in steps of 1.5 ps (R79). -/
def probeOffset (gear : Nat) : Nat := [24, 27, 32, 38, 47].getD gear 47

/-- The trial delay of a side: trim - P (side 0) or trim + P (side 1), in steps about the delay set at manufacture. -/
def Col.trial (s : Col) (gear level wire side : Nat) : Int :=
  (s.trim gear level wire : Int) - 64 + (if side = 0 then -(probeOffset gear : Int) else probeOffset gear)

/-- A move of one step in every gear's set, each held at its bounds (R84). -/
def Col.move (s : Col) (level wire : Nat) (up : Bool) : Col :=
  let t := foldUp 5 (fun g t =>
      let k := (g * 6 + level) * 272 + wire
      let v := tget (fun _ => 64) t k
      tset (fun _ => 64) t k (if up then min 127 (v + 1) else v - 1)) s.trims
  { s with trims := t }

/-! ## Calibration rows (R78) -/

/-- The row of each bank that no address reaches. -/
def calRow : Nat := 196608

/-- A word of a calibration row as it stands: the pattern once the fill has written it. R78 gives it a pattern, R104 zero data: the model takes R78's
(DESIGN CHOICE, log 55). -/
def Hw.calWord (h : Hw) (c level i : Nat) : Word := if (h.col c).cal then Config.calWord ((c * 6 + level) * 32 + i) else 0

/-- A calibration word as the inner code delivers it, `flips` inverted on the way. -/
def Hw.readCal (h : Hw) (c level i : Nat) (flips : Wires) : InnerCls × Word :=
  let d := h.calWord c level i
  innerDecode (d ^^^ BitVec.ofNat 256 flips.toNat) (innerCheck d ^^^ BitVec.ofNat 16 (flips.toNat / 2 ^ 256))

/-- The outer check bytes of a calibration row, which the fill writes with it and nothing else ever writes (R78). -/
def Hw.calOuter (h : Hw) (c level : Nat) : Nat := outerCheck ((List.range 32).map fun i => h.calWord c level i)

/-! ## Discarding (R92) -/

/-- Every counter and kept pass discarded (R92). -/
def Hw.discardSamples (h : Hw) (c : Nat) : Hw :=
  (h.modCol c fun s => { s with samples := [], kept := [] }).puts [(FZ_COL_A.PASS_KEPT c, 0), (FZ_COL_A.GROUP c, 0)]

/-! ## Deciding (R82 to R84) -/

/-- A wire-level marked suspect (R91). -/
def Hw.markSuspect (h : Hw) (c level wire : Nat) : Hw :=
  let k := level * 272 + wire
  if (h.col c).suspect.contains k then h
  else (h.modCol c fun s => { s with suspect := s.suspect ++ [k] }).puts [(FZ_COL_A.ANY_SUSPECT c, 1), (FZ_COL_A.INTERVAL c, 1)]

/-- Whether the counts ask for a move up, or down. -/
def ZoneCell.up (x : ZoneCell) : Bool := decide (x.eL > x.eR + 2)
def ZoneCell.down (x : ZoneCell) : Bool := decide (x.eR > x.eL + 2)

/-- Whether the move would pass the bound of the set in use. -/
def Col.stuck (s : Col) (gear : Nat) (x : ZoneCell) : Bool :=
  (x.up && decide (s.trim gear x.level x.wire ≥ 127)) || (x.down && decide (s.trim gear x.level x.wire = 0))

/-- One wire-level decided (R84, R88). Where the set in use stands at its bound, the sets of the other gears still move, each clamped at its
own bound, since R84 applies the same move to them all (DESIGN CHOICE, log 55). -/
def Hw.decideWire (c : Nat) (h : Hw) (x : ZoneCell) : Hw :=
  let s := h.col c
  let stuck := s.stuck (h.get PWR_GEAR.GEAR) x
  let low := (decide (x.eL > 0) && decide (x.eR > 0)) || stuck
  let k := x.level * 272 + x.wire
  let s := if x.up || x.down then s.move x.level x.wire x.up else s
  let h := h.setCol c { s with shown := tset (fun _ => (0, 0, false)) s.shown k (x.eL, x.eR, low), suspect := if low then s.suspect else s.suspect.filter (· != k),
                               zone := { s.zone with moved := s.zone.moved + bnat ((x.up || x.down) && !stuck), lows := s.zone.lows + bnat low } }
  if low then (h.mark (FZ_COL_A.ANY_LOW c)).ev 0x211 0 4 c (x.level + x.wire * 2 ^ 8) (x.eL + x.eR * 2 ^ 8)
  else h.put (FZ_COL_A.ANY_SUSPECT c) (bnat !(h.col c).suspect.isEmpty)

/-- The wire-levels of a pass whose two counters are full, in group order. -/
def fullCells (t : Tab (Nat × Nat)) : List ZoneCell :=
  (List.range 1632).filterMap fun i =>
    let cell := fun side => tget (fun _ => (0, 0)) t (sampleKey (i / 6) (i % 6) side)
    if (cell 0).1 ≥ 64 ∧ (cell 1).1 ≥ 64 then some ⟨i / 6, i % 6, (cell 0).2, (cell 1).2⟩ else none

/-! ## Feed zones (R85 to R89, R93) -/

/-- The sensors that bring a column's feed zone forward: its tower die's nine and two of each of its array dies (R83, R440). -/
def colSensors (c : Nat) : List Nat := ((List.range 9).map fun k => 9 * (c / 64) + k) ++ ((List.range 12).map fun k => 72 + 12 * (c / 64) + k)

/-- Whether the calibration row of a level is open, or may be activated (R55, R86): no refresh flushes the bank, no PACED request is queued to it
and the activation window permits it. -/
def Hw.calReady (h : Hw) (c l : Nat) : Bool :=
  let s := h.col c
  s.flushQ.head? != some l && !s.failed.contains l &&
    (s.rows.any (fun y => y.level == l && y.row == calRow) ||
      (!(s.rq ++ s.wq).any (fun q => q.r.cls == .paced && wordLevel q.r.word == l) && h.windowOpen c))

/-- The level that a pattern burst reads after level `last`: the next of the rotation that is ready (R86). -/
def Hw.calNext (h : Hw) (c last : Nat) : Option Nat := ((List.range 6).map fun i => (last + 1 + i) % 6).find? fun l => h.calReady c l

/-- One read of a pattern burst (R86): its level's calibration row is open or is activated; a corrected word is counted by wire and level (R88). The
levels are read in rotation; with which the burst begins the spec leaves open. `x` holds the level read before. -/
def Hw.burstRead (c : Nat) (x : Option Nat × Hw) (r : BurstRead) : Option Nat × Hw :=
  let h := x.2
  let l := r.level.val
  let turn : Bool := match x.1 with
    | none => h.calReady c l
    | some last => h.calNext c last == some l
  if h.flag (FZ_COL_A.PASS_KEPT c) ∨ ¬ turn then x
  else
    let h := if (h.col c).rows.any (fun y => y.level == l && y.row == calRow) then h else (h.closeRow c l).activate c l calRow false
    let cls := (h.readCal c l r.word r.flips).1
    let h := match cls with
      | .corrected wire => (h.wireCorr c l wire).2
      | _ => h
    (some l, h.sampleRead c l cls r.shadow)

/-- The calibration rows of a column closed. -/
def Hw.calClose (h : Hw) (c : Nat) : Hw := h.modCol c fun s => { s with rows := s.rows.filter fun y => y.row != calRow }

/-- A feed zone begins (R85, R89): vertical interface training has ended, the tower's interface and array are powered and the clock runs. Where no
pass is kept, a pattern burst fills counters from where the sampler stands. The wire-levels whose counters are full are taken for decision. With a
pass kept, the counters of a newer pass under way are left to a later zone; without one, the counters taken are cleared, also those of the group on
which the sampler stands (DESIGN CHOICE, log 55). -/
def Hw.zoneStart (h : Hw) (c : Nat) (burst : List BurstRead) : Hw :=
  let t := c / 64
  if h.flag (FZ_COL_A.ACTIVE c) ∨ (h.col c).selfRef ∨ h.pllOff ∨ h.mode.verify.contains c ∨ ¬ h.mode.trained ∨ ¬ h.flag (PWR_DOM.ON (8 + t)) ∨
      ¬ h.flag (PWR_DOM.ON (16 + t)) then h
  else
    let h := (h.put (FZ_COL_A.ACTIVE c) 1).modCol c fun s => { s with due := false }
    let h := if h.flag (FZ_COL_A.PASS_KEPT c) then h
      else
        let (last, h) := burst.foldl (Hw.burstRead c) (none, h)
        if last.isSome then h.count (FZ_COL_B.BURSTS c) 1 else h
    if h.flag (FZ_COL_A.PASS_KEPT c) then
      (h.modCol c fun s => { s with zone := { cells := fullCells s.kept }, kept := [] }).put (FZ_COL_A.PASS_KEPT c) 0
    else
      h.modCol c fun s =>
        let l := fullCells s.samples
        { s with zone := { cells := l }, samples := s.samples.filter fun e => !l.any fun x => x.wire == e.1 / 12 && x.level == e.1 / 2 % 6 }

/-- An unreserved slot of a feed zone (R85): left empty, and at its boundary all moves of the next group that moves take effect together. -/
def Hw.zoneSlot (h : Hw) (c : Nat) : Hw :=
  let s := h.col c
  let gear := h.get PWR_GEAR.GEAR
  match s.zone.cells.find? fun x => (x.up || x.down) && !s.stuck gear x with
  | none => h
  | some x =>
    let now := fun (y : ZoneCell) => decide (y.wire / 16 ≤ x.wire / 16)
    (s.zone.cells.filter now).foldl (Hw.decideWire c) (h.modCol c fun s => { s with zone := { s.zone with cells := s.zone.cells.filter (!now ·) } })

/-- A feed zone ends (R82, R85): the groups left are decided, the calibration rows are closed, and the next interval is set. -/
def Hw.zoneEnd (h : Hw) (c : Nat) : Hw :=
  if ¬ h.flag (FZ_COL_A.ACTIVE c) then h
  else
    let h := ((h.col c).zone.cells.foldl (Hw.decideWire c) h).calClose c
    let z := (h.col c).zone
    let temps := (colSensors c).map fun n => h.get (THM_SENS.TEMP n)
    let h := h.modCol c fun s => { s with zone := {}, temps := temps }
    let old := h.get (FZ_COL_A.INTERVAL c)
    let next := if z.lows > 0 ∨ z.moved ≥ 8 then max 1 (old / 2) else if z.moved = 0 then min 100 (2 * old) else old
    (h.puts [(FZ_COL_A.LAST_MOVED c, min 255 z.moved), (FZ_COL_A.ANY_SUSPECT c, bnat !(h.col c).suspect.isEmpty), (FZ_COL_A.INTERVAL c, next),
      (FZ_COL_A.ACTIVE c, 0)]).count (FZ_COL_B.ZONES c) 1

/-- A feed zone cut short: moves already taken effect stay, the others are dropped (R93). -/
def Hw.zoneDrop (h : Hw) (c : Nat) : Hw :=
  if h.flag (FZ_COL_A.ACTIVE c) then ((h.put (FZ_COL_A.ACTIVE c) 0).modCol c fun s => { s with zone := {} }).calClose c else h

/-- An access of an indivisible command waits for a feed zone in progress, which ends before it (R85). -/
def Hw.zoneOver (h : Hw) (c : Nat) : Hw := if h.flag (FZ_COL_A.ACTIVE c) then h.zoneEnd c else h

/-- A feed zone cut short by a gear change: it is counted as aborted (R93). -/
def Hw.zoneAbort (h : Hw) (c : Nat) : Hw := if h.flag (FZ_COL_A.ACTIVE c) then (h.zoneDrop c).count (FZ_COL_B.ABORTS c) 1 else h

/-- What FZ_TRIM_DATA shows of the wire-level and set that FZ_TRIM_SEL names (R94). -/
def Hw.trimData (h : Hw) (t : Nat) : Nat :=
  let c := t * 64 + h.get (FZ_TRIM_SEL.COLUMN t)
  let level := min 5 (h.get (FZ_TRIM_SEL.LEVEL t))
  let wire := min 271 (h.get (FZ_TRIM_SEL.WIRE t))
  let gear := min 4 (h.get (FZ_TRIM_SEL.GEAR t))
  let s := h.col c
  let (eL, eR, low) := tget (fun _ => (0, 0, false)) s.shown (level * 272 + wire)
  (s.trim gear level wire + 64) % 128 + bnat (s.suspect.contains (level * 272 + wire)) * 2 ^ 7 + eL * 2 ^ 8 + eR * 2 ^ 15 + bnat low * 2 ^ 22

end Sys2Proof.Machine
end

