-- ==== Sys2Proof/Machine/Seq.lean ====
section
/-!
DEFINITION. The column sequencer (R46 to R64, R73 to R75): arrival and credit, order by word, the decision order, the merge buffer,
atomic adds, the slow path, command errors, and the access that an indivisible command makes.
-/
namespace Sys2Proof

/-- Queue entries of a class's own, in each direction (R51). -/
def Cls.own : Cls → Nat
  | .paced => 16 | .host => 4 | .fabric => 4 | .upkeep => 2

/-- Whether a request writes. -/
def ColOp.isWrite : ColOp → Bool
  | .read => false
  | _ => true

/-- A write of less than a whole word (R62). A poisoned write poisons the word whole (R115), so it is none. -/
def ColOp.narrow : ColOp → Bool
  | .write _ m p => m != 0xFFFFFFFF#32 && !p
  | _ => false

/-- The core whose near port a request leaves by. -/
def ColReq.portCore (r : ColReq) : Option Nat :=
  match r.src with
  | .queue c _ _ _ => some c
  | .drain c _ => some c
  | .index c _ => some c
  | _ => none

end Sys2Proof

namespace Sys2Proof.Machine

/-! ## Counts of queue entries (R51) -/

def clsList : List Cls := [.paced, .host, .fabric, .upkeep]

/-- Shared entries in use: what each class holds above its own. -/
def sharedUsed (l : List QReq) : Nat :=
  clsList.foldl (fun n c => n + ((l.filter fun q => q.r.cls == c).length - c.own)) 0

/-- Whether a class has an entry free, its own or one of the 6 shared (R51). -/
def hasRoom (l : List QReq) (c : Cls) : Bool :=
  decide ((l.filter fun q => q.r.cls == c).length < c.own) || decide (sharedUsed l < 6)

/-! ## Order (R48) -/

/-- Whether an older request to the word stands in the way: any older write, read, merge entry or slow path; for a write also any older read
in flight. `id` is the request's own number. -/
def Col.blocked (s : Col) (word id : Nat) (write : Bool) : Bool :=
  (s.wq.any fun q => q.r.word == word && decide (q.id < id)) ||
  (s.merge.any fun m => m.word == word && decide (m.id < id)) ||
  (s.slow.any fun x => x.word == word) ||
  (s.rq.any fun q => q.r.word == word && decide (q.id < id)) ||
  (write && (s.flight.any fun q => q.r.word == word && decide (q.id < id)))

/-- A write-queue count of 24 or more turns write drain on, 8 or fewer off (R59). -/
def Col.drainCheck (s : Col) : Col :=
  { s with drainMode := if s.wq.length ≥ 24 then true else if s.wq.length ≤ 8 then false else s.drainMode }

/-! ## The merge buffer (R62) -/

/-- Bytes of `b` under `mask` over `a`. -/
def overlay (a b : Word) (mask : BitVec 32) : Word :=
  BitVec.ofNat 256 ((List.range 32).foldl (fun acc i =>
    acc + (if mask.getLsbD i then bitsOf b.toNat (8 * i) 8 else bitsOf a.toNat (8 * i) 8) * 2 ^ (8 * i)) 0)

/-- A narrow write into the merge buffer: it merges into the open entry of its word, or opens one; an entry with all bytes valid closes. The
dependent-drain mark of the write goes with it (R49). -/
def Col.mergeIn (s : Col) (q : QReq) (d : Word) (mask : BitVec 32) : Col :=
  match s.merge.find? fun m => m.word == q.r.word && !m.closed with
  | some _ =>
    { s with merge := s.merge.map fun m =>
        if m.word = q.r.word ∧ ¬ m.closed then
          { m with data := overlay m.data d mask, mask := m.mask ||| mask, closed := (m.mask ||| mask) == 0xFFFFFFFF#32, dep := m.dep || q.depDrain }
        else m }
  | none => { s with merge := s.merge ++ [⟨q.id, q.r.word, d, mask, q.r.cls, q.r.req, q.r.src, false, q.depDrain⟩] }

/-- The merge entries of a word closed: a read (`dep`) or a whole-word write to it has arrived. -/
def Col.closeMerge (s : Col) (word : Nat) (dep : Bool) : Col :=
  { s with merge := s.merge.map fun m => if m.word = word then { m with closed := true, dep := m.dep || dep } else m }

/-- One queued narrow write passes into the merge buffer where no older request holds it back. A write to another word than those of 16 open
entries closes the oldest and waits for its place; an entry for which a younger request already waits closes at once. -/
def Col.passOne (s : Col) (q : QReq) : Col :=
  match q.r.op with
  | .write d m false =>
    let same := fun (x : QReq) => x.r.word == q.r.word
    let before := fun (l : List QReq) => l.any fun x => same x && decide (x.id < q.id)
    if m = 0xFFFFFFFF#32 ∨ before s.wq ∨ before s.rq ∨ before s.flight ∨ s.slow.any (fun x => x.word == q.r.word) ∨
        s.merge.any (fun x => x.word == q.r.word && x.closed) then s
    else if (s.merge.any fun x => x.word == q.r.word) ∨ s.merge.length < 16 then
      let s := { s with wq := s.wq.filter fun x => x.id != q.id }.mergeIn q d m
      let reads := s.rq.any same
      (if reads ∨ s.wq.any (fun x => same x && !x.r.op.narrow) then s.closeMerge q.r.word reads else s).drainCheck
    else if s.merge.any fun x => x.closed then s
    else match s.merge with
      | x :: rest => { s with merge := { x with closed := true } :: rest }
      | [] => s
  | _ => s

/-- The queued narrow writes pass, oldest first. -/
def Col.passNarrow (s : Col) : Col := s.wq.foldl Col.passOne s

/-! ## Arrival (R49, R51, R57) -/

/-- The writes and merge entries that a read of `word` waits on, marked for dependent drain; how many, and whether one is of another class. -/
def Col.markDep (s : Col) (word : Nat) (cls : Cls) : Col × Nat × Bool :=
  let hit := fun (q : QReq) => q.r.word == word
  ({ s with wq := s.wq.map fun q => if hit q then { q with depDrain := true } else q }.closeMerge word true,
   (s.wq.filter fun q => hit q && !q.depDrain).length + (s.merge.filter fun m => m.word == word && !m.dep).length,
   (s.wq.any fun q => hit q && q.r.cls != cls) || (s.merge.any fun m => m.word == word && m.cls != cls))

/-- A request that has a queue entry: numbered, queued, acknowledged where it writes; a narrow write passes on to the merge buffer. -/
def Hw.enqueue (h : Hw) (r : ColReq) : Hw :=
  let (id, h) := h.nextId
  let c := r.col.val
  let h := if r.cls = .paced then h.put (TMC_COL_B.PBURST c) 1 else h
  if r.op.isWrite then
    let q : QReq := { id := id, r := r, t0 := h.time }
    let h := h.modCol c fun s =>
      let s := if r.op.narrow then s else s.closeMerge r.word false
      ({ s with wq := s.wq ++ [q] }.drainCheck).passNarrow
    h.ackWrite r
  else
    let (s, n, dep) := (h.col c).markDep r.word r.cls
    let h := h.count (TEL_COL_B.DEPEND c) n
    h.setCol c { s with rq := s.rq ++ [{ id := id, r := r, t0 := h.time, dependent := dep }] }

/-- The filter entry of a line, in its set or in the eviction buffer. -/
def FiltSt.find (f : FiltSt) (line : Nat) : Option FiltEnt :=
  match (tget (fun _ => []) f.sets (line % 262144)).find? fun e => e.line == line with
  | some e => some e
  | none => if f.evict.contains line then some ⟨line, true⟩ else none

/-- The snoop a non-host access to a line needs: none, BISnpData (false) or BISnpInv (true) (R382). -/
def FiltSt.needs (f : FiltSt) (line : Nat) (write : Bool) : Option Bool :=
  match f.find line with
  | none => none
  | some e => if write then some true else if e.excl then some false else none

/-- A back-invalidation issued for a line, or a request added to the one in progress. -/
def Hw.snoop (h : Hw) (line : Nat) (inv : Bool) (held : List ColReq) : Hw :=
  match h.filt.snoops.find? fun s => s.line == line with
  | some s =>
    let h := { h with filt := { h.filt with snoops := h.filt.snoops.map fun x =>
      if x.line = line then { x with held := x.held ++ held, inv := x.inv || inv } else x } }
    if inv ∧ ¬ s.inv then h.send (.biSnp true line) else h
  | none => Hw.send { h with filt := { h.filt with snoops := h.filt.snoops ++ [{ line := line, inv := inv, held := held }] } } (.biSnp inv line)

/-- A request reaches its sequencer's port (R51, R74, R382): it ends on a failed level, waits for a BIRsp, takes an entry of its class
or a shared one, or waits at its source for credit. -/
def Hw.arrive (h : Hw) (r : ColReq) : Hw :=
  let c := r.col.val
  let s := h.col c
  if s.failed.contains (wordLevel r.word) then h.refuse r
  else
    let snp := if r.cls = .host then none
      else (h.dpaOf c (r.word * 32)).bind fun d => (h.filt.needs (d / 64) r.op.isWrite).map fun inv => (d / 64, inv)
    match snp with
    | some (line, inv) => h.snoop line inv [r]
    | none =>
      let room := if r.op.isWrite then hasRoom s.wq r.cls else hasRoom s.rq r.cls
      let ahead := s.waiting.any fun x => x.cls == r.cls && x.op.isWrite == r.op.isWrite
      if room && !ahead && !s.selfRef && !h.pllOff then h.enqueue r
      else h.modCol c fun s => { s with waiting := s.waiting ++ [r] }

/-! ## Crossbars (R120) -/

/-- Tower die `t`, hub die `k`, the root die, as THM_DIE numbers them (R440). -/
def towerDie (t : Nat) : Nat := 48 + t
def hubDie (k : Nat) : Nat := 56 + k % 2
def rootDie : Nat := 62

/-- The dies on the way between a column and its requester (R17, R19, R21): a core to its own columns over their vertical paths, without a crossbar;
to another column of its tower over its crossbar; to any other through the hubs, of which the column's tower chooses the first, and the bridge follows where
the core's own tower has the other, as R21 has it for the root and the link dies (R17 does not say which hub: log 60); the host and the module's own units through hub t mod 2 of the root die; a channel or spill list to its hub; another module to its link die. -/
def xbarPath (c : Nat) (s : ReqSrc) : List Nat :=
  let t := c / 64
  let toHub := fun (k : Nat) => if t % 2 = k % 2 then [towerDie t, hubDie t] else [towerDie t, hubDie t, hubDie k]
  let core := fun (k : Nat) => if c / 8 = k then [towerDie t] else if k / 8 = t then [towerDie t, towerDie t] else toHub (k / 8) ++ [towerDie (k / 8)]
  match s with
  | .queue k _ _ _ => core k
  | .drain k _ => core k
  | .index k _ => core k
  | .chan k => toHub (k / 16)
  | .spill k => toHub k
  | .remote _ _ _ die => [towerDie t, hubDie t, die]
  | _ => [towerDie t, hubDie t, rootDie]

/-- XBAR_PAR on a hop of a way, its sending and its receiving die (R120). -/
def Hw.xbarPar (h : Hw) (path : List Nat) (x : XbarFault) (toColumn : Bool) : Hw :=
  let n := min x.hop (path.length - 2)
  let a := path.getD n 0
  let b := path.getD (n + 1) 0
  let (s, r) := if toColumn then (b, a) else (a, b)
  h.ev 0x233 2 0 0 (bnat x.header + s * 2 ^ 8 + r * 2 ^ 16) 0

/-- The parity check that a way can fail: none on a vertical path alone. -/
def crossing (path : List Nat) (par : Option XbarFault) : Option XbarFault := if path.length < 2 then none else par

/-- A request that a parity check stops on its way to its column (R120): a bad header ends it with a command error, a bad data word arrives
poisoned; a read carries no data. -/
def Hw.arrivePar (h : Hw) (r : ColReq) (par : Option XbarFault) : Hw :=
  let path := xbarPath r.col r.src
  match crossing path par with
  | none => h.arrive r
  | some x =>
    if x.header then (h.xbarPar path x true).refuse r
    else match r.op with
      | .read => h.arrive r
      | _ => (h.xbarPar path x true).arrive { r with op := .write 0 0xFFFFFFFF#32 true }

/-! ## The near port of a core (R278) -/

/-- A store of an access word that has been made. -/
def Hw.stored (h : Hw) (c word : Nat) : Hw := h.modCore c fun s => s.modArmed word fun a => { a with acks := a.acks - 1 }

/-- The access word whose store a request of the near port is. -/
def PortReq.storeOf : PortReq → Option Nat
  | .col r => (match r.src with
    | .drain _ id => some id
    | _ => none)
  | .store id _ _ _ _ _ => some id
  | .io _ _ _ _ dest _ => (match dest with
    | .drain _ id => some id
    | _ => none)
  | .load _ _ _ _ => none

/-- A request leaves core `c`'s near port: it reaches its column, or is refused credit there and holds the port; SRAM answers at once. An engine
buffer is written in each engine of the core. -/
def Hw.portOut (h : Hw) (c : Nat) : PortReq → Hw
  | .col r =>
    let n := (h.col r.col).waiting.length
    let h := h.arrive r
    if (h.col r.col).waiting.length > n then h.modCore c fun s => { s with portWait := true, portHead := (PortReq.col r).storeOf } else h
  | .load q ent ps a => h.wordTo c q ent ps (BitVec.ofNat 256 (h.sread a 32)) (h.smark a) false
  | .store word space a m d p =>
    Hw.stored (if space = 4 then foldUp 8 (fun e h => h.swriteWord (a + e * 0x30000) m d p) h else h.swriteWord a m d p) c word
  | .io x n write data dest p => h.ioAccess x n write data dest p

/-- The port of core `c` passes no further request in this arithmetic cycle: one waits there, or 16 have passed. -/
def CoreSt.portFull (s : CoreSt) : Bool := s.portWait || !s.port.isEmpty || decide (s.passed ≥ 16)

/-- A request of core `c`'s near port, behind those that wait there. -/
def Hw.portPut (h : Hw) (c : Nat) (x : PortReq) : Hw :=
  if (h.core c).portFull then h.modCore c fun s => { s with port := s.port ++ [x] }
  else (h.modCore c fun s => { s with passed := s.passed + 1 }).portOut c x

/-- An arithmetic cycle of core `c`'s near port begins: up to 16 of the requests that stand there pass, in order. -/
def Hw.portGo (h : Hw) (c : Nat) : Hw :=
  let l := (h.core c).port
  l.foldl (fun h x => h.portPut c x) (h.modCore c fun s => { s with port := [], portWait := false, portHead := none, passed := 0 })

/-- A request that had waited is no longer at the head of its core's near port. -/
def Hw.portFreed (h : Hw) (r : ColReq) : Hw :=
  match r.portCore with
  | some c => if (h.core c).portWait then h.portGo c else h
  | none => h

/-- Credit returned: the oldest waiting request of each class and direction that has room enters (R51). -/
def Hw.creditReturn (h : Hw) (c : Nat) : Hw :=
  match (h.col c).waiting.find? fun r => hasRoom (if r.op.isWrite then (h.col c).wq else (h.col c).rq) r.cls with
  | none => h
  | some r =>
    if (h.col c).selfRef ∨ h.pllOff then h else ((h.modCol c fun s => { s with waiting := s.waiting.erase r }).enqueue r).portFreed r

/-! ## What a transfer does -/

/-- The slow path starts for a word (R105): PROT_SLOW, its count, and the entry that outer decoding will end. -/
def Hw.slowStart (h : Hw) (c id word req : Nat) (k : SlowCont) : Hw :=
  ((h.ev 0x221 0 4 c (wlocOf c word) req).count (PROT_ERRCNT.SLOW (c / 64)) 1).modCol c fun s => { s with slow := s.slow ++ [⟨id, word, k⟩] }

/-- The read half of a read-modify-write of a word (R62 to R64), sampled like any read (R80): `f` is what becomes of clean data, `flips` and
`shadow` what its transfer meets. Poison is written back with RMW_POISON; an uncorrectable word waits for the slow path, or is stale in a
dirty row (R103). -/
def Hw.rmw (h : Hw) (c w req id : Nat) (cls : Cls) (f : Word → Word) (k : SlowCont) (flips : Wires) (shadow : BitVec 16) : Hw :=
  let dirty := h.rowDirty c w
  let h := h.openRow c w cls
  let (x, d) := h.readWord c w flips
  let h := h.sampleRead c (wordLevel w) x shadow
  match x with
  | .clean => h.writeThrough c w (f d) false cls
  | .corrected wire => (h.correction c w wire d).writeThrough c w (f d) false cls
  | .poison => (h.writeThrough c w 0 true cls).ev 0x203 2 4 c (wlocOf c w) req
  | .bad =>
    if dirty then ((h.staleWord c w id).rowWritten c w true).ev 0x203 2 4 c (wlocOf c w) req
    else h.slowStart c id w req k

/-- A closed merge entry drains (R62). -/
def Hw.mergeDrain (h : Hw) (c : Nat) (m : MergeEnt) (flips : Wires) (shadow : BitVec 16) : Hw :=
  let h := h.modCol c fun s => { s with merge := s.merge.filter fun x => x.id != m.id }
  if m.mask = 0xFFFFFFFF#32 then h.writeThrough c m.word m.data false m.cls
  else h.rmw c m.word m.req m.id m.cls (fun d => overlay d m.data m.mask) (.merge m) flips shadow

/-- A queued write's transfer: whole words, poisoned words, atomic adds; a narrow write that reaches the array unmerged is merged there. -/
def Hw.writeTransfer (h : Hw) (q : QReq) (flips : Wires) (shadow : BitVec 16) : Hw :=
  let c := q.r.col.val
  let h := h.modCol c fun s => ({ s with wq := s.wq.filter fun x => x.id != q.id }).drainCheck
  match q.r.op with
  | .read => h
  | .write d m p =>
    if p then h.writeThrough c q.r.word 0 true q.r.cls
    else if m = 0xFFFFFFFF#32 then h.writeThrough c q.r.word d false q.r.cls
    else h.rmw c q.r.word q.r.req q.id q.r.cls (fun x => overlay x d m) (.merge ⟨q.id, q.r.word, d, m, q.r.cls, q.r.req, q.r.src, true, false⟩) flips shadow
  | .atomic ty d => h.rmw c q.r.word q.r.req q.id q.r.cls (fun x => addElems ty x d) (.atomic q) flips shadow

/-- A queued read's transfer: its row is open and its word is on its way (R47). -/
def Hw.readTransfer (h : Hw) (q : QReq) : Hw :=
  let c := q.r.col.val
  (h.openRow c q.r.word q.r.cls).modCol c fun s =>
    { s with rq := s.rq.filter fun x => x.id != q.id, flight := s.flight ++ [q] }

/-- A read word arrives with `flips` on the path (R96, R103, R105): delivered, delivered poisoned, or late. -/
def Hw.readReturn (h : Hw) (q : QReq) (flips : Wires) : Hw :=
  let c := q.r.col.val
  let w := q.r.word
  let h := h.modCol c fun s => { s with flight := s.flight.filter fun x => x.id != q.id }
  match h.readWord c w flips with
  | (.clean, d) => h.deliver q d false false
  | (.corrected wire, d) => (h.correction c w wire d).deliver q d false false
  | (.poison, _) => h.deliver q 0 true false
  | (.bad, _) =>
    if h.rowDirty c w then (h.staleWord c w q.id).deliver q 0 true false
    else (h.slowStart c q.id w q.r.req (.deliver q)).lateMark q

/-- A write the sequencer makes for itself: dropped where a write to the word entered the queues after the read (R112). -/
def Hw.selfWrite (h : Hw) (c w : Nat) (d : Word) (poison : Bool) (after : Nat) : Hw :=
  if (h.col c).wq.any fun q => q.r.word == w && decide (q.id > after) then h else h.writeThrough c w d poison .upkeep

/-- A slow path's word is lost: its requester receives poison, or the write half of its read-modify-write is discarded (R63, R106). -/
def Hw.slowLost (h : Hw) (c : Nat) (x : Slow) : Hw :=
  match x.cont with
  | .deliver q => h.deliver q 0 true true
  | .merge m => h.ev 0x203 2 4 c (wlocOf c x.word) m.req
  | .atomic q => h.ev 0x203 2 4 c (wlocOf c x.word) q.r.req

/-- The other words of a decoded row that the inner code could not correct although their entries have REWRITTEN set: they become hard, with their
decoded data where the decoder ended well (R110, R113). -/
def Hw.rowHard (h : Hw) (c w : Nat) (ws : Option (List Word)) : Hw :=
  foldUp 32 (fun i h =>
    let v := w / 32 * 32 + i
    if v ≠ w ∧ (h.readWord c v 0).1 = .bad ∧ h.isRewritten c v then match ws with
      | some ws => h.patchWord c v (ws.getD i 0) false
      | none => h.patchWord c v 0 true
    else h) h

/-- The outer decoder ends for a slow path (R101, R106, R110): recovery is delivered and rewritten; failure is poison. A row that has become
dirty since is not decoded, nor one whose re-encode has poisoned the word (R103). -/
def Hw.slowEnd (h : Hw) (c : Nat) (x : Slow) : Hw :=
  let gone := (h.col c).lost.contains x.id
  let h := h.modCol c fun s => { s with slow := s.slow.filter (fun y => y.id != x.id), lost := s.lost.filter (· != x.id) }
  let w := x.word
  if gone then h.slowLost c x
  else if h.rowDirty c w then ((h.staleWord c w x.id).rowWritten c w true).slowLost c x
  else
    let was := h.isRewritten c w
    let h := h.rowCorrections c (w / 32) (some w)
    match h.decodeRow c (w / 32) with
    | some (ws, _) =>
      let d := ws.getD (w % 32) 0
      let h := ((h.rowHard c w (some ws)).selfWrite c w d false x.id).trackRewritten c w
      let h := if was then h.patchWord c w d false else h
      match x.cont with
      | .deliver q => h.deliver q d false true
      | .merge m => h.writeThrough c w (overlay d m.data m.mask) false m.cls
      | .atomic q => match q.r.op with
        | .atomic ty a => h.writeThrough c w (addElems ty d a) false q.r.cls
        | _ => h
    | none =>
      let h := ((h.rowHard c w none).selfWrite c w 0 true x.id).poisonEvent c w
      (if was then h.patchWord c w 0 true else h).slowLost c x

/-! ## The slot's decision (R53, R55, R58, R59, R61) -/

/-- What a slot may move: a queued read, a queued write, a closed merge entry. -/
inductive Cand where
  | rd (q : QReq)
  | wr (q : QReq)
  | mg (m : MergeEnt)
  deriving DecidableEq, Repr

def Cand.id : Cand → Nat
  | .rd q => q.id | .wr q => q.id | .mg m => m.id
def Cand.word : Cand → Nat
  | .rd q => q.r.word | .wr q => q.r.word | .mg m => m.word
def Cand.cls : Cand → Cls
  | .rd q => q.r.cls | .wr q => q.r.cls | .mg m => m.cls
def Cand.isWrite : Cand → Bool
  | .rd _ => false | _ => true
def Cand.aged : Cand → Bool
  | .rd q => q.aged | .wr q => q.aged | .mg _ => false
def Cand.urgent : Cand → Bool
  | .rd q => q.urgent | .wr q => q.urgent | .mg _ => false
def Cand.dep : Cand → Bool
  | .wr q => q.depDrain | .mg m => m.dep | .rd _ => false

/-- The candidates that order by word allows: no older request to the word, level in use, bank not flushing (R48, R68, R74). -/
def Col.cands (s : Col) : List Cand :=
  let ok := fun (word id : Nat) (wr : Bool) => !s.blocked word id wr && !s.failed.contains (wordLevel word) && s.flushQ.head? != some (wordLevel word)
  ((s.rq.filter fun q => ok q.r.word q.id false).map Cand.rd) ++
  ((s.wq.filter fun q => !q.r.op.narrow && ok q.r.word q.id true).map Cand.wr) ++
  ((s.merge.filter fun m => m.closed && ok m.word m.id true).map Cand.mg)

/-- The PACED requests queued to a bank. -/
def Col.pacedAt (s : Col) (bank : Nat) : List QReq := (s.rq ++ s.wq).filter fun q => q.r.cls == .paced && wordLevel q.r.word == bank

/-- Whether one of these requests targets the bank's open row, which is then not precharged (R55). -/
def Col.openWanted (s : Col) (bank : Nat) (l : List QReq) : Bool :=
  match s.openOf bank with
  | some r => l.any fun q => wordRow q.r.word == r.row
  | none => false

/-- Whether a candidate may have its row (R55): no row that another queued PACED request targets is closed for it; where it is not PACED, no
PACED request is queued to the bank and the activation window permits it. A write marked for dependent drain does not wait for the PACED reads
that wait for it (R49). -/
def Hw.mayActivate (h : Hw) (c : Nat) (x : Cand) : Bool :=
  let s := h.col c
  let bank := wordLevel x.word
  let paced := (s.pacedAt bank).filter fun q => q.id != x.id
  let free := paced.all fun q => x.dep && q.r.word == x.word
  h.rowHit c x.word || (!s.openWanted bank paced && (x.cls == .paced || (free && h.windowOpen c)))

/-- Oldest first, row hits ahead where `hits`, writes ahead where `writes`. -/
def pickBest (hit : Cand → Bool) (hits writes : Bool) (l : List Cand) : Option Cand :=
  let key := fun (x : Cand) => ((if writes && !x.isWrite then 1 else 0), (if hits && !hit x then 1 else 0), x.id)
  l.foldl (fun best x => match best with
    | none => some x
    | some b =>
      let (a1, a2, a3) := key x
      let (b1, b2, b3) := key b
      if a1 < b1 ∨ (a1 = b1 ∧ (a2 < b2 ∨ (a2 = b2 ∧ a3 < b3))) then some x else best) none

/-- The first answer of a list. -/
def firstSome {α : Type} : List (Option α) → Option α
  | [] => none
  | some a :: _ => some a
  | none :: t => firstSome t

/-- The transfer of a slot (R58, R61): `l` are the ready candidates, `reserved` whether the mask reserves the slot. R61 does not state the order
among several aged requests in open order; the model keeps row hits first, then the oldest, among them (DESIGN CHOICE, log 55). -/
def decide58 (hit : Cand → Bool) (open' reserved drain : Bool) (l : List Cand) : Option Cand :=
  if open' then firstSome [pickBest hit true false (l.filter Cand.aged), pickBest hit true false l]
  else if reserved then pickBest hit false false (l.filter fun x => x.cls == .paced)
  else
    let ofCls := fun (k : Cls) => pickBest hit true drain (l.filter fun x => x.cls == k)
    firstSome [pickBest hit false false (l.filter Cand.dep), pickBest hit false false (l.filter Cand.aged),
      pickBest hit true drain (l.filter fun x => x.cls == .host && x.urgent), pickBest hit false false (l.filter fun x => x.cls == .paced),
      ofCls .host, ofCls .fabric, ofCls .upkeep]

/-- A chosen transfer carried out; `flips` and `shadow` are what the read half of a read-modify-write meets on the path. -/
def Hw.transfer (h : Hw) (c : Nat) (flips : Wires) (shadow : BitVec 16) : Cand → Hw
  | .rd q => h.readTransfer q
  | .wr q => h.writeTransfer q flips shadow
  | .mg m => h.mergeDrain c m flips shadow

/-- Slot `slot` of a frame reached at a column: the next one that neither the column nor the package's frame counter has passed (R52). -/
def Hw.slotNow (h : Hw) (c slot : Nat) : Hw :=
  let base := max h.mode.frame (h.col c).next
  let n := base + (slot + 64 - base % 64) % 64
  (h.modMode fun m => { m with frame := n }).modCol c fun s => { s with next := n + 1 }

/-- One column slot (R52 to R58): `slot` is its place in the frame; `ready` are the requests whose bank, row and turnaround timing
permit a transfer now (R71, R72), which the model takes from outside. A feed zone takes every unreserved slot (R85). -/
def Hw.slotStep (h : Hw) (c slot : Nat) (ready : List Nat) (flips : Wires) (shadow : BitVec 16) : Hw :=
  if (h.col c).selfRef ∨ h.pllOff then h
  else
    let h := h.slotNow c slot
    let s := h.col c
    let open' := h.flag (TMC_CTRL.OPEN (c / 64))
    let reserved := bitAt (h.get (TMC_COL_A.RSV_MASK c)) slot && !open'
    if h.flag (FZ_COL_A.ACTIVE c) ∧ ¬ reserved then h.zoneSlot c
    else
      let l := s.cands.filter fun x => ready.contains x.id && h.mayActivate c x && !(x.cls == .paced && h.mode.verify.contains c)
      match decide58 (fun x => h.rowHit c x.word) open' reserved s.drainMode l with
      | none => h.modCol c Col.passNarrow
      | some x =>
        let h := if x.cls = .paced then h.count (TEL_COL_A.PACED c) 1 else h.count (TEL_COL_A.OTHER c) 1
        (h.transfer c flips shadow x).modCol c Col.passNarrow

/-- A word on a level that the sequencer no longer uses (R74). -/
def Hw.levelDead (h : Hw) (c w : Nat) : Bool := (h.col c).failed.contains (wordLevel w)

/-! ## The access an indivisible command makes: every older request to the word is served first (R48) -/

/-- A word that an indivisible command reads is sampled like any (R80): its transfer inverts no wire, and no sample differs at the trial delay. -/
def Hw.plainSample (h : Hw) (c w : Nat) : Hw := h.sampleRead c (wordLevel w) (h.readWord c w 0).1 0

/-- The oldest thing that still stands for a word: a word in flight, a queued request, a merge entry, a slow path. -/
def Hw.serveOne (h : Hw) (c w : Nat) : Hw :=
  let s := (h.col c).closeMerge w false
  let h := h.setCol c s
  match s.slow.find? fun x => x.word == w with
  | some x => h.slowEnd c x
  | none => match s.flight.find? fun q => q.r.word == w with
    | some q => (h.plainSample c w).readReturn q 0
    | none =>
      let l := ((s.rq.filter fun q => q.r.word == w).map Cand.rd) ++ ((s.wq.filter fun q => q.r.word == w).map Cand.wr) ++
        ((s.merge.filter fun m => m.word == w).map Cand.mg)
      match pickBest (fun _ => false) false false l with
      | some x => h.transfer c 0 0 x
      | none => h

/-- Everything queued for a word served, in order, once a feed zone of the column has ended (R85). Each request takes at most three serves
(transfer, return, slow path). -/
def Hw.settle (h : Hw) (c w : Nat) : Hw :=
  let h := h.zoneOver c
  let s := h.col c
  let n := s.rq.length + s.wq.length + s.merge.length + s.flight.length + s.slow.length
  if n = 0 then h else (foldUp (3 * n) (fun _ h => h.serveOne c w) h).modCol c Col.passNarrow

/-- A word read by an indivisible command for requester `req`: its data and whether it is poisoned; an uncorrectable word goes through the
outer code. A failed level gives nothing (R74): its callers report the command error. -/
def Hw.fread (h : Hw) (c w req : Nat) : Word × Bool × Hw :=
  if h.levelDead c w then (0, true, h)
  else
    let h := (h.settle c w).plainSample c w
    match h.readWord c w 0 with
    | (.clean, d) => (d, false, h)
    | (.corrected wire, d) => (d, false, h.correction c w wire d)
    | (.poison, _) => (0, true, h)
    | (.bad, _) =>
      if h.rowDirty c w then (0, true, h.staleWord c w h.ids)
      else
        let h := (h.slowStart c h.ids w req (.deliver { id := h.ids, r := ⟨⟨c % 512, by omega⟩, w, .upkeep, .read, .upkeep, req⟩ })).settle c w
        match h.readWord c w 0 with
        | (.clean, d) => (d, false, h)
        | (.corrected _, d) => (d, false, h)
        | _ => (0, true, h)

/-- A word written by an indivisible command under a byte mask; a failed level takes nothing (R74). -/
def Hw.fwrite (h : Hw) (c w : Nat) (d : Word) (mask : BitVec 32) (poison : Bool) (cls : Cls) (req : Nat) : Hw :=
  if h.levelDead c w then h
  else
    let h := h.settle c w
    if poison then h.writeThrough c w 0 true cls
    else if mask = 0xFFFFFFFF#32 then h.writeThrough c w d false cls
    else (h.rmw c w req h.ids cls (fun x => overlay x d mask) (.merge ⟨h.ids, w, d, mask, cls, req, .upkeep, true, false⟩) 0 0).settle c w

/-- Elements added to a word by an indivisible command (R64, R170). -/
def Hw.fatomic (h : Hw) (c w ty : Nat) (d : Word) (req : Nat) : Hw :=
  if h.levelDead c w then h
  else
    let h := h.settle c w
    (h.rmw c w req h.ids .fabric (fun x => addElems ty x d)
      (.atomic { id := h.ids, r := ⟨⟨c % 512, by omega⟩, w, .fabric, .atomic ty d, .upkeep, req⟩ }) 0 0).settle c w

end Sys2Proof.Machine
end

