-- ==== Sys2Proof/Machine/Window.lean ====
section
/-!
DEFINITION. Accesses to device physical addresses by indivisible commands, and command windows (R386 to R396): doorbells, submission
entries, completion entries, result buffers.
-/
namespace Sys2Proof.Machine

/-! ## Device physical addresses -/

/-- Lines the host-cached filter tracks (R382, R383). -/
def FiltSt.lines (f : FiltSt) : List Nat := (f.sets.flatMap fun s => s.2.map (·.line)) ++ f.evict

/-- Whether an access to bytes `lo` to `hi - 1` must wait for a back-invalidation, and the module with every one of them issued
(R382, R384). -/
def Hw.claim (h : Hw) (lo hi : Nat) (write : Bool) : Option Hw :=
  let l := h.filt.lines.filter fun n => decide (lo < n * 64 + 64) && decide (n * 64 < hi) && (h.filt.needs n write).isSome
  if l.isEmpty then none
  else some (l.foldl (fun h n => match h.filt.needs n write with
    | some inv => h.snoop n inv []
    | none => h) h)

/-- A word read at a device physical address under a permission: data, poison mark; none where the map refuses (R31, R32). -/
def Hw.dpaRead (h : Hw) (d : Nat) (p : Perm) (req : Nat) : Option (Word × Bool) × Hw :=
  match h.mapAccess d p false with
  | .at' c o =>
    let (w, m, h) := h.fread c (o / 32) req
    (some (w, m), h)
  | r => (none, h.mapEvent r d req)

/-- A word written at a device physical address under a permission; false where the map refuses. -/
def Hw.dpaWrite (h : Hw) (d : Nat) (p : Perm) (v : Word) (mask : BitVec 32) (poison : Bool) (cls : Cls) (req : Nat) : Bool × Hw :=
  match h.mapAccess d p false with
  | .at' c o => (true, h.fwrite c (o / 32) v mask poison cls req)
  | r => (false, h.mapEvent r d req)

/-- The first address of a range, in words, that the map refuses. -/
def Hw.mapFault (h : Hw) (d n : Nat) (p : Perm) : Option (Nat × MapRes) :=
  (List.range ((n + 31) / 32)).findSome? fun i =>
    match h.mapAccess (d + 32 * i) p false with
    | .at' _ _ => none
    | r => some (d + 32 * i, r)

/-! ## Fields of a submission entry (R388) -/

abbrev SqEnt := BitVec 512
def sqOp (e : BitVec 512) : Nat := bitsOf e.toNat 0 8
def sqFlags (e : BitVec 512) : Nat := bitsOf e.toNat 8 8
def sqArg (e : BitVec 512) (n : Nat) : Nat := bitsOf e.toNat (64 + 64 * n) 64

/-- Flags and arguments a command has: the FLAGS bits, and the ARGs it uses (R389). None for an unknown OPCODE. -/
def sqShape (op : Nat) : Option (Nat × Nat) :=
  match op with
  | 0x01 => some (0, 2) | 0x02 => some (0, 0) | 0x03 => some (1, 0) | 0x04 => some (1, 1) | 0x05 => some (0, 1) | 0x06 => some (0, 2)
  | 0x08 => some (0, 3) | 0x09 => some (0, 2) | 0x0A => some (0, 3) | 0x0B => some (1, 0) | 0x0C => some (0, 2) | 0x10 => some (0, 1)
  | 0x11 => some (0, 1) | 0x12 => some (1, 1) | 0x13 => some (0, 1)
  | _ => none

/-- The byte offset of the first thing of an entry that status 0x01 names (R388, R391, R392). -/
def sqBad (e : BitVec 512) : Option Nat :=
  match sqShape (sqOp e) with
  | none => some 0
  | some (fl, n) =>
    if sqFlags e / (fl + 1) ≠ 0 then some 1
    else if bitsOf e.toNat 32 32 ≠ 0 then some 4
    else match (List.range 7).find? fun i => decide (i ≥ n) && decide (sqArg e i ≠ 0) with
      | some i => some (8 + 8 * i)
      | none => if sqOp e = 0x13 ∧ sqArg e 0 > 4 then some 8 else none

/-! ## Completions (R393 to R396) -/


/-- Free completion entries of a window: the queue holds one less than its size (R394). -/
def Hw.cqFree (h : Hw) (w : Nat) : Nat :=
  let n := 2 ^ h.get (CMD_CQ.LOG2 w)
  n - 1 - (h.get (CMD_CQ_TAIL.TAIL w) + n - h.get (CMD_CQ_HEAD.HEAD w)) % n

/-- An image runs with this window as its lap window (R395). -/
def Hw.lapWindow (h : Hw) (w : Nat) : Bool := h.img.lapWin == some w && (h.get IMG_STAT.STATE == 3 || h.get IMG_STAT.STATE == 4 || h.get IMG_STAT.STATE == 5)

/-- A completion entry as a word (R393). -/
def Cpl.word (c : Cpl) (phase w head : Nat) : Word :=
  BitVec.ofNat 256 (c.cid + c.status * 2 ^ 16 + phase * 2 ^ 24 + c.kind * 2 ^ 25 + w * 2 ^ 28 + c.detail * 2 ^ 32 +
    c.lap % 2 ^ 64 * 2 ^ 64 + c.stamp % 2 ^ 64 * 2 ^ 128 + head * 2 ^ 192)

/-- A completion entry written at CQ_TAIL with the current phase (R394, R399). A LAP entry holds its result buffer (R396). -/
def Hw.cqWrite (h : Hw) (w : Nat) (c : Cpl) : Hw :=
  let n := 2 ^ h.get (CMD_CQ.LOG2 w)
  let tail := h.get (CMD_CQ_TAIL.TAIL w)
  let phase := h.get (CMD_CQ_TAIL.PHASE w)
  let (_, h) := h.dpaWrite (h.get (CMD_CQ.BASE w) * 4096 + 32 * tail) .hw (c.word phase w (h.get (CMD_SQ_HEAD.HEAD w))) 0xFFFFFFFF#32 false .upkeep
    (reqArg 1 w 0)
  let h := if h.flag (CMD_CTRL.IEN w) then h.raise (1 + w) else h
  let h := if c.kind = 1 ∧ h.get (CMD_RES.RES_COUNT w) ≠ 0 then h.modImg fun x => { x with bufs := x.bufs ++ [(c.detail, tail)] } else h
  let h := if tail + 1 = n then h.put (CMD_CQ_TAIL.PHASE w) (1 - phase) else h
  h.put (CMD_CQ_TAIL.TAIL w) ((tail + 1) % n)

/-- Status and DETAIL of an entry that runs no command: 0x03 where the map refused its read (R31), 0x01 where it is ill-formed (R388, R391). -/
def SqFetched.bad (e : SqFetched) : Option (Nat × Nat) :=
  match e.refused with
  | some a => some (0x03, a)
  | none => (sqBad e.entry).map fun off => (0x01, off)

/-- Entries that run no command are completed as soon as the window can start them (R387, R392). -/
def Hw.screen (h : Hw) (w : Nat) : Hw :=
  let s := h.win w
  if s.run.isSome ∨ ¬ s.done.isEmpty then h
  else match s.sq with
    | [] => h
    | e :: rest =>
      match e.bad with
      | some (status, off) => (h.modWin w fun s => { s with sq := rest }).complete w e.entry status off
      | none => h

/-- A window whose EN was cleared while its command ran closes once the command has completed (R402). -/
def Hw.windowClose (h : Hw) (w : Nat) : Hw :=
  if (h.win w).closing ∧ (h.win w).run.isNone ∧ (h.win w).done.isEmpty then
    ((h.modWin w fun _ => {}).puts [(CMD_SQ_HEAD.HEAD w, 0), (CMD_CQ_TAIL.TAIL w, 0), (CMD_CQ_HEAD.HEAD w, 0), (CMD_CQ_TAIL.PHASE w, 1)])
  else h

/-- The oldest completion of a window written where there is room: one entry of the lap window stays free for LAP (R394, R395). A line of
the queue that the host may hold is invalidated first (R386). -/
def Hw.completionWrite (h : Hw) (w : Nat) : Hw :=
  match (h.win w).done with
  | [] => h
  | c :: rest =>
    if h.cqFree w < (if h.lapWindow w ∧ c.kind = 0 then 2 else 1) then h
    else
      let d := h.get (CMD_CQ.BASE w) * 4096 + 32 * h.get (CMD_CQ_TAIL.TAIL w)
      match h.claim d (d + 32) true with
      | some h => h
      | none => (((h.modWin w fun s => { s with done := rest }).cqWrite w c).screen w).windowClose w

/-- The LAP entry of a boundary: written at once, or ahead of the completions that wait, where the queue is full or the host may hold its line. -/
def Hw.lapEntry (h : Hw) (w : Nat) (c : Cpl) : Hw :=
  (h.modWin w fun s => { s with done := c :: s.done }).completionWrite w

/-! ## Starting a command -/

/-- The commands accepted across windows in the order of their doorbells (R387). -/
def SqFetched.ordered (e : SqFetched) : Bool :=
  e.bad.isNone && [0x01, 0x02, 0x03, 0x04, 0x05, 0x06, 0x0B, 0x10, 0x11, 0x12].contains (sqOp e.entry)

/-- An entry of window `w` may be accepted as far as the other windows go: no ordered command of an earlier doorbell waits there, no entry of one is
still to be fetched. A window whose STOP or SNAPSHOT waits for a lap boundary holds nobody back (R387). -/
def Hw.inOrder (h : Hw) (w : Nat) (e : SqFetched) : Bool :=
  !e.ordered || (List.range 16).all fun v => v == w ||
    (match (h.win v).run with
      | some r => sqOp r == 3 || sqOp r == 4
      | none => false) ||
    ((h.win v).sq.all (fun x => !x.ordered || decide (e.bell < x.bell)) && (h.win v).due.all fun b => decide (e.bell < b))

/-- The entry at the front of a window, where the window can start it, it is of the wanted kind and its turn has come (R387). -/
def Hw.front (h : Hw) (w : Nat) (want : BitVec 512 → Bool) : Option (BitVec 512) :=
  if ¬ h.released ∨ h.pllOff then none
  else
    let s := h.win w
    if s.run.isSome ∨ ¬ s.done.isEmpty then none
    else match s.sq with
      | e :: _ => if want e.entry && e.bad.isNone && h.inOrder w e then some e.entry else none
      | [] => none

/-- The entry taken as the window's running command. -/
def Hw.take (h : Hw) (w : Nat) (e : BitVec 512) : Hw := h.modWin w fun s => { s with run := some e, sq := s.sq.drop 1 }

/-- A command that the front entry of window `w` names: it runs, and in kickstand it completes with status 0x11 unless R468 lists it. -/
def Hw.command (h : Hw) (w : Nat) (want : BitVec 512 → Bool) (inKick : Bool) (f : BitVec 512 → Hw → Hw) : Hw :=
  match h.front w want with
  | none => h
  | some e =>
    let h := h.take w e
    if h.kick ∧ ¬ inKick then h.complete w e 0x11 0 else f e h

/-- A command whose lines the host may hold waits at the front of its window for their invalidation (R382); `range` is what it will access:
first byte, end, and whether it writes. -/
def Hw.commandOn (h : Hw) (w : Nat) (want : BitVec 512 → Bool) (inKick : Bool) (range : BitVec 512 → Nat × Nat × Bool)
    (f : BitVec 512 → Hw → Hw) : Hw :=
  match h.front w want with
  | none => h
  | some e =>
    match h.claim (range e).1 (range e).2.1 (range e).2.2 with
    | some h => h
    | none => h.command w want inKick f

/-! ## Doorbells and indices (R387, R402) -/

/-- The entries of a window from SQ_HEAD up to the tail fetched, up to one whose line the host may hold modified: that one waits for its
back-invalidation (R382). Of an entry that the map refuses to be read, the CID is a free value (R31, log 62). -/
def Hw.sqFetch (h : Hw) (w : Nat) : Hw :=
  if ¬ h.flag (CMD_CTRL.EN w) ∨ (h.win w).closing then h
  else
    let n := 2 ^ h.get (CMD_SQ.LOG2 w)
    let d := h.get (CMD_SQ.BASE w) * 4096
    let h : Hw := (h.win w).due.foldl (fun h bell =>
      let head := h.get (CMD_SQ_HEAD.HEAD w)
      let a := d + 64 * head
      match h.claim a (a + 64) false with
      | some h => h
      | none =>
        let (lo, h) := h.dpaRead a .hr (reqArg 1 w 0)
        let (hi, h) := if lo.isSome then h.dpaRead (a + 32) .hr (reqArg 1 w 0) else (none, h)
        let (id, h) := if hi.isSome then (0, h) else h.free
        let e : SqFetched := match lo, hi with
          | some x, some y => { entry := y.1 ++ x.1, bell := bell }
          | _, _ => { entry := BitVec.ofNat 512 (id % 2 ^ 16 * 2 ^ 16), bell := bell, refused := some a }
        (h.modWin w fun s => { s with sq := s.sq ++ [e], due := s.due.drop 1 }).put (CMD_SQ_HEAD.HEAD w) ((head + 1) % n)) h
    h.screen w

/-- SQ_TAIL written: the new entries are fetched, or the doorbell is ignored: a tail outside the ring, or one that passes SQ_HEAD, which leaves fewer
entries to fetch than the last one. -/
def Hw.doorbell (h : Hw) (w tail : Nat) : Hw :=
  let n := 2 ^ h.get (CMD_SQ.LOG2 w)
  let due := (tail + n - h.get (CMD_SQ_HEAD.HEAD w)) % n
  if ¬ h.flag (CMD_CTRL.EN w) ∨ (h.win w).closing then h
  else if tail ≥ n ∨ due < (h.win w).due.length then h.mark (CMD_CTRL.SQ_ERR w)
  else
    let h : Hw := { (h.put (CMD_SQ_TAIL.TAIL w) tail).modWin w fun s =>
      { s with due := s.due ++ List.replicate (due - s.due.length) h.bells } with bells := h.bells + 1 }
    h.sqFetch w

/-- CQ_HEAD written: entries consumed and result buffers released, or the write is ignored (R396, R402). -/
def Hw.cqHead (h : Hw) (w head : Nat) : Hw :=
  let n := 2 ^ h.get (CMD_CQ.LOG2 w)
  let old := h.get (CMD_CQ_HEAD.HEAD w)
  let room := (h.get (CMD_CQ_TAIL.TAIL w) + n - old) % n
  let step := (head + n - old) % n
  if head ≥ n ∨ step > room then h.mark (CMD_CTRL.SQ_ERR w)
  else
    let h := if h.img.lapWin = some w then
        h.modImg fun s => { s with bufs := s.bufs.filter fun b => decide ((b.2 + n - old) % n ≥ step) }
      else h
    h.put (CMD_CQ_HEAD.HEAD w) head

/-- A queue of a window lies inside a valid region with HR and HW (R386). -/
def Hw.queueOk (h : Hw) (base bytes : Nat) : Bool :=
  match h.regionOf base with
  | none => false
  | some n => decide (base + bytes ≤ (h.region n).lo + (h.region n).bytes) && !(h.region n).hb && bitAt (h.region n).perms 0 && bitAt (h.region n).perms 1 &&
      decide (base + bytes ≤ h.rsvLo)

/-- EN written 1. -/
def Hw.windowEnable (h : Hw) (w : Nat) : Hw :=
  if h.flag (CMD_CTRL.EN w) then h
  else if h.queueOk (h.get (CMD_SQ.BASE w) * 4096) (64 * 2 ^ h.get (CMD_SQ.LOG2 w)) && h.queueOk (h.get (CMD_CQ.BASE w) * 4096) (32 * 2 ^ h.get (CMD_CQ.LOG2 w)) then
    h.puts [(CMD_CTRL.BASE_ERR w, 0), (CMD_CTRL.EN w, 1)]
  else h.put (CMD_CTRL.BASE_ERR w) 1

/-- EN written 0: ignored for the lap window of a running image; else the running command completes and the indices become 0. -/
def Hw.windowDisable (h : Hw) (w : Nat) : Hw :=
  if h.lapWindow w ∧ h.get IMG_STAT.STATE ≠ 4 then h
  else ((h.put (CMD_CTRL.EN w) 0).modWin w fun s => { s with closing := true, sq := [] }).windowClose w

end Sys2Proof.Machine
end

