-- ==== Sys2Proof/Machine/Refresh.lean ====
section
/-!
DEFINITION. Refresh (R65 to R70) and self-refresh (R75).
-/
namespace Sys2Proof.Machine

/-! ## Refresh -/

/-- Owed refreshes of a bank. -/
def Hw.owed (h : Hw) (c l : Nat) : Nat := bitsOf (h.get (TMC_COL_B.OWED c)) (3 * l) 3

def Hw.setOwed (h : Hw) (c l n : Nat) : Hw :=
  h.put (TMC_COL_B.OWED c) (h.get (TMC_COL_B.OWED c) - h.owed c l * 2 ^ (3 * l) + n * 2 ^ (3 * l))

/-- The refresh interval of a bank in housekeeping cycles: 1.95 µs hot, 3.9 µs cool (R65). -/
def Hw.refInterval (h : Hw) (c l : Nat) : Nat := if bitAt (h.get (TMC_REFSTAT.HOT (c / 64))) l then 195 else 390

/-- A bank's refresh falls due (R67, R68): its due-time counter moves on, in self-refresh too (R66); the refresh is issued at the end of the
bank's row access, or owed in a PACED burst or while the clock is stopped (R70); the fourth owed refresh queues the bank for a flush. A failed
level gets no command (R74). -/
def Hw.refreshDue (h : Hw) (c l : Nat) : Hw :=
  let gap : Int := h.refInterval c l
  let h := h.modCol c fun s => { s with refAt := listSet s.refAt l (s.refAt.getD l 0 + gap) }
  if (h.col c).selfRef ∨ (h.col c).failed.contains l then h
  else if ¬ h.flag (TMC_COL_B.PBURST c) ∧ h.pllOff = false then h.closeRow c l
  else
    let n := min 4 (h.owed c l + 1)
    let h := h.setOwed c l n
    let t := c / 64
    let h : Hw := if n > h.get (TMC_REFSTAT.OWED_MAX t) then h.put (TMC_REFSTAT.OWED_MAX t) n else h
    if n = 4 ∧ h.pllOff = false ∧ ¬ (h.col c).flushQ.contains l then
      (h.modCol c fun s => { s with flushQ := s.flushQ ++ [l] }).put (TMC_COL_B.FLUSH c) 1
    else h

/-- The column's sequencer clock runs: no relock, no self-refresh (R70, R75). -/
def Hw.colClock (h : Hw) (c : Nat) : Bool := !h.pllOff && !(h.col c).selfRef

/-- An owed refresh issued where no queued request targets the bank (R67); a failed level gets no command (R74). -/
def Hw.refreshIssue (h : Hw) (c l : Nat) : Hw :=
  let s := h.col c
  if ¬ h.colClock c ∨ h.owed c l = 0 ∨ s.failed.contains l ∨ s.flushQ.contains l ∨ (s.rq ++ s.wq).any (fun q => wordLevel q.r.word == l) then h
  else (h.closeRow c l).setOwed c l (h.owed c l - 1)

/-- The first bank in line flushes its owed refreshes (R67, R68). -/
def Hw.flush (h : Hw) (c : Nat) : Hw :=
  if ¬ h.colClock c then h
  else match (h.col c).flushQ with
  | [] => h
  | l :: rest =>
    let h := ((h.closeRow c l).setOwed c l 0).modCol c fun s => { s with flushQ := rest }
    if rest.isEmpty then h.put (TMC_COL_B.FLUSH c) 0 else h

/-- Every owed refresh of a column issued, all banks at once (R68). -/
def Hw.refreshAll (h : Hw) (c : Nat) : Hw :=
  let h := foldUp 6 (fun l h => if h.owed c l > 0 then h.closeRow c l else h) h
  (h.modCol c fun s => { s with flushQ := [] }).puts [(TMC_COL_B.OWED c, 0), (TMC_COL_B.FLUSH c, 0)]

/-- A PACED burst ends once both PACED queues have been empty for a frame, and every owed refresh is issued (R57, R67). -/
def Hw.burstEnd (h : Hw) (c : Nat) : Hw :=
  let s := h.col c
  if ¬ h.colClock c ∨ ((s.rq ++ s.wq).any fun q => q.r.cls == .paced) then h
  else (h.refreshAll c).put (TMC_COL_B.PBURST c) 0

/-! ## Clock stops and self-refresh (R70, R75, R90) -/

/-- Everything queued at a column served and every merge entry drained (R75). -/
def Hw.drainCol (h : Hw) (c : Nat) : Hw :=
  let s := h.col c
  let ws := s.flight.map (·.r.word) ++ s.slow.map (·.word) ++ s.rq.map (·.r.word) ++ s.wq.map (·.r.word) ++ s.merge.map (·.word)
  ws.foldl (fun h w => h.settle c w) h

/-- A sequencer enters self-refresh (R75); a feed zone in progress ends, uncounted, since no gear change ends it (R93, R94). -/
def Hw.selfRefresh (h : Hw) (c : Nat) : Hw :=
  ((((((h.zoneDrop c).drainCol c).closeRows c).refreshAll c).discardSamples c).put (TMC_CTRL.SELFREF (c / 64)) 1).modCol c fun s =>
    { s with selfRef := true }

/-- A sequencer wakes (R75, R90): one refresh of each bank, then its verification zone stands before PACED traffic. -/
def Hw.selfWake (h : Hw) (c : Nat) : Hw :=
  (((h.put (TMC_CTRL.SELFREF (c / 64)) 0).modCol c fun s => { s with selfRef := false }).put (TMC_COL_B.OWED c) 0).modMode fun m =>
    { m with verify := if m.verify.contains c then m.verify else m.verify ++ [c] }

/-- Every column. -/
def Hw.allCols (h : Hw) (f : Hw → Nat → Hw) : Hw := foldUp 512 (fun c h => f h c) h

/-- Before a gear change stops the sequencer clocks (R70, R92, R93, R434): feed zones are aborted, queued requests served, owed refreshes issued,
margin data discarded. -/
def Hw.clockStop (h : Hw) : Hw := h.allCols fun h c => (((h.zoneAbort c).drainCol c).refreshAll c).discardSamples c

/-- The PLL locks and the sequencer clocks restart (R52, R90): the frame counter restarts, and every column stands before its verification zone.
Frames counted before the lock still lie in an activation window (R55). -/
def Hw.clockStart (h : Hw) : Hw :=
  let n := h.mode.frame
  let h := h.modMode fun m => { m with frame := 0, verify := List.range 512 }
  h.allCols fun h c => h.modCol c fun s => { s with next := 0, lastAct := s.lastAct.map (· - n) }

end Sys2Proof.Machine
end

