-- ==== Sys2Proof/Machine/Reset.lean ====
section
/-!
DEFINITION. Core reset (R462, R465, R310, R311), the end of a run and of an image (R322, R333), entry into kickstand (R467, R470), and a
level reported failed (R74, R91).
-/
namespace Sys2Proof.Machine

/-- Every register at `lo` to `lo + n - 1` at its Reset value. -/
def Hw.resetBlock (h : Hw) (lo n : Nat) : Hw := { h with csr := h.csr.filter fun e => !(decide (lo ≤ e.1) && decide (e.1 < lo + n)) }

/-- The batches of a core leave their channels (R465): written blocks stay, remaining signals are dropped. -/
def Hw.batchDrop (h : Hw) (c : Nat) : Hw :=
  foldUp 32 (fun k h =>
    let mine : Bool := match (h.chan k).run with
      | some b => b.core == c
      | none => false
    let waits := (h.chan k).next.any fun b => b.1 == c
    let h := h.modChan k fun s =>
      { s with run := if mine then none else s.run, restart := if mine then none else s.restart, next := s.next.filter fun b => b.1 != c }
    let h := if mine then (h.dropChanIo k).resetReg (DMA_STAT.off k) else h
    if mine ∨ waits then h.put (DMA_STAT.WAITING k) (bnat !(h.chan k).next.isEmpty) else h) h

/-- A core's registers, queues, streams and engine registers at their reset values; its objects become void (R310). Its SRAMs stand. The
fusion, mode and instruction areas of a loaded image stand too (R208, R230) unless `all`. -/
def Hw.coreWipe (h : Hw) (all : Bool) (c : Nat) : Hw :=
  let s := h.core c
  let imem := h.word (CORE_IMEM.off c)
  let stat := [(CORE_STAT.COMPAT c, h.get (CORE_STAT.COMPAT c)), (CORE_STAT.FUSE c, h.get (CORE_STAT.FUSE c)), (CORE_STAT.LEADER c, h.get (CORE_STAT.LEADER c))]
  let h := h.resetBlock (coreBase c) 0x10000
  let h := { h with lat := h.lat.filter fun e => !(decide (coreBase c ≤ e.1) && decide (e.1 < coreBase c + 0x10000)) }
  let h := if all then h else (h.setWord (CORE_IMEM.off c) imem).puts stat
  let h := h.setCore c { wordId := s.wordId, entId := s.entId, staging := if all then none else s.staging }
  (foldUp 8 (fun e h => h.setEng (8 * c + e) {}) h).batchDrop c

/-- Every core wiped. With the image's page table gone (`all`) the channels' translation caches go too (R38, R39). -/
def Hw.wipeCores (h : Hw) (all : Bool) : Hw :=
  let h := foldUp 64 (fun c h => h.coreWipe all c) h
  if all then foldUp 32 (fun k h => h.modChan k fun s => { s with tlb := [] }) h else h

/-- A member of a reset leader's group halts with code 0x0B (R311). -/
def Hw.haltMember (h : Hw) (m : Nat) : Hw :=
  let (info, h) := h.haltInfo 0x0B { stream := 0, pc := (h.core m).xpc } m (h.get (CORE_CYCLE.CYCLE m))
  ((((h.modCore m fun s => { s with faulted := true, await := none }).puts [(CORE_STAT.RUN m, 0), (CORE_STAT.HALTED m, 1), (CORE_STAT.BROKEN m, 0)]).setWord
    (CORE_HALT_INFO.off m) (BitVec.ofNat 64 info)).put (CORE_HALT_PC.ADDR m) (h.core m).xpc).ev 0x401 2 3 m info (h.core m).xpc

/-- A running image becomes FAULTED because a core of it was reset (R465). -/
def Hw.resetFault (h : Hw) (c : Nat) : Hw :=
  let mine : Bool := match h.img.conf with
    | some k => k.cores.any fun x => x.core == c
    | none => false
  if h.get IMG_STAT.STATE = 3 ∧ mine then (h.put IMG_STAT.STATE 4).ev 0x501 2 0 0 c (h.get IMG_LAP.LAP) else h

/-- A core reset at any time (R465), with its effects on a fused group (R311). -/
def Hw.coreReset (h : Hw) (c : Nat) : Hw :=
  let h := h.resetFault c
  let h :=
    if h.groupSize c = 1 then h
    else if h.leader c = c then (h.members c).foldl (fun h m => if m = c then h else h.haltMember m) h
    else h.halt c 0x0B { stream := 0, pc := (h.core (h.leader c)).xpc }
  h.coreWipe false c

/-! ## End of a run, end of an image -/

/-- Reservation masks and activation windows out of force (R53, R76). -/
def Hw.masksOff (h : Hw) : Hw :=
  let h := h.allCols fun h c => h.puts [(TMC_COL_A.RSV_MASK c, 0), (TMC_COL_B.ACT_WIN c, 0)]
  foldUp 8 (fun t h => h.put (TMC_CTRL.PACED_ON t) 0) h

/-- The derailleur empty, at epoch 0. -/
def Hw.drlEmpty (h : Hw) : Hw :=
  foldUp 2 (fun k h => (h.put (DRL_STAT.SPILL_USED k) 0).resetReg (DRL_EPOCH.off k)) { h with drl := {} }

/-- Hub registers of the loaded image at reset: barriers, and the derailleur inactive. -/
def Hw.hubsOff (h : Hw) : Hw :=
  let h := foldUp 64 (fun b h => ((h.resetReg (BAR_CFG.off b)).resetReg (BAR_STAT.off b)).resetReg (BAR_TREE.off b)) h
  { foldUp 2 (fun k h => h.put (DRL_STAT.ACTIVE k) 0) h.drlEmpty with bars := [] }

/-- LOCK clear in every entry and the page table root cleared (R44, R322). -/
def Hw.unlockMap (h : Hw) : Hw :=
  (foldUp 16 (fun n h => (h.put (MAP_RGN_A.LOCK n) 0).put (MAP_INST_A.LOCK n) 0) h).resetReg MAP_PTROOT.off

/-- The staging words as the installed ones (R44). -/
def Hw.stagingRestore (h : Hw) : Hw :=
  foldUp 16 (fun n h => ((h.setWord (MAP_RGN_A.off n) (h.word (MAP_INST_A.off n))).setWord (MAP_RGN_B.off n) (h.word (MAP_INST_B.off n))).setWord
    (MAP_RGN_C.off n) (h.word (MAP_INST_C.off n))) h

/-- Queued patches, with USED (R339). -/
def Hw.setPatches (h : Hw) (l : List Patch) : Hw := (h.modImg fun x => { x with patches := l }).put IMG_PATCHQ.USED l.length

/-- Remote increments and barrier messages that a snapshot held back are at the endpoint again (R314). -/
def Hw.heldBack (h : Hw) : Hw := h.modFab fun f => { f with inbox := f.inbox ++ f.held, held := [] }

/-- The image unloaded (R322, R460): every core reset, LOCK and root cleared, state EMPTY. Snapshots stand, and what a snapshot that ends here has
held back is handled as without one (R314). -/
def Hw.unload (h : Hw) : Hw :=
  let h := (((h.wipeCores true).masksOff.hubsOff).unlockMap.heldBack).setPatches []
  let h := foldUp 8 (fun n h => h.put (IMG_DIGEST.BYTES n) 0) h
  let h := foldUp 16 (fun w h => h.put (CMD_CTRL.LAPWIN w) 0) h
  let h := h.puts [(IMG_STAT.TOP_GEAR, 0), (IMG_STAT.TCLASS, 0), (IMG_STAT.PEND_SNAP, 0), (IMG_STAT.PEND_STOP, 0), (IMG_STAT.SNAP_SLOTS, 0),
    (IMG_WCET.WCET, 0), (IMG_LAPMASK.LAPMASK, 0), (PWR_GEAR.LIM_IMG, 0), (IMG_STAT.STATE, 0)]
  h.modImg fun s => { snaps := s.snaps, gearW := s.gearW }

/-- The run stopped (R333): every core reset, masks out of force, patches discarded, state READY. -/
def Hw.stopRun (h : Hw) : Hw :=
  let h := (h.wipeCores false).masksOff.drlEmpty
  let h := (h.setPatches []).modImg fun s => { s with quiesce := none, stopW := [], snapW := none, relWait := false, hotStop := false, bufs := [] }
  h.puts [(IMG_STAT.PEND_SNAP, 0), (IMG_STAT.PEND_STOP, 0), (IMG_STAT.STATE, 2)]

/-! ## Domains -/

/-- The SRAMs of the TC domains lose their contents (R438). -/
def Hw.tcLost (h : Hw) : Hw :=
  { h with sram := h.sram.filter fun e => decide (sramHub ≤ e.1) && decide (e.1 < sramImem 0),
           marks := h.marks.filter fun e => decide (sramHub ≤ e.1 * 32) && decide (e.1 * 32 < sramImem 0) }

/-- TC0 to TC7 switched off: core registers read 0 and SRAM contents are lost. -/
def Hw.tcOff (h : Hw) : Hw := foldUp 8 (fun t h => h.put (PWR_DOM.ON t) 0) (h.wipeCores true).tcLost

/-- A domain switched on, but for one off for a fault. -/
def Hw.domOn (h : Hw) (d : Nat) : Hw := if h.flag (PWR_DOM.FAULT d) then h else h.put (PWR_DOM.ON d) 1

/-- TC0 to TC7 switched on. -/
def Hw.tcOn (h : Hw) : Hw := foldUp 8 (fun t h => h.domOn t) h

/-- LK0 to LK3 switched on where freewheel had them off, on variant S (R426, R439). -/
def Hw.lkOn (h : Hw) : Hw := if h.fuses.variantS then foldUp 4 (fun n h => h.domOn (26 + n)) h else h

/-! ## Kickstand (R467, R470) -/

/-- The place of the kickstand record in hub SRAM. -/
def kickAddr : Nat := sramHub + 0x03F7E000

/-- The kickstand record (R470). -/
def kickRecord (cause dom failed st lap time valid : Nat) (digest : List Byte) : List Byte :=
  natLE 4 0x4B43494B ++ natLE 1 cause ++ natLE 1 dom ++ natLE 1 failed ++ natLE 1 st ++ natLE 8 lap ++ natLE 8 time ++ natLE 1 valid ++
    natLE 7 0 ++ digest ++ natLE 32 0

/-- The record copied to its place. -/
def Hw.kickWriteBack (h : Hw) : Hw := { h with sram := Memory.writeBytes h.sram kickAddr h.mode.kick }

/-- DIGEST of the loaded image as bytes. -/
def Hw.digestBytes (h : Hw) : List Byte := (List.range 8).flatMap fun n => natLE 8 (h.get (IMG_DIGEST.BYTES n))

/-- Commands that kickstand ends with status 0x11: waiting STOP, SNAPSHOT and PATCH_PARAMS, and a LOAD_IMAGE in progress. -/
def Hw.kickCommands (h : Hw) : Hw :=
  foldUp 16 (fun w h => match (h.win w).run with
    | some e => if [0x01, 0x03, 0x04, 0x06].contains (sqOp e) then h.complete w e 0x11 0 else h
    | none => h) h

/-- The module enters kickstand for `cause` (R467); a later cause of higher number replaces the recorded one. -/
def Hw.kickEnter (h : Hw) (cause dom failed : Nat) : Hw :=
  let failed := h.get KICK_STAT.FAILED ||| failed
  if h.kick then
    let higher := decide (cause > h.get KICK_STAT.CAUSE)
    let cause := if higher then cause else h.get KICK_STAT.CAUSE
    let dom := if higher then dom else h.get KICK_STAT.DOMAIN
    let bytes := (((h.mode.kick.set 4 (BitVec.ofNat 8 cause)).set 5 (BitVec.ofNat 8 dom)).set 6 (BitVec.ofNat 8 failed))
    ((h.modMode fun m => { m with kick := bytes }).kickWriteBack).puts [(KICK_STAT.CAUSE, cause), (KICK_STAT.FAILED, failed), (KICK_STAT.DOMAIN, dom)]
  else
    let st := h.get IMG_STAT.STATE
    let lap := h.get IMG_LAP.LAP
    let bytes := kickRecord cause dom failed st lap h.time (h.get IMG_STAT.SNAP_VALID) h.digestBytes
    let h := if h.flag PWR_FW.FW then ((h.allCols Hw.selfWake).lkOn).put PWR_FW.FW 0 else h
    let h := if st = 1 then h.stagingRestore else h
    let h := (h.kickCommands).unload
    let h : Hw := if h.mode.gear.isNone ∧ h.get PWR_GEAR.GEAR ≠ 4 then ((h.clockStop.put PWR_GEAR.GEAR 4).count PWR_GEAR.CHANGES 1).clockStart else h
    let h := foldUp 8 (fun t h => h.put (TMC_CTRL.OPEN t) 1) h.tcOff
    let h := (h.modMode fun m => { m with kick := bytes }).kickWriteBack
    let h := (h.ev 0x901 3 0 0 (cause + dom * 2 ^ 8 + failed * 2 ^ 16 + st * 2 ^ 24) lap).fmNotice
    h.puts [(KICK_STAT.CAUSE, cause), (KICK_STAT.FAILED, failed), (KICK_STAT.DOMAIN, dom), (KICK_STAT.KICK, 1)]

/-! ## A level reported failed (R74, R91) -/

/-- The request that a merge entry stands for. -/
def MergeEnt.asReq (m : MergeEnt) (c : Nat) : QReq := { id := m.id, r := ⟨⟨c % 512, by omega⟩, m.word, m.cls, .write m.data m.mask false, m.src, m.req⟩ }

/-- The request that a slow path serves. -/
def Slow.asReq (x : Slow) (c : Nat) : QReq :=
  match x.cont with
  | .deliver q => q
  | .atomic q => q
  | .merge m => m.asReq c

/-- Requests to a failed level end with a command error (R74): queued, in flight, in the merge buffer, on the slow path, waiting for credit. -/
def Hw.endLevel (h : Hw) (c l : Nat) : Hw :=
  let s := h.col c
  let hit := fun (q : QReq) => wordLevel q.r.word == l
  let h := h.setCol c ({ s with rq := s.rq.filter (!hit ·), wq := s.wq.filter (!hit ·), flight := s.flight.filter (!hit ·),
                                merge := s.merge.filter fun m => wordLevel m.word != l, slow := s.slow.filter fun x => wordLevel x.word != l,
                                waiting := s.waiting.filter fun r => wordLevel r.word != l, flushQ := s.flushQ.filter (· != l),
                                rows := s.rows.filter fun r => r.level != l }.drainCheck)
  let h := if (h.col c).flushQ.isEmpty then h.put (TMC_COL_B.FLUSH c) 0 else h
  let l' := (s.slow.filter fun x => wordLevel x.word == l).map (·.asReq c) ++ s.flight.filter hit ++ s.rq.filter hit ++ s.wq.filter hit ++
    (s.merge.filter fun m => wordLevel m.word == l).map (·.asReq c)
  let h := l'.foldl (fun h q => h.cmdError q) h
  (s.waiting.filter fun r => wordLevel r.word == l).foldl (fun h r => (h.refuse r).portFreed r) h

/-- A level of a column reported failed for reason `why` (0 alerts, 1 verification, 2 fill): kickstand with cause fault. -/
def Hw.levelFail (h : Hw) (c l why : Nat) : Hw :=
  if (h.col c).failed.contains l then h
  else
    let t := c / 64
    let h := h.modCol c fun s => { s with failed := s.failed ++ [l] }
    let h := (h.put (TMC_ERRLOG.FAILED_LVL t) (h.get (TMC_ERRLOG.FAILED_LVL t) ||| 2 ^ l)).ev 0x202 2 4 c l why
    (h.endLevel c l).kickEnter 3 0xFF (2 ^ t)

end Sys2Proof.Machine
end

