-- ==== Sys2Proof/WellFormed.lean ====
section
/-!
DEFINITION. Well-formed commands: what the spec's own formats demand of a command's operands beyond their types. Every check stands in one
arm; every other command is well formed whatever its operands.
-/
namespace Sys2Proof

/-- CXL.mem requests name whole 64-byte lines (R380). -/
def lineAligned (hpa : BitVec 52) : Bool := hpa.toNat % 64 == 0

/-- The class that a request's source fixes (R50). A window's requests are FABRIC for COPY and TRANSPOSE and UPKEEP for FILL, ERASE and
SCRUB_REGION. -/
def ColReq.classed (r : ColReq) : Bool :=
  match r.src, r.cls with
  | .queue _ _ _ _, .paced => true
  | .drain _ _, .paced => true
  | .index _ _, .paced => true
  | .host _ _, .host => true
  | .hostWrite _ _, .host => true
  | .chan _, .fabric => true
  | .remote _ _ _ _, .fabric => true
  | .spill _, .fabric => true
  | .window _, .fabric => true
  | .window _, .upkeep => true
  | .fill _, .upkeep => true
  | .scrub, .upkeep => true
  | .upkeep, .upkeep => true
  | _, _ => false

/-- Whether a command's operands are some row's operands: line addresses (R380), words of a column (R14) and the class of the source (R50), one sample for each of 30 domains
(R428) and 193 sensors (R441), fast samples of die sensors (R441). -/
def Instr.wf : Instr → Bool
  | .registerWrite _ _ _ => true
  | .hostMemRead hpa _ _ => lineAligned hpa
  | .hostMemWrite hpa _ _ _ _ => lineAligned hpa
  | .hdmDecoderCommit _ _ => true
  | .birspReceive _ _ _ => true
  | .hostIoCompletion _ _ _ => true
  | .atsTranslationCompletion _ r => (match r with
    | .ok _ _ _ n => decide (n ≤ 18)
    | _ => true)
  | .pageGroupResponse _ _ => true
  | .atsInvalidate _ _ => true
  | .ideCheckFailed _ => true
  | .ideKmKeyProg _ _ => true
  | .spdmRequest _ _ => true
  | .sqDoorbell _ _ => true
  | .cqHeadWrite _ _ => true
  | .windowEnable _ => true
  | .windowDisable _ => true
  | .completionWrite _ => true
  | .loadImage _ => true
  | .imageReadComplete _ => true
  | .imageUnload _ => true
  | .start _ => true
  | .stop _ => true
  | .stopForce _ => true
  | .stopTimeout => true
  | .snapshot _ => true
  | .preemptQuiesced => true
  | .restore _ => true
  | .patchParams _ => true
  | .fill _ => true
  | .copy _ => true
  | .transpose _ => true
  | .erase _ => true
  | .scrubRegion _ => true
  | .setGearCap _ => true
  | .kickstandEnter _ => true
  | .kickstandLeave _ _ => true
  | .fabricEnumOrigin _ => true
  | .fabricEnumClear _ => true
  | .queryCapacity _ => true
  | .queryImageState _ => true
  | .queryNode _ => true
  | .queryGear _ => true
  | .queryReserve _ => true
  | .identify => true
  | .getEventRecords _ => true
  | .clearEventRecords _ _ => true
  | .identifyMemoryDevice => true
  | .getPoisonList => true
  | .injectPoison _ => true
  | .clearPoison _ _ => true
  | .perstAssert _ => true
  | .perstDeassert => true
  | .hotReset _ => true
  | .linkDisable _ => true
  | .linkDown => true
  | .functionLevelReset => true
  | .cxlReset _ _ => true
  | .d3hotEntry => true
  | .d0Entry => true
  | .mapCommit => true
  | .mapInstallDone => true
  | .mapStagingWrite _ _ _ => true
  | .rsvNextWrite _ => true
  | .seqRequestArrive a => decide (a.req.word < 37748736) && a.req.classed
  | .seqCreditReturn _ => true
  | .slotTransfer _ _ _ => true
  | .readDataReturn _ _ _ _ _ _ => true
  | .outerDecodeDone _ => true
  | .pacedBurstEnd _ => true
  | .hostUrgent _ _ => true
  | .requestAged _ _ => true
  | .mergeEntryAgeClose _ _ => true
  | .refreshDue _ _ => true
  | .refreshIssue _ _ => true
  | .owedRefreshFlush _ => true
  | .cmdAlert _ _ _ => true
  | .testOpenWrite _ _ => true
  | .feedZoneStart _ _ => true
  | .feedZoneEnd _ => true
  | .verifyFeedZone _ _ => true
  | .fzForce _ => true
  | .coreHoldEnd _ => true
  | .scrubRow _ _ => true
  | .scrubNow _ => true
  | .patchStoreWrite _ => true
  | .translationWalkDone _ _ => true
  | .execWordIssue _ _ => true
  | .execResultLand _ => true
  | .legacyConditionalWord _ => true
  | .haltReq _ => true
  | .resume _ => true
  | .step _ => true
  | .fetch _ => true
  | .drain _ => true
  | .dma _ => true
  | .sync _ => true
  | .accessLoop _ => true
  | .accessStop _ => true
  | .accessStreamResume _ => true
  | .tileGenerate _ _ _ => true
  | .add _ => true
  | .sub _ => true
  | .and _ => true
  | .or _ => true
  | .xor _ => true
  | .sll _ => true
  | .srl _ => true
  | .sra _ => true
  | .slt _ => true
  | .sltu _ => true
  | .mul _ => true
  | .mulh _ => true
  | .divu _ => true
  | .remu _ => true
  | .fadd _ => true
  | .fsub _ => true
  | .fmul _ => true
  | .fdiv _ => true
  | .fsqrt _ => true
  | .fmin _ => true
  | .fmax _ => true
  | .feq _ => true
  | .flt _ => true
  | .fle _ => true
  | .fcvtws _ => true
  | .fcvtsw _ => true
  | .addi _ => true
  | .andi _ => true
  | .ori _ => true
  | .xori _ => true
  | .lui _ => true
  | .lw _ => true
  | .sw _ => true
  | .beq _ => true
  | .bne _ => true
  | .blt _ => true
  | .bge _ => true
  | .bltu _ => true
  | .bgeu _ => true
  | .jal _ => true
  | .jr _ => true
  | .prd _ => true
  | .pwr _ => true
  | .sig _ => true
  | .wait _ => true
  | .launch _ => true
  | .rearm _ => true
  | .cyc _ => true
  | .lap _ => true
  | .stops _ => true
  | .lapRelease => true
  | .signalArrive _ _ _ _ => true
  | .waitRelease _ _ => true
  | .deferredSignalSend _ _ => true
  | .syncValWrite _ _ _ => true
  | .barrierArrival _ _ => true
  | .barHeldSend _ => true
  | .watchdog _ _ => true
  | .creditDeadlock _ _ => true
  | .coreReset _ => true
  | .dmaBatchAccept _ => true
  | .dmaBlockComplete _ _ _ => true
  | .drlRecordIntake => true
  | .drlForwardRetry _ => true
  | .drlConsumeSignal _ => true
  | .drlRefillDone _ => true
  | .flitReceive _ _ _ => true
  | .getReq => true
  | .getData => true
  | .put => true
  | .signal => true
  | .atomicAdd => true
  | .drl => true
  | .resp => true
  | .reduce => true
  | .windowGo _ => true
  | .barrier => true
  | .enumToken => true
  | .ringSizeNotice => true
  | .enumReport => true
  | .fmNotice => true
  | .routeUpdate => true
  | .linkHandshake _ _ => true
  | .linkTag _ _ => true
  | .tagGroupClose _ => true
  | .rekey _ => true
  | .laneLockLoss _ _ => true
  | .fecErrorRate _ _ => true
  | .portTrainingDone _ _ => true
  | .neighborSilent _ => true
  | .portRetryTimer _ => true
  | .fabStall _ _ => true
  | .enumTokenTimeout => true
  | .enumSizeTimeout => true
  | .coordWrite _ => true
  | .portEnableWrite _ _ => true
  | .retrain _ => true
  | .cageModuleChange _ _ => true
  | .cageOvercurrent _ => true
  | .coldStart _ => true
  | .recoveryFwUpdate _ _ _ => true
  | .warmStart _ => true
  | .inputLoss _ => true
  | .powerOffHoldEnd _ _ _ => true
  | .domainOvercurrent _ _ => true
  | .powerSampleFast _ => true
  | .powerSampleSlow _ _ doms => doms.length == 30
  | .capWrite _ => true
  | .gearChangeStart => true
  | .gearPllLock => true
  | .gearChangeEnd => true
  | .freewheelRequest => true
  | .wake => true
  | .sensorSlowRound samples => samples.length == 193
  | .sensorFastRound samples => samples.all fun x => decide (x.1 < 192)
  | .fastRoundExit _ => true
  | .hotRefreshExit _ => true
  | .thresholdRelease _ _ => true
  | .brakeDwell => true
  | .heavyDwell => true
  | .limThermRise => true
  | .getCerts => true
  | .getReport => true
  | .challenge => true
  | .challengeExpiry => true
  | .enroll _ _ _ => true
  | .transfer _ _ _ _ => true
  | .setOwner _ _ _ => true
  | .debugUnlock _ _ _ _ => true
  | .fwWrite _ _ => true
  | .fwActivate _ => true
  | .fwCommit => true
  | .pldmFwUpdate _ _ => true
  | .brkAll => true
  | .resumeAll => true
  | .stepAll => true
  | .sidebandAccess _ => true
  | .evtHeadWrite _ => true
  | .eventCoalesceEnd _ => true
  | .jtagBypass => true
  | .jtagSamplePreload _ _ => true
  | .jtagExtest => true
  | .jtagIdcode => true
  | .hostLinkUp => true
  | .hostCleanEviction hpa => lineAligned hpa
  | .eraseEnd _ => true
  | .testConnectorAccess _ => true

end Sys2Proof
end

