-- ==== Sys2Proof/Machine/Columns.lean ====
section
/-!
DEFINITION. The commands of the tower memory controllers: column requests and slots (R46 to R64), refresh (R65 to R70), command errors
(R73, R74), feed zones (R82 to R94), stored-data protection (R95 to R119).
-/
namespace Sys2Proof.Machine

/-! ## SRAM and crossbar checks (R119, R120) -/

/-- Kind and number of the unit that owns an SRAM, as an event source (R504). -/
def sramOwner (k unit : Nat) : Nat × Nat :=
  if k = 0 then (4, unit) else if k = 2 then (2, unit) else if k = 3 then (6, unit) else if k ≥ 7 then (1, unit) else (3, unit)

/-- A detected SRAM fault (R119): one bit is corrected and counted; more lose the word, which is marked, or halt the core where it was code
or scalar data. -/
def Hw.sramFault (h : Hw) (f : SramFault) : Hw :=
  let (sk, si) := sramOwner f.kind f.unit
  let arg := f.kind.val + f.off * 2 ^ 8
  if ¬ f.multi then h.evC 0x231 0 sk si arg 0
  else
    let h := h.ev 0x232 2 sk si arg 0
    match f.kind.val with
    | 0 => h.setMark (sramEng f.unit + f.off) true
    | 1 => h.setMark (sramCore f.unit + f.off) true
    | 2 => h.setMark (sramCluster f.unit + f.off) true
    | 3 => h.setMark (sramHub + f.unit * 0x4000000 + f.off) true
    | 4 =>
      let q := f.off / 16384
      h.modCore f.unit fun s => s.setQueue q ((s.queue q).map fun (e : QEnt) =>
        if e.id % 64 = f.off % 16384 / 256 then { e with slots := e.slots.modify (f.off % 256 / 32) fun x => { x with mark := true } } else e)
    | 5 => h.halt f.unit 0x0D { stream := 0, pc := f.off }
    | 6 => h.halt f.unit 0x0D { stream := 2, pc := f.off }
    | 7 => h.modTower f.unit fun s => { s with spares := tset (fun _ => (0, false)) s.spares (f.off / 32) (0, true) }
    | _ => h

def Hw.sramFaults (h : Hw) (l : List SramFault) : Hw := l.foldl Hw.sramFault h

/-! ## Requests and slots -/

/-- A column request reaches its sequencer (R51). -/
def execSeqRequestArrive (a : SeqArrival) (s : State) : Host.Outcome State Fault Refusal :=
  if a.req.word ≥ colWords ∨ ¬ a.req.classed then .fault .malformed else done s (s.hw.arrivePar a.req a.par)

/-- Credit returns to a port, and the oldest request that has room enters (R51). -/
def execSeqCreditReturn (col : Fin 512) (s : State) : Host.Outcome State Fault Refusal := done s (s.hw.creditReturn col)

/-- One column slot (R52 to R61). -/
def execSlotTransfer (col : Fin 512) (slot : Fin 64) (x : SlotInput) (s : State) : Host.Outcome State Fault Refusal :=
  done s (s.hw.slotStep col slot x.ready x.flips x.shadow)

/-- A word in flight arrives (R80, R96, R120): sampled, classified, delivered. Reads of one word arrive in order, none while a slow path of the word
stands (R48, R106). A parity failure on the way to the requester poisons the word or ends the request; the sequencer has corrected the word before. -/
def Hw.dataReturn (h : Hw) (c k : Nat) (flips : Wires) (shadow : BitVec 16) (par : Option XbarFault) : Hw :=
  match (h.col c).flight[k]? with
  | none => h
  | some q =>
    let s := h.col c
    let w := q.r.word
    if s.flight.any (fun x => x.r.word == w && decide (x.id < q.id)) ∨ s.slow.any (fun x => x.word == w) then h
    else
      let x := (h.readWord c w flips).1
      let h := h.sampleRead c (wordLevel w) x shadow
      let h := match crossing (xbarPath c q.r.src) par with
        | none => h.readReturn q flips
        | some p =>
          if ¬ p.header ∧ (x = InnerCls.bad ∨ x = InnerCls.poison) then h.readReturn q flips
          else
            let h := match h.readWord c w flips with
              | (.corrected wire, d) => h.correction c w wire d
              | _ => h
            let gone := (h.modCol c fun s => { s with flight := s.flight.filter fun x => x.id != q.id }).xbarPar (xbarPath c q.r.src) p false
            if p.header then gone.cmdError q else gone.deliver q 0 true false
      h.modCol c Col.passNarrow

/-- READ_DATA_RETURN: the word at place `k` of the words in flight. -/
def execReadDataReturn (col : Fin 512) (k : Nat) (flips : Wires) (shadow : BitVec 16) (par : Option XbarFault) (flt : List SramFault) (s : State) :
    Host.Outcome State Fault Refusal :=
  done s ((s.hw.sramFaults flt).dataReturn col k flips shadow par)

/-- OUTER_DECODE_DONE: the oldest slow path of the column ends (R106), and what it held back passes on. -/
def execOuterDecodeDone (col : Fin 512) (s : State) : Host.Outcome State Fault Refusal :=
  done s (match (s.hw.col col).slow with
    | x :: _ => (s.hw.slowEnd col x).modCol col Col.passNarrow
    | [] => s.hw)

/-- PACED_BURST_END (R57, R67). -/
def execPacedBurstEnd (col : Fin 512) (s : State) : Host.Outcome State Fault Refusal := done s (s.hw.burstEnd col)

/-- A queued request changed. -/
def Col.modReq (s : Col) (id : Nat) (f : QReq → QReq) : Col :=
  let g := fun (q : QReq) => if q.id = id then f q else q
  { s with rq := s.rq.map g, wq := s.wq.map g }

/-- HOST_URGENT (R60). -/
def execHostUrgent (col : Fin 512) (id : Nat) (s : State) : Host.Outcome State Fault Refusal :=
  done s (s.hw.modCol col fun c => c.modReq id fun q => if q.r.cls = .host then { q with urgent := true } else q)

/-- REQUEST_AGED (R60): the promotion is counted. -/
def execRequestAged (col : Fin 512) (id : Nat) (s : State) : Host.Outcome State Fault Refusal :=
  let c := s.hw.col col
  if (c.rq ++ c.wq).any fun q => q.id == id && !q.aged then
    done s ((s.hw.modCol col fun c => c.modReq id fun q => { q with aged := true }).count (TEL_COL_B.AGED col) 1)
  else done s s.hw

/-- MERGE_ENTRY_AGE_CLOSE (R62). -/
def execMergeEntryAgeClose (col : Fin 512) (word : Nat) (s : State) : Host.Outcome State Fault Refusal :=
  done s (s.hw.modCol col fun c => c.closeMerge word false)

/-! ## Refresh -/

/-- REFRESH_DUE (R67). -/
def execRefreshDue (col : Fin 512) (level : Fin 6) (s : State) : Host.Outcome State Fault Refusal := done s (s.hw.refreshDue col level)

/-- REFRESH_ISSUE (R67). -/
def execRefreshIssue (col : Fin 512) (level : Fin 6) (s : State) : Host.Outcome State Fault Refusal := done s (s.hw.refreshIssue col level)

/-- OWED_REFRESH_FLUSH (R68). -/
def execOwedRefreshFlush (col : Fin 512) (s : State) : Host.Outcome State Fault Refusal := done s (s.hw.flush col)

/-! ## Command alerts (R73, R74) -/

/-- The requests an alert covers: the one of a read or write command, every one of the row an activate would have opened. The alert names only
column, level and command kind; the model takes as its read the oldest in flight, else the first queued; as its write the first that order by
word lets go; as its activate that of the row of the oldest queued request; and never the drain of a merge entry (DESIGN CHOICE, log 55). -/
def Col.covered (s : Col) (level kind : Nat) : List QReq :=
  let hit := fun (q : QReq) => wordLevel q.r.word == level
  let reads := s.flight.filter hit ++ s.rq.filter hit
  let writes := s.wq.filter fun q => hit q && !s.blocked q.r.word q.id true
  if kind = 1 then reads.take 1
  else if kind = 2 then writes.take 1
  else if kind = 0 then
    let all := s.rq.filter hit ++ s.wq.filter hit
    match all.foldl (fun (b : Option QReq) q => match b with
      | none => some q
      | some a => if q.id < a.id then some q else some a) none with
    | none => []
    | some a => all.filter fun q => wordRow q.r.word == wordRow a.r.word
  else []

def clsCode : Cls → Nat
  | .paced => 0 | .host => 1 | .fabric => 2 | .upkeep => 3

/-- A command alert from a level's array die (R73): the bank is precharged, covered requests end, the error is logged, and more than 16
within 1 ms report the level failed (R74). A fill's word is reissued up to 3 times, then its column is reported failed. -/
def Hw.cmdAlert (h : Hw) (c level kind : Nat) : Hw :=
  let t := c / 64
  let h := h.closeRow c level
  let l := (h.col c).covered level kind
  let first := l.foldl (fun (b : Option QReq) q => match b with
    | none => some q
    | some a => if q.id < a.id then some q else some a) none
  let cls := match first with
    | some q => clsCode q.r.cls
    | none => 3
  let req := match first with
    | some q => q.r.req
    | none => reqArg 7 0 0
  let ids := l.map (·.id)
  let h := h.modCol c fun s => { s with rq := s.rq.filter (!ids.contains ·.id), wq := s.wq.filter (!ids.contains ·.id),
                                        flight := s.flight.filter (!ids.contains ·.id) }.drainCheck
  let (h, dead) := l.foldl (fun (a : Hw × Bool) q => match q.r.src with
    | .fill n => if n < 3 then (a.1.arrive { q.r with src := .fill (n + 1) }, a.2) else (a.1, true)
    | _ => (a.1.cmdError q, a.2)) (h, false)
  let h := h.modCol c Col.passNarrow
  let h := h.ev 0x201 2 4 c (level + kind * 2 ^ 3 + cls * 2 ^ 6) req
  let h := if h.flag (TMC_ERRLOG.VALID t) then h.mark (TMC_ERRLOG.MORE t)
    else (h.mark (TMC_ERRLOG.VALID t)).puts [(TMC_ERRLOG.COLUMN t, c % 64), (TMC_ERRLOG.LEVEL t, level), (TMC_ERRLOG.KIND t, kind), (TMC_ERRLOG.CLASS t, cls)]
  let recent := ((h.col c).alerts.filter fun x => decide (h.time - x.2 < 100000)) ++ [(level, h.time)]
  let h := h.modCol c fun s => { s with alerts := recent }
  if (recent.filter fun x => x.1 == level).length > 16 then h.levelFail c level 0 else if dead then h.levelFail c level 2 else h

/-- CMD_ALERT (R73). -/
def execCmdAlert (col : Fin 512) (level : Fin 6) (kind : Fin 6) (s : State) : Host.Outcome State Fault Refusal :=
  done s (s.hw.cmdAlert col level kind)

/-- TEST_OPEN_WRITE (R61): ignored while an image runs: RUNNING, FAULTED or held for a stop or snapshot (DESIGN CHOICE, log 55). -/
def execTestOpenWrite (t : Fin 8) (v : Bool) (s : State) : Host.Outcome State Fault Refusal :=
  done s (s.hw.atPll true (.testOpen t v) fun h =>
    if h.get IMG_STAT.STATE ≥ 3 then h else (h.put (TMC_CTRL.OPEN t) (bnat (v || h.kick || !h.released))).put (TMC_CTRL.TEST_OPEN t) (bnat v))

/-! ## Feed zones -/

/-- FEED_ZONE_START (R85). -/
def execFeedZoneStart (col : Fin 512) (burst : List BurstRead) (s : State) : Host.Outcome State Fault Refusal :=
  done s (s.hw.zoneStart col burst)

/-- FEED_ZONE_END (R82, R84). -/
def execFeedZoneEnd (col : Fin 512) (s : State) : Host.Outcome State Fault Refusal := done s (s.hw.zoneEnd col)

/-- The verification zone of a column after a clock restart (R90, R91): `reads` are the calibration words whose wires do not all arrive as they
stand, each correction counted by its wire and level (R88). Owed refreshes are issued, and PACED traffic is admitted. It has failed where a word does
not read clean. A failed level is not read (R74). -/
def Hw.verifyZone (h : Hw) (c : Nat) (reads : List BurstRead) : Hw :=
  if ¬ h.mode.verify.contains c ∨ ¬ h.colClock c then h
  else
    let reads := reads.filter fun r => !(h.col c).failed.contains r.level.val
    let fixed := reads.filterMap fun r => match (h.readCal c r.level r.word r.flips).1 with
      | .corrected w => some (r.level.val, w)
      | _ => none
    let lost := (reads.filter fun r => match (h.readCal c r.level r.word r.flips).1 with
      | .bad => true
      | .poison => true
      | _ => false).map fun r => r.level.val
    let h := (h.refreshAll c).modMode fun m => { m with verify := m.verify.filter (· != c) }
    let h := if fixed.isEmpty then h
      else
        let levels := (List.range 6).foldl (fun a l => a + bnat (fixed.any fun x => x.1 == l) * 2 ^ l) 0
        let h := fixed.foldl (fun h x => (h.wireCorr c x.1 x.2).2) h
        ((fixed.foldl (fun h x => h.markSuspect c x.1 x.2) h).put (FZ_COL_A.INTERVAL c) 1).ev 0x213 1 4 c levels fixed.length
    let h := if fixed.isEmpty ∧ lost.isEmpty then h else h.mark (FZ_COL_A.VERIFY_FAIL c)
    lost.foldl (fun h l => h.levelFail c l 1) h

/-- VERIFY_FEED_ZONE. -/
def execVerifyFeedZone (col : Fin 512) (reads : List BurstRead) (s : State) : Host.Outcome State Fault Refusal :=
  done s (s.hw.verifyZone col reads)

/-- FZ_FORCE (R94): a zone falls due on every column of the tower. -/
def execFzForce (t : Fin 8) (s : State) : Host.Outcome State Fault Refusal :=
  done s (s.hw.atPll true (.fzForce t) fun h => foldUp 64 (fun c h => h.modCol (64 * t + c) fun s => { s with due := true }) h)

/-! ## The patrol (R110 to R114) -/

/-- End of a patrol pass of a tower (R110, R114): counts to 0, entries with count 0 and REWRITTEN clear freed, hard words without a spare due for
report again, the patrol back at row 0. -/
def Hw.passEnd (h : Hw) (t : Nat) : Hw :=
  let h := foldUp 64 (fun n h =>
    if ¬ h.flag (PROT_TRACK.VALID t n) then h
    else
      let h := h.put (PROT_TRACK.COUNT t n) 0
      if h.flag (PROT_TRACK.REWRITTEN t n) then h else h.trackFree t n) h
  let h := h.modTower t fun s => { s with hard := s.hard.map fun x => (x.1, x.2.1, false), missed := false }
  (foldUp 64 (fun c h => h.modCol (64 * t + c) fun s => { s with patrol := 0 }) h).put (PROT_SCRUBPOS.SEQ t) 0

/-- Rows of one pass: the data rows, then the six calibration rows (R111). -/
def passRows : Nat := 1179654

/-- A complete pass of a tower (R118): it is counted, and the overflow flag ends once a complete pass of every tower has found the list complete. -/
def Hw.passDone (h : Hw) (t : Nat) : Hw :=
  let found := !(h.tower t).missed
  let h := ((h.passEnd t).count (PROT_SCRUBPOS.PASSES t) 1).modTower t fun s => { s with listed := found }
  { h with poisonOver := h.poisonOver && !(List.range 8).all fun t => (h.tower t).listed }

/-- A column's patrol moves on by one row; SEQ shows the least of the tower, and a complete pass ends (R122). -/
def Hw.patrolNext (h : Hw) (c : Nat) : Hw :=
  let t := c / 64
  let h := h.modCol c fun s => { s with patrol := s.patrol + 1 }
  let least := (List.range 64).foldl (fun m k => min m (h.col (64 * t + k)).patrol) passRows
  if least ≥ passRows then h.passDone t else h.put (PROT_SCRUBPOS.SEQ t) least

/-- A hard word without a spare that the patrol meets is reported once in the pass (R114). -/
def Hw.hardAgain (h : Hw) (c n : Nat) : Hw :=
  ((h.tower (c / 64)).hard.filter fun x => x.1 == c && x.2.1 / 32 == n).foldl (fun h x =>
    if (h.patchOf c x.2.1).isSome then h else h.hardReport c x.2.1) h

/-- A poisoned word that the patrol meets is listed if it is not, or the list is incomplete (R118). -/
def Hw.poisonMet (h : Hw) (c w : Nat) : Hw :=
  match h.dpaOf c (w * 32) with
  | none => h
  | some d =>
    if h.poison.contains d then h
    else if h.poison.length < 2048 then Hw.poisonSource { h with poison := h.poison ++ [d] } c w 1
    else h.poisonLost

/-- A word that the patrol finds wrong is rewritten and REWRITTEN is set, unless the correction has just given it a spare, which freed its entry
(R110, R111, R112). -/
def Hw.scrubWrite (h : Hw) (c w : Nat) (d : Word) : Hw :=
  let h := h.selfWrite c w d false h.ids
  if (h.patchOf c w).isSome then h else h.trackRewritten c w

/-- Symbols of a row that two readings differ in: data and outer check bytes. -/
def symbolsApart (a b : List Word) (p q : Nat) : Nat :=
  (((rowSyms a).zip (rowSyms b)).filter fun x => x.1 != x.2).length + ((List.range 16).filter fun i => bitsOf p (16 * i) 16 != bitsOf q (16 * i) 16).length

/-- The data of a row as the outer code takes them: poisoned words as zero (R98). -/
def rowData (words : List (InnerCls × Word)) : List Word := words.map fun x => if x.1 = .poison then 0 else x.2

/-- What the patrol rewrites of a row whose words it has read (R111): the words, with the data that replace them, none for a word that is lost. -/
def Hw.scrubPlan (h : Hw) (c n : Nat) (words : List (InnerCls × Word)) : List (Nat × Option Word) :=
  let data := rowData words
  let cls := fun i => (words.getD i (.clean, 0)).1
  let bad := (List.range 32).filter fun i => cls i == .bad
  let outer := h.rawOuter c n
  if bad.isEmpty then
    if outerCheck data = outer then (List.range 32).filterMap fun i => match cls i with
      | .corrected _ => some (i, some (data.getD i 0))
      | _ => none
    else match outerDecode data outer [] with
      | some (fixed, _) => (List.range 32).filterMap fun i => if cls i != .poison && fixed.getD i 0 != data.getD i 0 then some (i, some (fixed.getD i 0)) else none
      | none => []
  else match outerDecode data outer bad with
    | some (fixed, _) => (List.range 32).filterMap fun i =>
        if cls i != .poison && (bad.contains i || fixed.getD i 0 != data.getD i 0) then some (i, some (fixed.getD i 0)) else none
    | none => bad.map fun i => (i, none)

/-- One rewrite of the patrol's plan. A corrected word of a suspect wire-level is rewritten, but as an interface correction it makes no tracker entry
and sets no REWRITTEN, since R88 keeps it from the tracker (DESIGN CHOICE, log 55). -/
def Hw.scrubApply (h : Hw) (c n : Nat) (words : List (InnerCls × Word)) (x : Nat × Option Word) : Hw :=
  let w := n * 32 + x.1
  let cls := (words.getD x.1 (.clean, 0)).1
  let iface := match cls with
    | .corrected wire => (h.col c).suspect.contains (n % 6 * 272 + wire)
    | _ => false
  let hard := cls == .bad && h.isRewritten c w
  match x.2 with
  | some d =>
    let h := if iface then h.selfWrite c w d false h.ids else h.scrubWrite c w d
    if hard then h.patchWord c w d false else h
  | none =>
    let h := ((h.selfWrite c w 0 true h.ids).poisonEvent c w).poisonSource c w 1
    if hard then h.patchWord c w 0 true else h

/-- The patrol's checks of a data row (R111). `words` are its words as read: corrections are counted, poison stays, and what the plan names is
rewritten. Errors that outer decoding alone has found are logged, and corrected check symbols are written. -/
def Hw.scrubData (h : Hw) (c n : Nat) (words : List (InnerCls × Word)) : Hw :=
  let data := rowData words
  let outer := h.rawOuter c n
  let plan := h.scrubPlan c n words
  let level := n % 6
  let h := (List.range 32).foldl (fun h i => match (words.getD i (.clean, 0)).1 with
    | .corrected wire => h.correction c (n * 32 + i) wire (data.getD i 0)
    | .poison => h.poisonMet c (n * 32 + i)
    | _ => h) h
  let h := plan.foldl (fun h x => h.scrubApply c n words x) h
  if words.any (fun x => x.1 == .bad) ∨ outerCheck data = outer then h
  else match outerDecode data outer [] with
    | some (fixed, k) =>
      let h := if fixed = data ∧ ¬ (h.col c).wq.any (fun q => q.r.word / 32 == n) then h.encodeRow c n else h
      (h.ev 0x222 0 4 c (level + n / 6 * 2 ^ 3) (symbolsApart data fixed outer k * 2 ^ 8)).count (PROT_ERRCNT.OUTER_FIX (c / 64)) 1
    | none => h.ev 0x222 1 4 c (level + n / 6 * 2 ^ 3) 1

/-- The words of a row that the patrol reads are sampled like any read (R80). -/
def Hw.scrubSample (h : Hw) (c level : Nat) (cls : Nat → InnerCls) (shadow : Nat → BitVec 16) : Hw :=
  foldUp 32 (fun i h => h.sampleRead c level (cls i) (shadow i)) h

/-- The patrol's check of a calibration row (R111): the inner code of each word and the outer code of the row. A fault is logged as FZ_SUSPECT on its
level, with the wire of a corrected bit; where no wire is known the event names wire 0 (DESIGN CHOICE, log 55). -/
def Hw.scrubCal (h : Hw) (c level : Nat) (of : Nat → Wires × BitVec 16) : Hw :=
  let words := (List.range 32).map fun i => h.readCal c level i (of i).1
  let h := foldUp 32 (fun i h =>
    let x := (words.getD i (.clean, 0)).1
    let h := h.sampleRead c level x (of i).2
    match x with
    | .clean => h
    | .corrected wire => (h.wireCorr c level wire).2.ev 0x212 1 4 c (level + wire * 2 ^ 8) 0
    | _ => h.ev 0x212 1 4 c level 0) h
  if words.all (fun x => x.1 != .bad && x.1 != .poison) ∧ outerCheck (words.map (·.2)) ≠ h.calOuter c level then h.ev 0x212 1 4 c level 0 else h

/-- Whether anything at the column stands for a word of a row. -/
def Col.rowBusy (s : Col) (n : Nat) : Bool :=
  ((s.rq ++ s.wq ++ s.flight).map (·.r.word) ++ s.merge.map (·.word) ++ s.slow.map (·.word)).any fun w => w / 32 == n

/-- Whether the patrol may have a row (R55, R85): no feed zone is in progress, nothing older stands for its words, and it is open, or no PACED request
is queued to its bank and the activation window permits it. -/
def Hw.scrubMay (h : Hw) (c level row : Nat) : Bool :=
  let s := h.col c
  !h.flag (FZ_COL_A.ACTIVE c) && !s.rowBusy (row * 6 + level) && s.flushQ.head? != some level &&
    ((match s.openOf level with
      | some r => r.row == row
      | none => false) || ((s.pacedAt level).isEmpty && h.windowOpen c))

/-- One row of the patrol (R111). `reads` are the words whose transfer is not plain: wires that invert on the way, and wires of the sampled group that
differ at the trial delay. A row that may not be read yet waits, and so does one of which the host may hold a line that must be rewritten (R382). A row
of a failed level gets no command, and the pass goes on. -/
def Hw.scrubRow (h : Hw) (c : Nat) (reads : List (Fin 32 × Wires × BitVec 16)) : Hw :=
  let t := c / 64
  let n := (h.col c).patrol
  let of := fun i => ((reads.find? fun x => x.1.val == i).map (·.2)).getD (0, 0)
  if ¬ h.flag (PROT_CTRL.SCRUB_EN t) ∨ ¬ h.colClock c then h
  else if (h.col c).failed.contains (n % 6) then h.patrolNext c
  else if ¬ h.scrubMay c (n % 6) (n / 6) then h
  else if n ≥ 1179648 then ((((h.closeRow c (n % 6)).activate c (n % 6) calRow false).scrubCal c (n % 6) of).calClose c).patrolNext c
  else
    let h := (h.closeRow c (n % 6)).activate c (n % 6) (n / 6) false
    let words := (List.range 32).map fun i => h.readWord c (n * 32 + i) (of i).1
    let lines := (h.scrubPlan c n words).filterMap fun x => h.dpaOf c ((n * 32 + x.1) * 32)
    match lines.findSome? fun d => h.claim d (d + 32) true with
    | some h => h
    | none => (((h.scrubSample c (n % 6) (fun i => (words.getD i (.clean, 0)).1) fun i => (of i).2).scrubData c n words).hardAgain c n).patrolNext c

/-- SCRUB_ROW. -/
def execScrubRow (col : Fin 512) (reads : List (Fin 32 × Wires × BitVec 16)) (s : State) : Host.Outcome State Fault Refusal :=
  done s (s.hw.scrubRow col reads)

/-- SCRUB_NOW (R111): the pass ends at once, is not counted, and a new one starts at row 0. -/
def execScrubNow (t : Fin 8) (s : State) : Host.Outcome State Fault Refusal := done s (s.hw.atPll true (.scrubNow t) fun h => h.passEnd t)

/-- PATCH_STORE_WRITE (R113): new patch entries of the tower reach flash. -/
def execPatchStoreWrite (t : Fin 8) (s : State) : Host.Outcome State Fault Refusal :=
  let h := s.hw
  let store := (h.tower t).unsaved.foldl (fun m n => tset (fun _ => 0) m (16 * t.val + n) (h.word (PROT_PATCH.off t n))) h.flash.patches
  done s ((h.modFlash fun f => { f with patches := store }).modTower t fun s => { s with unsaved := [] })

end Sys2Proof.Machine
end

