-- ==== Sys2Proof/Machine/Host.lean ====
section
/-!
DEFINITION. The host port (R376 to R385, R396 to R401): CXL.mem requests, HDM decoders, the host-cached filter and back-invalidation, the
region map's commit (R41 to R44), command-window registers, the memory-device mailbox and link encryption.
-/
namespace Sys2Proof.Machine

/-! ## HDM decoders (R379) -/

def Hw.hdm (h : Hw) (n : Nat) : Option Hdm := tget (fun _ => none) h.host.hdm n

def hdmUnit : Nat := 2 ^ 28

/-- DPA base of decoder `n` for a skip: the end of the decoder below plus the skip. -/
def Hw.hdmBase (h : Hw) (n skip : Nat) : Nat :=
  (if n = 0 then 0 else match h.hdm (n - 1) with
    | some d => d.dpaBase + d.dec.size / d.dec.ways
    | none => 0) + skip

/-- Whether a decoder may be committed (R379). -/
def Hw.hdmOk (h : Hw) (n : Nat) (d : HdmDecoder) : Bool :=
  [1, 2, 4, 8, 16].contains d.ways && [256, 512, 1024, 2048, 4096, 8192, 16384].contains d.gran &&
    decide (d.size % (hdmUnit * d.ways) = 0) && decide (d.skip % (hdmUnit * d.ways) = 0) &&
    decide (h.hdmBase n d.skip + d.size / d.ways ≤ h.rsvLo) && (n == 0 || (h.hdm (n - 1)).isSome) &&
    (List.range 4).all fun m => decide (m ≤ n) || (h.hdm m).isNone

/-- A decoder locked by its own Lock On Commit or by that of a decoder above. -/
def Hw.hdmLocked (h : Hw) (n : Nat) : Bool :=
  (List.range 4).any fun m => decide (n ≤ m) && (match h.hdm m with
    | some d => d.dec.lock
    | none => false)

/-- HDM_DECODER_COMMIT: the decoder is committed, or Error Not Committed is set; a locked decoder stands. -/
def execHdmDecoderCommit (n : Fin 4) (dec : HdmDecoder) (s : State) : Host.Outcome State Fault Refusal :=
  let h := s.hw
  if h.hdmLocked n then done s h
  else
    let ok := h.hdmOk n dec
    let d : Option Hdm := if ok then some ⟨dec, h.hdmBase n dec.skip⟩ else none
    done s (h.modHost fun x => { x with hdm := tset (fun _ => none) x.hdm n d, hdmErr := tset (fun _ => false) x.hdmErr n !ok })

/-- The device physical address a decoder gives a host physical address, where it is this module's. -/
def Hdm.dpa (d : Hdm) (hpa : Nat) : Option Nat :=
  if hpa < d.dec.base ∨ hpa ≥ d.dec.base + d.dec.size then none
  else
    let o := hpa - d.dec.base
    if o / d.dec.gran % d.dec.ways ≠ d.dec.position then none
    else some (d.dpaBase + o / (d.dec.gran * d.dec.ways) * d.dec.gran + o % d.dec.gran)

/-- The device physical address of a host physical address (R379). -/
def Hw.hostDpa (h : Hw) (hpa : Nat) : Option Nat :=
  (List.range 4).findSome? fun n => match h.hdm n with
    | some d => d.dpa hpa
    | none => none

/-! ## The host-cached filter (R382, R383) -/

def filtSet (line : Nat) : Nat := line % 262144

/-- A line no longer tracked. -/
def FiltSt.drop (f : FiltSt) (line : Nat) : FiltSt :=
  { f with sets := tset (fun _ => []) f.sets (filtSet line) ((tget (fun _ => []) f.sets (filtSet line)).filter fun e => e.line != line),
           evict := f.evict.filter (· != line) }

/-- Whether a line can be recorded now: its set has room, or the eviction buffer has. -/
def FiltSt.canRecord (f : FiltSt) (line : Nat) : Bool :=
  let l := tget (fun _ => []) f.sets (filtSet line)
  (l.any fun e => e.line == line) || decide (l.length < 16) || decide (f.evict.length < 1024)

/-- A line recorded in state A or S; the oldest entry of a full set moves to the eviction buffer under BISnpInv. A line taken again while its
snoop is out stays recorded past that snoop's BIRsp. -/
def Hw.filtRecord (h : Hw) (line : Nat) (excl : Bool) : Hw :=
  let h := { h with filt := { h.filt with snoops := h.filt.snoops.map fun x => if x.line = line then { x with again := true } else x } }
  let l := tget (fun _ => []) h.filt.sets (filtSet line)
  let put := fun (h : Hw) (l : List FiltEnt) => { h with filt := { h.filt with sets := tset (fun _ => []) h.filt.sets (filtSet line) l } }
  if l.any fun e => e.line == line then put h (l.map fun e => if e.line = line then { e with excl := excl } else e)
  else if l.length < 16 then put h (l ++ [⟨line, excl⟩])
  else match l with
    | [] => h
    | old :: rest =>
      let h := put h (rest ++ [⟨line, excl⟩])
      Hw.snoop { h with filt := { h.filt with evict := h.filt.evict ++ [old.line] } } old.line true []

/-! ## PCI configuration space (R3) -/

/-- The identity fields of PCI configuration space. -/
structure PciId where
  vendor : Nat
  device : Nat
  revision : Nat
  subVendor : Nat
  subsystem : Nat
  classCode : Nat
  deriving DecidableEq, Repr

/-- What the module identifies itself with; the variant's fuse alone changes it. -/
def Hw.pciId (h : Hw) : PciId :=
  { vendor := 0x1D5C, device := 0x0A51, revision := 0x11, subVendor := 0x1D5C, subsystem := if h.fuses.variantS then 2 else 1, classCode := 0x050210 }

/-! ## CXL.mem requests (R380, R400) -/

/-- The CLEAN mark ends at the first write to device memory or SRAM (R420). -/
def Hw.unclean (h : Hw) : Hw :=
  if h.trust.erase.clean then (h.modTrust fun t => { t with erase := { t.erase with clean := false } }).put TRU_STAT.CLEAN 0 else h

/-- Host requests are answered with poison, and writes are discarded: an erase runs (R418), or the owner's policy requires IDE and a stream
is not Secure (R401). -/
def Hw.hostShut (h : Hw) : Bool :=
  h.mode.erase.isSome || (bitAt (h.get TRU_STAT.POLICY) 1 && !(h.host.ideIo && h.host.ideMem))

/-- Host requests wait: in freewheel (R439), while a map is being installed (R41), while the root PLL is unlocked (R435). -/
def Hw.hostWaits (h : Hw) : Bool := h.flag PWR_FW.FW || h.flag MAP_CTRL.BUSY || h.pllOff

/-- A column request of a host line. -/
def hostReq (c w : Nat) (op : ColOp) (src : ReqSrc) : ColReq := ⟨⟨c % 512, by omega⟩, w, .host, op, src, 0⟩

/-- A host request at a device physical address. A parity failure on its way (R120) poisons the first word of a written line, or ends the line's
request with a command error. -/
def Hw.hostAccess (h : Hw) (r : HostReq) (d : Nat) : Hw :=
  match h.mapAccess d (if r.write then .hw else .hr) false with
  | .at' c o =>
    let db : Bool := match h.regionOf d with
      | some n => (h.region n).coh == 1
      | none => false
    let keeps := r.mv == .any || r.mv == .shared
    if db ∧ keeps ∧ ¬ h.filt.canRecord (d / 64) then { h with hostHeld := h.hostHeld ++ [r] }
    else
      let h := if db ∧ keeps then h.filtRecord (d / 64) (r.mv == .any)
        else if db ∧ r.mv = .invalid then { h with filt := h.filt.drop (d / 64) } else h
      let w := o / 32
      if r.write then
        let lo : Word := BitVec.ofNat 256 r.data.toNat
        let hi : Word := BitVec.ofNat 256 (r.data.toNat / 2 ^ 256)
        (h.unclean.arrivePar (hostReq c w (.write lo 0xFFFFFFFF#32 r.poison) (.hostWrite r.tag false)) r.par).arrivePar
          (hostReq c (w + 1) (.write hi 0xFFFFFFFF#32 r.poison) (.hostWrite r.tag true)) (r.par.filter (·.header))
      else
        (h.arrivePar (hostReq c w .read (.host r.tag false)) r.par).arrivePar (hostReq c (w + 1) .read (.host r.tag true)) (r.par.filter (·.header))
  | res =>
    let h := h.mapEvent res d 0
    if r.write then h.send (.memCmp r.tag) else h.send (.memData r.tag 0 true)

/-- A host request: it waits, is answered without an access, is not this module's, or is decoded. -/
def Hw.hostRequest (h : Hw) (r : HostReq) : Hw :=
  if ¬ h.released ∨ ¬ h.host.link ∨ ¬ h.host.cxl then h
  else if h.hostWaits then { h with hostHeld := h.hostHeld ++ [r] }
  else match h.hostDpa r.hpa with
    | none => h
    | some d =>
      if h.hostShut then (if r.write then h.send (.memCmp r.tag) else h.send (.memData r.tag 0 true))
      else h.hostAccess r d

/-- Requests that waited are decoded, in the order of their arrival. -/
def Hw.serveHeld (h : Hw) : Hw := h.hostHeld.foldl Hw.hostRequest { h with hostHeld := [] }

/-- HOST_MEM_READ (R380): one whole line. -/
def execHostMemRead (hpa : BitVec 52) (tag : BitVec 16) (mv : HostMeta) (s : State) : Host.Outcome State Fault Refusal :=
  if hpa.toNat % 64 ≠ 0 then .fault .malformed
  else done s (s.hw.hostRequest ⟨false, hpa.toNat, tag.toNat, mv.mv, 0, false, mv.par⟩)

/-- HOST_MEM_WRITE (R380): one whole line. -/
def execHostMemWrite (hpa : BitVec 52) (tag : BitVec 16) (mv : HostMeta) (data : Line) (poison : Bool) (s : State) : Host.Outcome State Fault Refusal :=
  if hpa.toNat % 64 ≠ 0 then .fault .malformed
  else done s (s.hw.hostRequest ⟨true, hpa.toNat, tag.toNat, mv.mv, data, poison, mv.par⟩)

/-- HOST_CLEAN_EVICTION (R382): the line leaves the filter. -/
def execHostCleanEviction (hpa : BitVec 52) (s : State) : Host.Outcome State Fault Refusal :=
  if hpa.toNat % 64 ≠ 0 then .fault .malformed
  else done s (match s.hw.hostDpa hpa.toNat with
    | some d => { s.hw with filt := s.hw.filt.drop (d / 64) }
    | none => s.hw)

/-- A BIRsp (R382, R383): host write-back data are stored, the entry becomes S (`keep`) or is removed, and what waited goes on. A line
that the host has taken again leaves the eviction buffer alone, and stays known. -/
def Hw.birsp (h : Hw) (line : Nat) (dirty : Option Line) (keep : Bool) : Hw :=
  match h.filt.snoops.find? fun x => x.line == line with
  | none => h
  | some x =>
    let h := match dirty, h.placeOf (line * 64) with
      | some d, some (c, o) =>
        let h := h.fwrite c (o / 32) (BitVec.ofNat 256 d.toNat) 0xFFFFFFFF#32 false .host 0
        h.fwrite c (o / 32 + 1) (BitVec.ofNat 256 (d.toNat / 2 ^ 256)) 0xFFFFFFFF#32 false .host 0
      | _, _ => h
    let sets := h.filt.sets
    let shared : FiltSt := { h.filt with sets := tset (fun _ => []) sets (filtSet line) ((tget (fun _ => []) sets (filtSet line)).map fun e =>
      if e.line = line then { e with excl := false } else e) }
    let f := if x.again then { h.filt with evict := h.filt.evict.erase line } else if keep ∧ ¬ x.inv then shared else h.filt.drop line
    let h : Hw := { h with filt := { f with snoops := f.snoops.filter fun y => y.line != line } }
    let h := if f.evict.contains line then h.snoop line true [] else h
    let h := foldUp 16 (fun w h => h.sqFetch w) (x.held.foldl (fun h r => h.arrive r) h)
    if h.hostWaits then h else h.serveHeld

/-- BIRSP_RECEIVE. -/
def execBirspReceive (line : BitVec 40) (dirty : Option Line) (keep : Bool) (s : State) : Host.Outcome State Fault Refusal :=
  done s (s.hw.birsp line.toNat dirty keep)

/-! ## The region map (R41 to R44) and the reserve (R34) -/

/-- Bits that a write of `size` bytes at `off` covers of the register at `off / 8 * 8`. -/
def inWrite (off size bit : Nat) : Bool := size == 8 || (bit / 32 == off / 4 % 2)

/-- The bits of one field after a write of `v` (the register's 64 bits with the written half in place): RW stored, W1C cleared where 1 is
written, W1S set where 1 is written; RO, WO and reserved bits do not change (R7, R8, R493). A bit that an event has set in this housekeeping cycle
stays set (R9). -/
def Hw.fieldWrite (h : Hw) (off size : Nat) (v : Nat) (l : Loc) : Hw :=
  let old := h.get l
  let mask := (List.range l.width).foldl (fun a i => a + bnat (inWrite off size (l.lo + i)) * 2 ^ i) 0
  let new := bitsOf v l.lo l.width
  match l.acc with
  | .rw => h.put l ((old &&& (2 ^ l.width - 1 - mask)) + (new &&& mask))
  | .w1c =>
    let kept := (List.range l.width).foldl (fun a i => a + bnat (h.setNow.contains (l.off, l.lo + i)) * 2 ^ i) 0
    h.put l (old &&& ((2 ^ l.width - 1 - (new &&& mask)) ||| kept))
  | .w1s => h.put l (old ||| (new &&& mask))
  | _ => h

/-- Every field of a register written. `v` are the written bytes, placed in the register's 64 bits. -/
def Hw.regFields (h : Hw) (off size v : Nat) : Hw := (Bar0.regAt (off / 8 * 8)).foldl (fun h l => h.fieldWrite off size v l) h

/-- MAP_STAGING_WRITE (R42): stored, or discarded with STG_LOST while BUSY. -/
def execMapStagingWrite (n : Fin 16) (reg : Fin 3) (value : BitVec 64) (s : State) : Host.Outcome State Fault Refusal :=
  let h := s.hw
  if h.flag MAP_CTRL.BUSY then done s (h.mark MAP_CTRL.STG_LOST)
  else done s (h.regFields (if reg.val = 0 then MAP_RGN_A.off n else if reg.val = 1 then MAP_RGN_B.off n else MAP_RGN_C.off n) 8 value.toNat)

/-- Lines tracked in HDM-DB regions whose entry changes where the entries become `new` (R42). LOCK is no part of the mapping. -/
def Hw.linesChanged (h : Hw) (new : Nat → Region) : List Nat :=
  h.filt.lines.filter fun line => match h.regionOf (line * 64) with
    | some n => (h.region n).coh == 1 && ({ h.region n with lock := false } != { new n with lock := false })
    | none => false

/-- Lines that the staged map changes. -/
def Hw.changedLines (h : Hw) : List Nat := h.linesChanged h.staged

/-- COMMIT written (R41, R42): the staging entries are validated; the lowest failing entry is reported, or the install begins with the
back-invalidation of the lines it changes. Condition 0x09 holds in image state RUNNING only: a FAULTED image, or one that stops, counts as not
running (DESIGN CHOICE, log 55); its LOCK bits refuse its own entries all the same. -/
def Hw.mapCommit (h : Hw) : Hw :=
  if h.flag MAP_CTRL.BUSY then h.mark MAP_CTRL.STG_LOST
  else
    match mapErr ((List.range 16).map h.staged) (fun n => (h.region n).lock) h.rsvLo h.rsvSlice (h.get IMG_STAT.STATE == 3) with
    | some (n, k) => h.puts [(MAP_CTRL.ERR, k), (MAP_CTRL.ERR_ENTRY, n)]
    | none =>
      let h := h.puts [(MAP_CTRL.ERR, 0), (MAP_CTRL.ERR_ENTRY, 0)]
      (h.changedLines.foldl (fun h line => h.snoop line true []) h).put MAP_CTRL.BUSY 1

/-- MAP_COMMIT. -/
def execMapCommit (s : State) : Host.Outcome State Fault Refusal := done s s.hw.mapCommit

/-- The staging words become the installed ones, LOCK bits aside. -/
def Hw.mapInstall (h : Hw) : Hw :=
  foldUp 16 (fun n h =>
    let lock := h.get (MAP_INST_A.LOCK n)
    (((h.setWord (MAP_INST_A.off n) (h.word (MAP_RGN_A.off n))).put (MAP_INST_A.LOCK n) lock).setWord (MAP_INST_B.off n) (h.word (MAP_RGN_B.off n))).setWord
      (MAP_INST_C.off n) (h.word (MAP_RGN_C.off n))) h

/-- MAP_INSTALL_DONE (R41): once the lines are invalidated, the map is installed as one change and held requests are decoded under it. -/
def execMapInstallDone (s : State) : Host.Outcome State Fault Refusal :=
  let h := s.hw
  if ¬ h.flag MAP_CTRL.BUSY ∨ ¬ h.changedLines.isEmpty then done s h
  else
    let h := h.mapInstall.put MAP_CTRL.BUSY 0
    done s (if h.hostWaits then h else h.serveHeld)

/-- RSV_NEXT_WRITE (R33, R34): stored within 1 to 32, for the next cold start. -/
def execRsvNextWrite (v : BitVec 6) (s : State) : Host.Outcome State Fault Refusal :=
  let n := max 1 (min 32 v.toNat)
  done s ((s.hw.modFlash fun f => { f with rsv := n }).put MAP_RESERVE.RSV_NEXT n)

/-! ## Windows -/

/-- SQ_DOORBELL (R387). -/
def execSqDoorbell (w : Fin 16) (tail : BitVec 12) (s : State) : Host.Outcome State Fault Refusal := done s (s.hw.atPll false (.doorbell w tail.toNat) fun h => h.doorbell w tail.toNat)

/-- CQ_HEAD_WRITE (R402). -/
def execCqHeadWrite (w : Fin 16) (head : BitVec 12) (s : State) : Host.Outcome State Fault Refusal := done s (s.hw.cqHead w head.toNat)

/-- WINDOW_ENABLE (R386, R402). -/
def execWindowEnable (w : Fin 16) (s : State) : Host.Outcome State Fault Refusal := done s (s.hw.windowEnable w)

/-- WINDOW_DISABLE (R402). -/
def execWindowDisable (w : Fin 16) (s : State) : Host.Outcome State Fault Refusal := done s (s.hw.windowDisable w)

/-- COMPLETION_WRITE (R394). -/
def execCompletionWrite (w : Fin 16) (s : State) : Host.Outcome State Fault Refusal := done s (s.hw.completionWrite w)

/-! ## The memory-device mailbox (R398) -/

/-- An answer of the mailbox, with vector 17 (R399). -/
def Hw.mailbox (h : Hw) (code : Nat) (data : List Byte) : Hw := (h.send (.mailbox code data)).raise 17

/-- A mailbox command, which runs while the module is released (R398, R455). -/
def Hw.mailboxCmd (h : Hw) (f : Hw → Hw) : Hw := if ¬ h.released ∨ h.pllOff then h else f h

/-- IDENTIFY. -/
def execIdentify (s : State) : Host.Outcome State Fault Refusal :=
  done s (s.hw.mailboxCmd fun h => h.mailbox 0 (natLE 2 (h.get GID_ID.VENDOR) ++ natLE 2 (h.get GID_ID.DEVICE)))

/-- The CXL record that an event goes to: 1 General Media for poison created and read, 2 DRAM for PROT_PATCH_FULL, 0 the vendor record (R398). -/
def Ev.recordKind (e : Ev) : Nat :=
  if e.code = 0x203 ∨ e.code = 0x223 ∨ e.code = 0x224 ∨ e.code = 0x227 then 1 else if e.code = 0x226 then 2 else 0

/-- An event record as the CXL logs carry it: its kind, then 32 bytes (log 23). -/
def Ev.bytes (e : Ev) : List Byte := natLE 1 e.recordKind ++ (e.words 0).flatMap (natLE 8)

/-- GET_EVENT_RECORDS of one log (0 Informational, 1 Warning, 2 Failure, 3 Fatal). -/
def execGetEventRecords (log : Fin 4) (s : State) : Host.Outcome State Fault Refusal :=
  done s (s.hw.mailboxCmd fun h => h.mailbox 0 ((h.evt.logs.getD log []).flatMap Ev.bytes))

/-- CLEAR_EVENT_RECORDS: the records with the given handles, which number a log's records from 1, oldest first. -/
def execClearEventRecords (log : Fin 4) (handles : List Nat) (s : State) : Host.Outcome State Fault Refusal :=
  done s (s.hw.mailboxCmd fun h =>
    let l := h.evt.logs.getD log []
    if handles.any fun n => n == 0 || decide (n > l.length) then h.mailbox 0x0E []
    else
      let rest := ((List.range l.length).filter fun i => !handles.contains (i + 1)).filterMap fun i => l[i]?
      Hw.mailbox { h with evt := { h.evt with logs := h.evt.logs.set log.val rest } } 0 [])

/-- IDENTIFY_MEMORY_DEVICE: total and volatile capacity in 256 MiB units, persistent 0, poison list maximum and inject limit 2,048. -/
def execIdentifyMemoryDevice (s : State) : Host.Outcome State Fault Refusal :=
  done s (s.hw.mailboxCmd fun h =>
    let n := h.rsvLo / 2 ^ 28
    h.mailbox 0 (natLE 8 n ++ natLE 8 n ++ natLE 8 0 ++ natLE 4 2048 ++ natLE 4 2048))

/-- GET_POISON_LIST: each address with its source (0 internal, 1 scrub, 2 injected), then the overflow flag. -/
def execGetPoisonList (s : State) : Host.Outcome State Fault Refusal :=
  done s (s.hw.mailboxCmd fun h =>
    let src := fun d => ((h.host.sources.find? fun x => x.1 == d).map (·.2)).getD 0
    h.mailbox 0 ((h.poison.flatMap fun d => natLE 8 (d + src d)) ++ natLE 1 (bnat h.poisonOver)))

/-- A mapped line for Inject and Clear Poison. -/
def Hw.mappedLine (h : Hw) (d : Nat) : Option (Nat × Nat) := if d ≥ h.rsvLo ∨ d % 64 ≠ 0 then none else h.placeOf d

/-- INJECT_POISON (R115, R398): both words of a mapped line; otherwise Invalid Physical Address, or Inject Poison Limit Reached with 2,048 injected
addresses listed. -/
def execInjectPoison (dpa : BitVec 40) (s : State) : Host.Outcome State Fault Refusal :=
  done s (s.hw.mailboxCmd fun h =>
    let d := dpa.toNat
    match h.mappedLine d with
    | none => h.mailbox 0x0F []
    | some (c, o) => match h.claim d (d + 64) true with
      | some h => h
      | none =>
        let injected := (h.host.sources.filter fun y => y.2 == 2 && y.1 / 64 != d / 64).length
        if injected + 2 > 2048 then h.mailbox 0x10 [] else
        let h := h.unclean.fwrite c (o / 32) 0 0xFFFFFFFF#32 true .host 0
        let h := h.fwrite c (o / 32 + 1) 0 0xFFFFFFFF#32 true .host 0
        ((h.poisonSource c (o / 32) 2).poisonSource c (o / 32 + 1) 2).mailbox 0 [])

/-- CLEAR_POISON: the 64 supplied bytes are written clean. -/
def execClearPoison (dpa : BitVec 40) (data : Line) (s : State) : Host.Outcome State Fault Refusal :=
  done s (s.hw.mailboxCmd fun h =>
    let d := dpa.toNat
    match h.mappedLine d with
    | none => h.mailbox 0x0F []
    | some (c, o) => match h.claim d (d + 64) true with
      | some h => h
      | none =>
        let h := h.unclean.fwrite c (o / 32) (BitVec.ofNat 256 data.toNat) 0xFFFFFFFF#32 false .host 0
        let h := h.fwrite c (o / 32 + 1) (BitVec.ofNat 256 (data.toNat / 2 ^ 256)) 0xFFFFFFFF#32 false .host 0
        h.mailbox 0 [])

/-! ## Link encryption (R400, R401) -/

/-- A stream's state. -/
def Hw.setIde (h : Hw) (st : IdeStream) (v : Bool) : Hw :=
  h.modHost fun x => match st with
    | .io => { x with ideIo := v }
    | .mem => { x with ideMem := v }

/-- IDE_CHECK_FAILED: the stream is Insecure, and AER reports IDE Check Failed. -/
def execIdeCheckFailed (stream : IdeStream) (s : State) : Host.Outcome State Fault Refusal :=
  done s ((((s.hw.modHost fun x => { x with aerIde := true }).send (.err 0 (bnat (stream == .mem)))).raise 0).setIde stream false)

/-- IDE_KM_KEY_PROG: the stream's keys are set and it is Secure. A module with ID_FAULT answers no SPDM request, so it has no session to
carry keys (R409). -/
def execIdeKmKeyProg (stream : IdeStream) (key : BitVec 256) (s : State) : Host.Outcome State Fault Refusal :=
  if s.hw.flag TRU_STAT.ID_FAULT then done s s.hw
  else done s ((s.hw.modHost fun x => match stream with
    | .io => { x with keyIo := key }
    | .mem => { x with keyMem := key }).setIde stream true)

end Sys2Proof.Machine
end

