-- ==== Sys2Proof/Machine/Image.lean ====
section
/-!
DEFINITION. Images (R317 to R339): the bit-stream and its checks, loading, the run, laps, patches, stops and snapshots.
-/
namespace Sys2Proof.Machine

/-! ## Counters (R479, R480) -/

/-- Whether the register at `off` is a counter register with a latched copy. -/
def isCounter (off : Nat) : Bool :=
  off == TEL_MOD.off || (List.range 5).any (fun g => off == TEL_GEAR.off g) || (List.range 8).any (fun p => off == TEL_PORT.off p) ||
  (decide (0x170000 ≤ off) && decide (off < 0x180000)) || (decide (0x1F0000 ≤ off) && decide (off < 0x200000)) ||
  (decide (0x1000000 ≤ off) && decide (off < 0x2000000) &&
    (let r := (off - 0x1000000) % 0x200000
     (decide (0x2000 ≤ r) && decide (r < 0x2400)) || r == 0x10018 || (decide (0x21000 ≤ r) && decide (r < 0x21400) && r % 16 == 8) ||
       (decide (0x100000 ≤ r) && decide (r < 0x180000) && (r % 0x10000 == 0x48 || r % 0x10000 == 0xE00 || (decide (0xF00 ≤ r % 0x10000) && decide (r % 0x10000 < 0xF40))))))

/-- Every live count restarts; OWED_MAX from what its banks owe now (R76). -/
def Hw.restartCounts (h : Hw) : Hw :=
  let h := { h with csr := h.csr.filter fun e => !isCounter e.1 }
  foldUp 8 (fun t h =>
    h.put (TMC_REFSTAT.OWED_MAX t) ((List.range 384).foldl (fun m i => max m (h.owed (64 * t + i / 6) (i % 6))) 0)) h

/-- Step 1 of R330: every live count is copied into its latched copy and restarts. -/
def Hw.latchCounts (h : Hw) : Hw :=
  let l := h.csr.filter fun e => isCounter e.1
  ({ h with lat := l }.restartCounts).puts [(TEL_LAT.LAP, h.get IMG_LAP.LAP), (TEL_LSTAMP.STAMP, h.time), (TEL_CTRL.LVALID, 1)]

/-! ## Parameter registers (R226) -/

/-- The last write of a parameter register; priority 0 where there was none. -/
def Hw.pLastOf (h : Hw) (c i : Nat) : Nat × Nat × Nat × W32 := tget (fun _ => (0, 0, 0, 0#32)) (h.core c).pLast i

/-- A write of a parameter register at a priority: of two in one cycle the higher priority stands and P_COLLIDE is set. A scalar instruction never
shares a cycle with the one before it (log 56). -/
def Hw.pWrite (h : Hw) (c i prio : Nat) (v : W32) : Hw :=
  let now := h.get (CORE_CYCLE.CYCLE c)
  let sub := (h.core c).sub
  let (at', sub', p, old) := h.pLastOf c i
  let same := decide (p ≠ 0 ∧ at' = now ∧ sub ≤ sub' + (if prio = 4 then 0 else 1))
  let was := if same ∧ p ≠ 3 then old else BitVec.ofNat 32 (h.get (CORE_PARAM.VALUE c i))
  let put := fun (h : Hw) => (h.modCore c fun s =>
    { s with pLast := tset (fun _ => (0, 0, 0, 0#32)) s.pLast i (now, sub, prio, was) }).put (CORE_PARAM.VALUE c i) v.toNat
  if same ∧ p ≠ prio then
    let h := h.mark (CORE_STAT.P_COLLIDE c)
    if prio < p then put h else h
  else put h

/-- A parameter register as a latch of the present cycle sees it: without the writes of this cycle (R226), but with an S-slot result that can be read
in it, whether or not its landing has been taken (R218). -/
def Hw.pLatch (h : Hw) (c i : Nat) : Nat :=
  let now := h.get (CORE_CYCLE.CYCLE c)
  match (h.core c).lands.reverse.find? fun x => x.dest == .preg i && decide (x.at' ≤ now) with
  | some x => x.val % 2 ^ 32
  | none =>
    let (at', sub, p, old) := h.pLastOf c i
    if p ≠ 0 ∧ p ≠ 3 ∧ at' = now ∧ (h.core c).sub ≤ sub + 1 then old.toNat else h.get (CORE_PARAM.VALUE c i)

/-! ## The bit-stream (R317 to R320) -/

/-- `n` bytes of an image from `o`, little-endian. -/
def Image.le (g : Image) (o n : Nat) : Nat := leNat ((g.bytes.drop o).take n)

/-- A section: type, length, offset. -/
structure Sect where
  type : Nat
  len : Nat
  off : Nat
  deriving DecidableEq, Repr

def imgSects (g : Image) : List Sect :=
  (List.range (min 64 (Image.le g 0x0C 4))).map fun i => ⟨Image.le g (0x100 + 16 * i) 2, Image.le g (0x104 + 16 * i) 4, Image.le g (0x108 + 16 * i) 8⟩

def imgSect (g : Image) (ty : Nat) : Option Sect := (imgSects g).find? fun x => x.type == ty

/-- The header checks before anything is written (R324): MAGIC, LENGTH, SNAP_SLOTS. -/
def imgHeadErr (g : Image) (len : Nat) : Option Nat :=
  if Image.le g 0 8 ≠ 0x474D494E4F475355 then some 0
  else if Image.le g 0x10 8 ≠ len ∨ len % 64 ≠ 0 ∨ len > 2 ^ 30 ∨ g.bytes.length ≠ len ∨ len < 0x100 + 1664 then some 0x10
  else if Image.le g 0x1A 1 > 8 then some 0x1A
  else none

/-- The first header byte that a check fails at (R318). -/
def imgHeaderErr (g : Image) : Option Nat :=
  if Image.le g 8 4 ≠ 0x00020000 then some 8
  else if Image.le g 0x0C 4 = 0 ∨ Image.le g 0x0C 4 > 64 then some 0x0C
  else if Image.le g 0x18 1 > 4 then some 0x18
  else if Image.le g 0x19 1 > 1 then some 0x19
  else ((List.range 5).map (0x1B + ·) ++ (List.range 176).map (0x50 + ·)).find? fun o => Image.le g o 1 ≠ 0

/-- Required section types (R319). -/
def requiredSects : List Nat := [1, 2, 3, 5, 6, 7, 8, 10, 11]

/-- The least of a list. -/
def least (l : List Nat) : Option Nat := l.foldl (fun m o => match m with
  | none => some o
  | some a => some (min a o)) none

/-- Where the checks of table entry `i` fail (R319): its type, a reserved byte, its length, its offset. -/
def imgEntryErrs (g : Image) (len i : Nat) : List Nat :=
  let o := 0x100 + 16 * i
  let entry := fun (j : Nat) => (imgSects g).getD j ⟨0, 0, 0⟩
  let x := entry i
  (if x.type = 0 ∨ x.type > 12 ∨ (List.range i).any (fun j => (entry j).type == x.type) then [o] else []) ++
    ([o + 2, o + 3].filter fun a => Image.le g a 1 != 0) ++
    (if (x.type = 1 ∧ x.len ≠ 384) ∨ x.off + x.len > len then [o + 4] else []) ++ (if x.off % 64 ≠ 0 then [o + 8] else [])

/-- Where section `x` overlaps the table, the signature block or a section of `l`: the first byte of the later-starting of the two (R322). -/
def imgClashes (x : Sect) (n len : Nat) (l : List Sect) : List Nat :=
  let meets := fun (a b c d : Nat) => decide (a < d) && decide (c < b)
  let e := x.off + x.len
  (if meets x.off e 0x100 (0x100 + 16 * n) then [max x.off 0x100] else []) ++ (if meets x.off e (len - 1664) len then [max x.off (len - 1664)] else []) ++
    (l.filter fun y => meets x.off e y.off (y.off + y.len)).map fun y => max x.off y.off

/-- The lowest offset at which a check of the table, and then of the sections, fails (R319, R322). -/
def imgTableErr (g : Image) (len : Nat) : Option Nat :=
  let l := imgSects g
  let n := l.length
  match least ((List.range n).flatMap fun i => imgEntryErrs g len i) with
  | some o => some o
  | none =>
    if requiredSects.any fun t => (imgSect g t).isNone then some (0x100 + 16 * n)
    else least ((List.range n).flatMap fun i => imgClashes (l.getD i ⟨0, 0, 0⟩) n len (l.drop (i + 1)))

/-- Whether Bruros accepts an image's signature block (R320, R415): DIGEST is that of the bytes before the block, KEY_ID is that of an image key of the
owner record in force, SIG_LEN is in range, the reserved bytes and the padding are 0, and the signature verifies. -/
def imgSigned (g : Image) (len : Nat) (owner : Option OwnerRec) : Bool :=
  let b := len - 1664
  let n := Image.le g (b + 0x48) 2
  (g.bytes.drop b).take 64 == natLE 64 (Config.shake256 (g.bytes.take b) 64) && decide (1 ≤ n) && decide (n ≤ 1536) && Image.le g (b + 0x4A) 54 == 0 &&
    Image.le g (b + 0x80 + n) (1536 - n) == 0 && owner.any (admits · (Image.le g (b + 0x40) 8)) && g.sigOk

/-- The region entries of section 1, LOCK written as 0. -/
def imgMap (g : Image) : List (Nat × Nat × Nat) :=
  let o := ((imgSect g 1).getD ⟨1, 384, 0⟩).off
  (List.range 16).map fun n => (Image.le g (o + 24 * n) 8, Image.le g (o + 24 * n + 8) 8, Image.le g (o + 24 * n + 16) 8)

/-- The configuration with what the header and the signature block hold. -/
def imgConf (g : Image) (len : Nat) : ImgConf :=
  { g.conf with topGear := Image.le g 0x18 1, cool := Image.le g 0x19 1 == 1, snapSlots := Image.le g 0x1A 1, wcet := Image.le g 0x20 8,
                lapMask := BitVec.ofNat 64 (Image.le g 0x28 8), digest := BitVec.ofNat 512 (Image.le g (len - 1664) 64) }

/-! ## Capacity and configuration (R323, R54, R185, R208, R232) -/

def mib2 : Nat := 2 ^ 21
def mibs (n : Nat) : Nat := (n + 2 ^ 20 - 1) / 2 ^ 20

/-- Bytes of the image area: image, page table, two spill lists (R323, R324). -/
def imgAreas (k : ImgConf) (len pageLen : Nat) : Nat × Nat × Nat :=
  (alignUp len mib2, alignUp pageLen mib2, match k.disp with
    | some d => alignUp (d.limit * 16) mib2
    | none => 0)

/-- The larger shortfall of R323 in MiB; 0 where the image fits. -/
def Hw.shortfall (h : Hw) (k : ImgConf) (rs : List Region) (len pageLen : Nat) : Nat :=
  let (a, b, _) := imgAreas k len pageLen
  let spill := match k.disp with
    | some d => alignUp (2 * d.limit * 16) mib2
    | none => 0
  let need := a + b + spill + k.snapSlots * 576 * 2 ^ 20
  let room := h.rsvBytes - 64 * 2 ^ 20
  let regions := rs.foldl (fun m r =>
    if r.valid && !r.hb then max m (max (mibs (r.lo + r.bytes - h.rsvLo)) (mibs (512 * (r.sliceLo + r.slice - h.rsvSlice)))) else m) 0
  max (mibs (need - room)) regions

/-- Whether each parity's spill list holds M records where R324 puts it, on a 2 MiB boundary of its own below the image and its page table; R323
counts the two lists together, so a load within the capacity can still fail here with status 0x27 (R174). -/
def Hw.spillFits (h : Hw) (k : ImgConf) (len pageLen : Nat) : Bool :=
  let (a, b, each) := imgAreas k len pageLen
  each == 0 || decide (a + b + 2 * each + k.snapSlots * 576 * 2 ^ 20 ≤ h.rsvBytes - 64 * 2 ^ 20)

/-- Set bits of a mask. -/
def ones64 (m : BitVec 64) : Nat := (List.range 64).foldl (fun a i => a + bnat (m.getLsbD i)) 0

/-- Whether an image names the fabric, which OLC-AK576-S refuses (R185). -/
def usesFabric (k : ImgConf) : Bool :=
  match k.disp with
  | some d => !d.peers.isEmpty || d.routes.any fun r => r.2.1 ≠ 0
  | none => false

/-- A fused member that is not its group's leader. -/
def fusedMember (x : CoreConf) : Bool := (x.fuse == 1 && x.core % 2 ≠ 0) || (x.fuse == 2 && x.core % 4 ≠ 0)

/-- The first configuration conflict of status 0x27: section type and core or entry. -/
def confConflict (k : ImgConf) : Option (Nat × Nat) :=
  match k.cores.find? fun x => (x.compat && x.fuse ≠ 0) || decide (x.execBase % 64 ≠ 0) || decide (x.accBase % 64 ≠ 0) ||
      decide (x.execBase > x.accBase) || decide (x.accBase ≥ 0x20000) with
  | some x => some (3, x.core)
  | none => match (List.range 64).find? fun c => k.lapMask.getLsbD c && !(k.cores.any fun x => x.core == c && !fusedMember x && x.scalarCode) with
    | some c => some (3, c)
    | none => match k.red.find? fun r => (r.senders ++ r.receivers).any fun e => e / 32 ≠ r.cluster with
      | some r => some (4, r.chan)
      | none => match k.disp with
        | some d => if d.limit = 0 ∨ d.limit > 16777215 then some (12, 0) else none
        | none => none

/-- The first failure of step 6 of R321: status and DETAIL. -/
def Hw.loadErr (h : Hw) (k : ImgConf) (rs : List Region) (len pageLen : Nat) : Option (Nat × Nat) :=
  let short := h.shortfall k rs len pageLen
  if short > 0 then some (0x23, short)
  else match mapErr rs (fun _ => false) h.rsvLo h.rsvSlice false with
    | some (n, code) => some (0x24, code + n * 2 ^ 8)
    | none => match (List.range 512).find? fun c => k.rsv.any fun x => x.1 == c && decide (ones64 x.2.1 > 60) with
      | some c => some (0x25, c)
      | none =>
        if h.fuses.variantS && usesFabric k then some (0x26, 0)
        else match confConflict k with
          | some x => some (0x27, x.1 + x.2 * 2 ^ 16)
          | none => if h.spillFits k len pageLen then none else some (0x27, 12)

/-! ## Configuring the units (R321 steps 7 and 8) -/

/-- Bytes written to consecutive words of the reserve, as FABRIC traffic. -/
def Hw.rsvWrite (h : Hw) (d : Nat) (bytes : List Byte) : Hw :=
  foldUp ((bytes.length + 31) / 32) (fun i h =>
    let (c, o) := h.rsvPlace (d + 32 * i)
    h.fwrite c (o / 32) (BitVec.ofNat 256 (leNat ((bytes.drop (32 * i)).take 32))) 0xFFFFFFFF#32 false .fabric (reqArg 7 0 0)) h

/-- Scalar data memory tables of a core from the verified image: descriptors, records, routes (R187, R245, R268). -/
def Hw.coreTables (h : Hw) (x : CoreConf) : Hw :=
  let b := sramScalar x.core
  let pick := fun (l : List (Nat × BitVec 512)) (n : Nat) => match l.find? fun (y : Nat × BitVec 512) => y.1 == n with
    | some y => y.2.toNat
    | none => 0
  let route := fun (n : Nat) => match x.routes.find? fun (y : Nat × BitVec 64) => y.1 == n with
    | some y => y.2.toNat
    | none => 0
  let h := foldUp 256 (fun n h => h.swrite (b + 0xC000 + 64 * n) 64 (pick x.descs n)) h
  let h := foldUp 256 (fun n h => h.swrite (b + 0x7E00 + 64 * n) 64 (pick x.recs n)) h
  foldUp 64 (fun n h => h.swrite (b + 0xBE00 + 8 * n) 8 (route n)) h

/-- A core's registers and memories from the image. -/
def Hw.coreConfigure (h : Hw) (x : CoreConf) : Hw :=
  let c := x.core
  let h := { h with sram := x.imem.foldl (fun (m : Memory) (y : Nat × Byte) => Memory.write m (sramImem c + y.1) y.2) h.sram }
  ((h.coreTables x).modCore c fun s => { s with staging := x.staging }).puts
    [(CORE_STAT.FUSE c, x.fuse), (CORE_STAT.COMPAT c, bnat x.compat), (CORE_STAT.LEADER c, bnat (x.fuse ≠ 0 && !fusedMember x)),
     (CORE_IMEM.EXEC_BASE c, x.execBase / 64), (CORE_IMEM.ACC_BASE c, x.accBase / 64),
     (SYNC_CTRL.WD_MS c, max 1 x.wdMs), (SYNC_CTRL.WD_EN c, bnat x.wdEn), (SYNC_CTRL.DL_PERIOD c, max 1 (min 1000 x.dlPeriod))]

/-- The cores configured from the loaded image (steps 7 and 8 of R321 and wake, R439). -/
def Hw.configure (h : Hw) (k : ImgConf) : Hw := k.cores.foldl Hw.coreConfigure h

/-- A loaded image's dispatch tables are in force (R174, R186): the derailleur stands at epoch 0. -/
def Hw.drlStart (h : Hw) (k : ImgConf) : Hw := foldUp 2 (fun n h => h.put (DRL_STAT.ACTIVE n) (bnat k.disp.isSome)) h.drlEmpty

/-- NEXT of a valid level-1 entry and FRAME of a valid level-2 entry made absolute: the section holds both relative to its own start (R319). Both end
at bit 39, where a sum wraps. -/
def relocate (bytes : List Byte) (base : Nat) : List Byte :=
  (List.range (bytes.length / 8)).flatMap fun i =>
    let e := leNat ((bytes.drop (8 * i)).take 8)
    natLE 8 (if e % 2 = 1 then e / 2 ^ 40 * 2 ^ 40 + (e + base) % 2 ^ 40 else e)

/-- The bits of a register that are fields; the others are reserved and read 0 (R8). -/
def fieldMask (off : Nat) : W64 := (Bar0.regAt off).foldl (fun m l => m ||| BitVec.ofNat 64 ((2 ^ l.width - 1) * 2 ^ l.lo)) 0

/-- The installed map and the staging registers replaced by the image's map, LOCK set in every valid entry (R44). -/
def Hw.imageMap (h : Hw) (m : List (Nat × Nat × Nat)) : Hw :=
  foldUp 16 (fun n h =>
    let (a, b, c) := m.getD n (0, 0, 0)
    let word := fun (o v : Nat) => BitVec.ofNat 64 v &&& fieldMask o
    let a := word (MAP_RGN_A.off n) a
    let a := if a.getLsbD 0 then a ||| 2#64 else a &&& ~~~2#64
    let b := word (MAP_RGN_B.off n) b
    let c := word (MAP_RGN_C.off n) c
    (((((h.setWord (MAP_RGN_A.off n) a).setWord (MAP_RGN_B.off n) b).setWord (MAP_RGN_C.off n) c).setWord
      (MAP_INST_A.off n) a).setWord (MAP_INST_B.off n) b).setWord (MAP_INST_C.off n) c) h

/-- Barrier objects configured by the image (R301). -/
def Hw.barsConfigure (h : Hw) (k : ImgConf) : Hw :=
  k.bars.foldl (fun h b => h.puts [(BAR_CFG.VALID b.bar, 1), (BAR_CFG.HOME b.bar, bnat b.home), (BAR_CFG.CHILDREN b.bar, b.children),
    (BAR_CFG.PARTS b.bar, b.parts), (BAR_CFG.PARENT b.bar, b.parent)]) h

/-! ## LOAD_IMAGE (R321, R322) -/

/-- Reasons to refuse a load at step 1; a load is also refused while an erase runs (R418). -/
def Hw.loadRefused (h : Hw) : Bool :=
  let st := h.get IMG_STAT.STATE
  !(st == 0 || st == 2) || h.flag IMG_STAT.PEND_SNAP || h.flag IMG_STAT.PEND_STOP || h.mode.erase.isSome

/-- LOAD_IMAGE with a length: every core is reset and the read begins. LOCK and the page table root of an image that was loaded are cleared here, at
step 2, so they are clear while LOADING (DESIGN CHOICE, log 55). -/
def execLoadImage (w : Fin 16) (s : State) : Host.Outcome State Fault Refusal :=
  done s (s.hw.command w (fun e => sqOp e == 1 && decide (sqArg e 1 ≠ 0)) false fun e h =>
    if h.loadRefused then h.complete w e 0x20 (h.get IMG_STAT.STATE)
    else ((h.unload).modImg fun x => { x with load := some (w, sqArg e 0, sqArg e 1) }).put IMG_STAT.STATE 1)

/-- LOAD_IMAGE with length 0 (R322). -/
def execImageUnload (w : Fin 16) (s : State) : Host.Outcome State Fault Refusal :=
  done s (s.hw.command w (fun e => sqOp e == 1 && sqArg e 1 == 0) false fun e h =>
    if h.loadRefused then h.complete w e 0x20 (h.get IMG_STAT.STATE) else h.unload.complete w e 0 0)

/-- A load that fails after its read: state EMPTY (R322), the map installed before it in the staging registers too (R44). -/
def Hw.loadFail (h : Hw) (w status detail : Nat) : Hw :=
  ((h.stagingRestore.modImg fun x => { x with load := none }).put IMG_STAT.STATE 0).completeRun w status detail

/-- Snapshot slots at or above a number invalid (R324). -/
def Hw.slotsInvalid (h : Hw) (k : Nat) : Hw :=
  (h.put IMG_STAT.SNAP_VALID (h.get IMG_STAT.SNAP_VALID % 2 ^ k)).modImg fun x => { x with snaps := x.snaps.filter fun y => decide (y.1 < k) }

/-- The image has been read (R321 steps 3 to 9). Its map is installed once every tracked line that it changes has been invalidated (R42): until
then the load goes on and the command is sent again. -/
def Hw.loadFinish (h : Hw) (w len : Nat) (g : Image) : Hw :=
  match imgHeadErr g len with
  | some o => h.loadFail w 0x21 o
  | none =>
    let k := imgConf g len
    let top := dpaEnd - k.snapSlots * 576 * 2 ^ 20
    let need := alignUp len mib2 + k.snapSlots * 576 * 2 ^ 20
    let room := h.rsvBytes - 64 * 2 ^ 20
    if need > room then h.loadFail w 0x23 (mibs (need - room))
    else
      let base := top - alignUp len mib2
      let h := (h.unclean.slotsInvalid k.snapSlots).rsvWrite base g.bytes
      match (match imgHeaderErr g with | some o => some o | none => imgTableErr g len) with
      | some o => h.loadFail w 0x21 o
      | none =>
        if ¬ h.flag TRU_STAT.OWNED ∨ ¬ imgSigned g len h.trust.sel then h.loadFail w 0x22 0
        else
          let page := (imgSect g 2).getD ⟨2, 0, 0⟩
          let m := imgMap g
          let rs := m.map fun x => Region.ofWords x.1 x.2.1 x.2.2
          match h.loadErr k rs len page.len with
          | some (st, detail) => h.loadFail w st detail
          | none => match h.linesChanged fun n => rs.getD n (Region.ofWords 0 0 0) with
          | line :: more => (line :: more).foldl (fun h line => h.snoop line true []) h
          | [] =>
            let root := base - alignUp page.len mib2
            let h := (((h.configure k).barsConfigure k).drlStart k).imageMap m
            let h := h.rsvWrite root (relocate ((g.bytes.drop page.off).take page.len) root)
            let h := foldUp 8 (fun n h => h.put (IMG_DIGEST.BYTES n) (bitsOf k.digest.toNat (64 * n) 64)) h
            let h := h.modImg fun x => { x with conf := some k, load := none }
            (h.puts [(MAP_PTROOT.ROOT, root / 4096), (MAP_PTROOT.PTV, 1), (IMG_STAT.TOP_GEAR, k.topGear), (IMG_STAT.TCLASS, bnat k.cool), (IMG_STAT.SNAP_SLOTS, k.snapSlots),
              (IMG_WCET.WCET, k.wcet), (IMG_LAPMASK.LAPMASK, k.lapMask.toNat), (PWR_GEAR.LIM_IMG, k.topGear), (IMG_STAT.STATE, 2)]).completeRun w 0 0

/-- IMAGE_READ_COMPLETE. -/
def execImageReadComplete (img : Image) (s : State) : Host.Outcome State Fault Refusal :=
  done s (match s.hw.img.load with
    | some (w, _, len) => s.hw.loadFinish w len img
    | none => s.hw)

/-! ## START (R328) -/

/-- The initial state of lane `l` of engine `e` (R139). -/
def genSeed (seed : W32) (e l : Nat) : W32 :=
  let x := seed ^^^ BitVec.ofNat 32 ((e * 32 + l) * 0x9E3779B9)
  if x = 0 then 1 else x

/-- Step 1 of R328 for one core. -/
def Hw.coreStart (h : Hw) (x : CoreConf) : Hw :=
  let c := x.core
  let val := fun (l : List (Nat × W32)) n => ((l.find? fun y => y.1 == n).map (·.2.toNat)).getD 0
  let h := foldUp 32 (fun n h => h.put (CORE_PARAM.VALUE c n) (val x.params n)) (h.traceEmpty c)
  let h := foldUp 48 (fun n h => (h.resetReg (SYNC_LAST.off c n)).puts [(SYNC_VAL.VALUE c n, val x.sync n), (SYNC_VAL.VOID c n, 0), (SYNC_VAL.ABORTED c n, 0)]) h
  let h := x.slots.foldl (fun h y => h.puts [(STR_PBASE.BASE c y.1, y.2.1), (STR_PSTRIDE.LAP_STRIDE c y.1, y.2.2)]) h
  foldUp 8 (fun e h =>
    let gens := foldUp 32 (fun l t => tset (fun _ => 0#32) t l (genSeed x.seed (8 * c + e) l)) []
    h.setEng (8 * c + e) { gens := gens }) h

/-- Reservation masks in force (R53, R328). -/
def Hw.masksOn (h : Hw) (k : ImgConf) : Hw :=
  let h := k.rsv.foldl (fun h x => h.puts [(TMC_COL_A.RSV_MASK x.1, x.2.1.toNat), (TMC_COL_B.ACT_WIN x.1, x.2.2)]) h
  foldUp 8 (fun t h => h.puts [(TMC_CTRL.TEST_OPEN t, 0), (TMC_CTRL.OPEN t, 0), (TMC_CTRL.PACED_ON t, 1)]) h

/-- The lap window of a run (R395). -/
def Hw.setLapWin (h : Hw) (w : Nat) : Hw :=
  (foldUp 16 (fun v h => h.put (CMD_CTRL.LAPWIN v) (bnat (v == w))) h).modImg fun x => { x with lapWin := some w, bufs := [], relWait := false }

/-- Cores whose scalar processor START launches (R328 step 5). -/
def launched (k : ImgConf) : List Nat :=
  (k.cores.filter fun x => (k.lapMask.getLsbD x.core || x.scalarCode) && !fusedMember x).map (·.core)

/-- START in state READY. -/
def Hw.startImage (h : Hw) (w : Nat) (k : ImgConf) : Hw :=
  let h := (k.cores.foldl Hw.coreStart h).barsConfigure k
  let h := foldUp 64 (fun b h => (h.resetReg (BAR_STAT.off b)).resetReg (BAR_TREE.off b)) { h with bars := [] }
  let h := k.cores.foldl Hw.coreTables h
  let h := { h.restartCounts with lat := [] }
  let h := ((h.put TEL_CTRL.LVALID 0).setPatches []).masksOn k
  let h := (launched k).foldl (fun h c => (h.modCore c fun s => { s with sst := .running, spc := 0 }).put (CORE_STAT.RUN c) 1) h
  let h := (h.setLapWin w).modImg fun x => { x with lapStart := h.time, excluded := 0, holdFrom := none }
  h.unclean.puts [(IMG_LAP.LAP, 0), (IMG_STAT.STATE, 3)]

/-- The lowest-numbered array die in the hot state. -/
def Hw.hotDie (h : Hw) : Option Nat := (List.range 48).find? fun d => bitAt (h.get THM_HOTREF.HOT) d

/-- START: refused outside READY or for a hot die (R327, R328), which discards the patch queue (R332); else it waits while the running gear is above
the cap or changes (R326). -/
def execStart (w : Fin 16) (s : State) : Host.Outcome State Fault Refusal :=
  let h := s.hw
  let st := h.get IMG_STAT.STATE
  let hot := match h.img.conf with
    | some k => if k.cool then h.hotDie else none
    | none => none
  let cap := max (h.get PWR_GEAR.LIM_IMG) (h.get PWR_GEAR.LIM_HOST)
  if st = 2 ∧ hot.isNone ∧ (h.get PWR_GEAR.GEAR < cap ∨ h.flag PWR_GEAR.CHANGING) then done s h
  else done s (h.command w (fun e => sqOp e == 2) false fun e h =>
    match h.img.conf, hot with
    | none, _ => (h.setPatches []).complete w e 0x20 st
    | some k, d => if st ≠ 2 then (h.setPatches []).complete w e 0x20 st
      else match d with
        | some d => (h.setPatches []).complete w e 0x31 d
        | none => (h.startImage w k).complete w e 0 0)

/-! ## Stops and snapshots (R333 to R338) -/

/-- Every core held for a stop or a snapshot, which waits for issued traffic to end. -/
def Hw.imgHold (h : Hw) (q : Quiesce) : Hw :=
  let h := foldUp 64 (fun c h => (h.modCore c fun s => { s with imgHold := true }).put (CORE_STAT.HOLD c) 1) h
  (h.modImg fun x => { x with quiesce := some q, holdFrom := some (x.holdFrom.getD h.time), stopW := [], snapW := none }).puts
    [(IMG_STAT.PEND_SNAP, 0), (IMG_STAT.PEND_STOP, 0), (IMG_STAT.STATE, 5)]

/-- A stop at once: waiting commands end with it; a snapshot still pending is not taken. -/
def Hw.stopNow (h : Hw) (ws : List Nat) : Hw :=
  let h := match h.img.snapW with
    | some (v, _, _) => h.completeRun v 0x20 (h.get IMG_STAT.STATE)
    | none => h
  h.imgHold (.stop (h.img.stopW ++ ws) 0)

/-- STOP without FORCE (R333, R334). -/
def execStop (w : Fin 16) (s : State) : Host.Outcome State Fault Refusal :=
  done s (s.hw.command w (fun e => sqOp e == 3 && sqFlags e == 0) false fun e h =>
    let st := h.get IMG_STAT.STATE
    if st = 3 then (h.modImg fun x => { x with stopW := x.stopW ++ [w.val] }).put IMG_STAT.PEND_STOP 1
    else if st = 4 then h.stopNow [w]
    else h.complete w e 0x20 st)

/-- STOP with FORCE. -/
def execStopForce (w : Fin 16) (s : State) : Host.Outcome State Fault Refusal :=
  done s (s.hw.command w (fun e => sqOp e == 3 && sqFlags e == 1) false fun e h =>
    let st := h.get IMG_STAT.STATE
    if st = 3 ∨ st = 4 then h.stopNow [w] else h.complete w e 0x20 st)

/-- The waiting SNAPSHOT ends with status 0x34. -/
def Hw.snapTimeout (h : Hw) : Hw :=
  match h.img.snapW with
  | some (w, _, _) => ((h.modImg fun x => { x with snapW := none }).completeRun w 0x34 0).put IMG_STAT.PEND_SNAP 0
  | none => h

/-- STOP_TIMEOUT (R333, R335): no boundary came in time for the STOP or SNAPSHOT that has waited longest, which ends with status 0x34. PEND_STOP stands
while another STOP, or the stop of a hot die, waits. -/
def execStopTimeout (s : State) : Host.Outcome State Fault Refusal :=
  let h := s.hw
  match h.img.stopW, h.img.snapW with
  | w :: rest, snap =>
    if snap.isNone ∨ h.img.snapAt ≠ 0 then
      done s (((h.modImg fun x => { x with stopW := rest, snapAt := x.snapAt - 1 }).completeRun w 0x34 0).put IMG_STAT.PEND_STOP (bnat (h.img.hotStop || !rest.isEmpty)))
    else done s h.snapTimeout
  | [], some _ => done s h.snapTimeout
  | [], none => done s h

/-- SNAPSHOT (R335, R338): pending for the next boundary. -/
def execSnapshot (w : Fin 16) (s : State) : Host.Outcome State Fault Refusal :=
  done s (s.hw.command w (fun e => sqOp e == 4) false fun e h =>
    let st := h.get IMG_STAT.STATE
    if st ≠ 3 ∨ h.flag IMG_STAT.PEND_SNAP then h.complete w e 0x20 st
    else if sqArg e 0 ≥ h.get IMG_STAT.SNAP_SLOTS then h.complete w e 0x02 0
    else (h.modImg fun x => { x with snapW := some (w, sqArg e 0, sqFlags e % 2 == 1), snapAt := x.stopW.length }).put IMG_STAT.PEND_SNAP 1)

/-- Registers a snapshot holds (R336): of a core block CORE_STAT, the cycle count, the p registers, persistent slots and objects; the barrier blocks
and the derailleur's. -/
def snapReg (off : Nat) : Bool :=
  let o := off % 0x10000
  (decide (0x1000000 ≤ off) && decide (0x100000 ≤ (off - 0x1000000) % 0x200000) &&
      (o == 0x08 || o == 0x28 || (decide (0x100 ≤ o) && decide (o < 0x200)) || (decide (0x900 ≤ o) && decide (o < 0xD00)))) ||
    (decide (0x100000 ≤ off) && decide (off < 0x200000) && decide (0x40000 ≤ off % 0x80000) && decide (off % 0x80000 < 0x70000))

/-- SRAM without instruction memory, which a snapshot does not hold (R336). -/
def snapSram (m : Memory) : Memory := m.filter fun e => decide (e.1 < sramImem 0) || decide (sramScalar 0 ≤ e.1)

/-- SRAM as RESTORE leaves it: the snapshot's, with the instruction memory that the image has loaded. -/
def restoreSram (now saved : Memory) : Memory :=
  saved.filter (fun e => decide (e.1 < sramImem 0)) ++ now.filter (fun e => decide (sramImem 0 ≤ e.1) && decide (e.1 < sramScalar 0)) ++
    saved.filter fun e => decide (sramScalar 0 ≤ e.1)

/-- The cores without what a snapshot does not hold (R336): halts, breaks and the requests for them; a core that a fault has stopped stands at its word
and runs. -/
def Hw.snapView (h : Hw) : Hw :=
  foldUp 64 (fun c h => (h.modCore c fun s => { s with faulted := false, haltReq := false, stepping := false, passX := false, passA := false }).puts
    [(CORE_STAT.RUN c, bnat (h.flag (CORE_STAT.RUN c) || h.flag (CORE_STAT.HALTED c))), (CORE_STAT.HALTED c, 0), (CORE_STAT.BROKEN c, 0)]) h

/-- The state a snapshot holds. -/
def Hw.takeSnap (h : Hw) : Snap :=
  let v := h.snapView
  { digest := leNat h.digestBytes, lap := h.get IMG_LAP.LAP, csr := v.csr.filter fun e => snapReg e.1 && !isCounter e.1, sram := snapSram h.sram,
    marks := h.marks, cores := v.cores, engs := h.engs, bars := h.bars, drl := h.drl }

def Hw.snap (h : Hw) (k : Nat) : Option Snap := tget (fun _ => none) h.img.snaps k

/-- A request that a core's fetch or drain has issued. -/
def coreSrc : ReqSrc → Bool
  | .queue .. | .drain .. | .index .. => true
  | _ => false
def coreDest : IoDest → Bool
  | .fetch .. | .drain .. | .index .. => true
  | _ => false

/-- Every fetch and drain that a core has issued has ended (R223): nothing of one is left at a near port, at a column, behind a
back-invalidation or with the host. -/
def Hw.issuedEnded (h : Hw) : Bool :=
  (List.range 64).all (fun c => !(h.core c).portWait && (h.core c).port.isEmpty) && !(h.host.io ++ h.host.ioWait).any (fun r => coreDest r.dest) &&
    !(h.filt.snoops.flatMap (·.held)).any (fun r => coreSrc r.src) && (List.range 512).all fun c =>
      let s := h.col c
      !((s.rq ++ s.wq ++ s.flight).map (fun q => q.r) ++ s.waiting).any (fun r => coreSrc r.src) && s.slow.isEmpty

/-- Whether every issued fetch, drain and DMA batch has ended (R333). -/
def Hw.quiet (h : Hw) : Bool := h.issuedEnded && (List.range 32).all fun k => (h.chan k).run.isNone && (h.chan k).next.isEmpty

/-- Cycles of the present hold that lie in the present lap (R331). -/
def Hw.heldFor (h : Hw) : Nat := (h.img.holdFrom.map fun t => h.time - max t h.img.lapStart).getD 0

/-- The hold of a gear change, a snapshot or both is over: its cycles are excluded from the lap (R331). -/
def Hw.holdOver (h : Hw) : Hw :=
  if h.img.quiesce.isSome ∨ h.mode.gear.isSome then h
  else h.modImg fun x => { x with excluded := x.excluded + h.heldFor, holdFrom := none }

/-- Cores released from the hold of a stop or snapshot. -/
def Hw.imgRelease (h : Hw) : Hw :=
  let h := foldUp 64 (fun c h => ((h.modCore c fun s => { s with imgHold := false }).put (CORE_STAT.HOLD c) (bnat ((h.core (h.leader c)).hold.isSome || (h.core c).gearHold))).breakPending c) h
  (h.modImg fun x => { x with quiesce := none }).holdOver

/-- A lap boundary's waiting scalar processors are released once a completion entry is free for the next lap and its result buffer is not held
(R395, R396). A LAP issued since the boundary waits for the next (R329). -/
def Hw.lapRelease (h : Hw) : Hw :=
  if ¬ h.img.relWait ∨ h.get IMG_STAT.STATE = 5 then h
  else
    let w := h.img.lapWin.getD 0
    let m := h.get (CMD_RES.RES_COUNT w)
    let lap := h.get IMG_LAP.LAP
    if h.cqFree w = 0 ∨ (h.win w).done.any (fun c => c.kind == 1) ∨ (m ≠ 0 ∧ h.img.bufs.any fun b => b.1 == lap % m) then h
    else
      let h := foldUp 64 (fun c h =>
        let s := h.core c
        if s.lapLate then h.setCore c { s with lapLate := false }
        else if s.sst = .lapWait then
          let regs := tset (fun _ => 0#32) s.s s.lapD (BitVec.ofNat 32 lap)
          h.setCore c { s with sst := .running, lapDone := false, s := regs, sub := s.sub + 2 }
        else h.modCore c fun s => { s with lapDone := false }) h
      h.modImg fun x => { x with relWait := false }

/-- PREEMPT_QUIESCED (R333, R335): the snapshot is written or the cores are reset, once issued traffic has ended. An image of which a core has halted
goes on FAULTED (R334). -/
def Hw.quiesced (h : Hw) : Hw :=
  if ¬ h.quiet then h
  else match h.img.quiesce with
    | none => h
    | some (.stop ws status) => ws.foldl (fun h w => h.completeRun w status 0) h.imgRelease.stopRun
    | some (.snap slot w thenStop stopW) =>
      let snap := h.takeSnap
      let h := h.modImg fun x => { x with snaps := tset (fun _ => none) x.snaps slot (some snap) }
      let h := (h.put IMG_STAT.SNAP_VALID (h.get IMG_STAT.SNAP_VALID ||| 2 ^ slot)).imgRelease
      let h := h.heldBack
      let faulted := (List.range 64).any fun c => h.flag (CORE_STAT.HALTED c)
      let h := if thenStop ∨ ¬ stopW.isEmpty then h.stopRun else (h.put IMG_STAT.STATE (if faulted then 4 else 3)).lapRelease
      (w.toList ++ stopW).foldl (fun h w => h.completeRun w 0 0) h

/-- PREEMPT_QUIESCED. -/
def execPreemptQuiesced (s : State) : Host.Outcome State Fault Refusal := done s s.hw.quiesced

/-- RESTORE of a valid slot in state READY (R337). The halt and descriptor fault registers are cleared (R207, R238). A cool-only image is restored and
runs although an array die is hot: R5 has the module refuse to run such an image then, but R327 names START alone and R337 no such refusal (DESIGN
CHOICE, log 55). -/
def Hw.restore (h : Hw) (w : Nat) (x : Snap) (k : ImgConf) : Hw :=
  let h := { h with csr := h.csr.filter fun e => !snapReg e.1 }
  let h := x.csr.foldl (fun h e => h.setWord e.1 e.2) h
  let h := { h with sram := restoreSram h.sram x.sram, marks := x.marks, cores := x.cores, engs := x.engs, bars := x.bars, drl := x.drl }
  let h := foldUp 64 (fun c h =>
    let h := ([CORE_HALT_PC.off c, CORE_HALT_INFO.off c, DSC_FAULT_VA.off c, DSC_FAULT_INFO.off c].foldl Hw.resetReg (h.traceEmpty c)).put (CORE_STAT.P_COLLIDE c) 0
    let h := h.modCore c fun s => { s with gearHold := h.mode.gear.isSome }
    foldUp 48 (fun n h => (h.resetReg (SYNC_LAST.off c n)).puts [(SYNC_VAL.VOID c n, 0), (SYNC_VAL.ABORTED c n, 0)]) h) h
  let h := ((h.restartCounts.setPatches []).masksOn k).imgRelease
  let h := (h.setLapWin w).modImg fun y => { y with lapStart := h.time, excluded := 0, holdFrom := if h.mode.gear.isSome then some h.time else none, relWait := true }
  (h.unclean.puts [(IMG_LAP.LAP, x.lap), (IMG_STAT.STATE, 3)]).lapRelease

/-- RESTORE. -/
def execRestore (w : Fin 16) (s : State) : Host.Outcome State Fault Refusal :=
  done s (s.hw.command w (fun e => sqOp e == 5) false fun e h =>
    match h.img.conf, h.get IMG_STAT.STATE with
    | some k, 2 => match h.snap (sqArg e 0) with
      | none => h.complete w e 0x02 0
      | some x => if x.digest ≠ leNat h.digestBytes then h.complete w e 0x35 0 else (h.restore w x k).complete w e 0 0
    | _, st => h.complete w e 0x20 st)

/-! ## Patches (R332) -/

/-- The fields of a patch list entry (R389); none where another bit is not 0. -/
def patchEntry (e : Nat) : Option Patch :=
  if bitsOf e 6 2 ≠ 0 ∨ bitsOf e 13 19 ≠ 0 then none
  else some ⟨bitsOf e 0 6, bitsOf e 8 5, BitVec.ofNat 32 (bitsOf e 32 32), bitsOf e 64 64⟩

/-- PATCH_PARAMS: all entries are queued or none. -/
def Hw.patchParams (h : Hw) (w : Nat) (e : BitVec 512) : Hw :=
  let st := h.get IMG_STAT.STATE
  let d := sqArg e 0
  let n := sqArg e 1
  if st ≠ 3 then h.complete w e 0x20 st
  else if d % 16 ≠ 0 then h.complete w e 0x02 0
  else if n = 0 ∨ n > 256 then h.complete w e 0x02 1
  else match h.mapFault (d / 32 * 32) (d % 32 + 16 * n) .hr with
    | some (a, r) => (h.mapEvent r a (reqArg 1 w 0)).complete w e 0x03 a
    | none =>
      let (l, bad, h) := (List.range n).foldl (fun (x : List (Option Patch) × Bool × Hw) i =>
        let (l, bad, h) := x
        let a := d + 16 * i
        let (r, h) := h.dpaRead (a / 32 * 32) .hr (reqArg 1 w 0)
        let v := r.getD (0, true)
        (l ++ [patchEntry (bitsOf v.1.toNat (a % 32 * 8) 128)], bad || v.2, h)) (([], false, h) : List (Option Patch) × Bool × Hw)
      let ps := l.filterMap id
      let runs := fun c => match h.img.conf with
        | some k => k.cores.any fun x => x.core == c && !fusedMember x && (x.scalarCode || decide (x.execBase < x.accBase))
        | none => false
      if bad then h.complete w e 0x05 0
      else if l.any (·.isNone) then h.complete w e 0x02 0
      else if ps.any fun p => !runs p.core then h.complete w e 0x33 0
      else if h.img.patches.length + ps.length > 1024 then (h.mark IMG_PATCHQ.FULL_SEEN).complete w e 0x32 0
      else (h.setPatches (h.img.patches ++ ps)).complete w e 0 0

/-- PATCH_PARAMS; its list is read as the host holds it (R382). -/
def execPatchParams (w : Fin 16) (s : State) : Host.Outcome State Fault Refusal :=
  done s (s.hw.commandOn w (fun e => sqOp e == 6) false (fun e => (sqArg e 0, sqArg e 0 + 16 * min 256 (sqArg e 1), false)) fun e h => h.patchParams w e)

/-! ## The lap boundary (R329 to R331) -/

/-- Every lap core has issued LAP in the current lap; none has between a boundary and its release. A FAULTED image can still reach the boundary of the lap in which a core halted (R334). -/
def Hw.lapReady (h : Hw) : Bool :=
  match h.img.conf with
  | some k => (h.get IMG_STAT.STATE == 3 || h.get IMG_STAT.STATE == 4) && !h.img.relWait && k.lapMask != 0 && (List.range 64).all fun c => !k.lapMask.getLsbD c || (h.core c).lapDone
  | none => false

/-- Steps 2 and 3 of R330: patches due at new lap number `n`, and the persistent slots' strides. -/
def Hw.lapPatches (h : Hw) (n : Nat) : Hw :=
  let due := h.img.patches.filter fun p => decide (p.lap ≤ n)
  let h := due.foldl (fun h p => h.pWrite p.core p.p 1 p.value) (h.setPatches (h.img.patches.filter fun p => decide (p.lap > n)))
  match h.img.conf with
  | none => h
  | some k => k.cores.foldl (fun h x => x.slots.foldl (fun h y =>
      h.put (STR_PBASE.BASE x.core y.1) (h.get (STR_PBASE.BASE x.core y.1) + h.get (STR_PSTRIDE.LAP_STRIDE x.core y.1))) h) h

/-- The length of the lap that ends, in housekeeping cycles (R331); an overrun is noted. -/
def Hw.lapLength (h : Hw) : Hw :=
  let len := h.time - h.img.lapStart - h.img.excluded - h.heldFor
  let lap := h.get IMG_LAP.LAP
  let h := (h.put IMG_LASTLEN.LEN len).modImg fun x => { x with lapStart := h.time, excluded := 0 }
  if len * 10 > h.get IMG_WCET.WCET then (h.mark IMG_STAT.OVERRUN).ev 0x503 1 0 0 lap len else h

/-- The lap boundary (R330). -/
def Hw.lapBoundary (h : Hw) : Hw :=
  let lap := h.get IMG_LAP.LAP
  let h := ((h.latchCounts).lapLength.lapPatches (lap + 1)).put IMG_LAP.LAP (lap + 1)
  let w := h.img.lapWin.getD 0
  let m := h.get (CMD_RES.RES_COUNT w)
  let buf := if m = 0 then 0 else lap % m
  let h := h.lapEntry w ⟨0, if h.img.hotStop then 0x31 else 0x30, buf, 1, lap, h.time⟩
  let h := h.modImg fun x => { x with relWait := true }
  match h.img.snapW with
  | some (v, k, st) => h.imgHold (.snap k (some v) (st || h.flag IMG_STAT.PEND_STOP) h.img.stopW)
  | none => if h.flag IMG_STAT.PEND_STOP then h.imgHold (.stop h.img.stopW 0) else h.lapRelease

/-- LAP_RELEASE (R395, R396). -/
def execLapRelease (s : State) : Host.Outcome State Fault Refusal := done s s.hw.lapRelease

end Sys2Proof.Machine
end

