-- ==== Sys2Proof/Machine/Trust.lean ====
section
/-!
DEFINITION. Bruros (R403 to R423): the boot chain, measurements and reports, owner operations, erases, firmware update, debug unlock, and
SPDM.
-/
namespace Sys2Proof.Machine

/-! ## Firmware slots (R405 to R407) -/

def fwBodyMax : Nat := 25165824

/-- Whether a slot passes R407; `sig` is whether its signature verifies. -/
def Hw.slotOk (h : Hw) (m : Memory) (sig : Bool) : Bool :=
  let len := Memory.readLE m 0x10 8
  let sigLen := Memory.readLE m 0x778 2
  Memory.readLE m 0 4 == 0x57465242 && decide (1 ≤ len) && decide (len ≤ fwBodyMax) && decide (1 ≤ sigLen) && decide (sigLen ≤ 1536) && sig &&
    decide (h.fuses.svn ≤ Memory.readLE m 4 4) && keyId (Memory.readBytes m 0x60 1793) == fwAnchor &&
    Memory.readBytes m 0x20 64 == shake64 (Memory.readBytes m 0x1000 len)

/-- The slot that runs, by SLOT. -/
def Hw.slotMem (h : Hw) (b : Bool) : Memory := if b then h.flash.slotB else h.flash.slotA

/-- The slot that BOOT_PREF names; A where it names none. -/
def Hw.preferred (h : Hw) : Bool := h.flash.bootPref.getD false

def Hw.running (h : Hw) : Bool := h.flag TRU_STAT.SLOT

/-! ## Owner records (R414) -/

/-- The owner in force shown in TRU_STAT. -/
def Hw.setOwner (h : Hw) (r : Option OwnerRec) : Hw :=
  (h.modTrust fun t => { t with sel := r }).puts
    [(TRU_STAT.OWNED, bnat r.isSome), (TRU_STAT.EPOCH, h.fuses.epoch), (TRU_STAT.POLICY, match r with
      | some x => x.policy.toNat
      | none => 0)]

/-- A copy of an owner record as it is written: with its TAG. -/
def sealed (r : OwnerRec) : Option (OwnerRec × Nat) := some (r, ownerTag r)

/-- Step 6 of R406: the copy whose EPOCH is the fuse count and whose TAG verifies. -/
def Hw.selectOwner (h : Hw) : Hw :=
  let good := fun (x : OwnerRec × Nat) => x.1.epoch == h.fuses.epoch && x.2 == ownerTag x.1
  h.setOwner (((h.flash.owner0.filter good).or (h.flash.owner1.filter good)).map (·.1))

/-! ## Measurements and reports (R420, R421) -/

/-- The erase record's 32 bytes. -/
def EraseRec.bytes (r : EraseRec) : List Byte :=
  natLE 8 r.seq ++ natLE 1 r.kind ++ natLE 1 (bnat r.complete) ++ natLE 1 (bnat r.clean) ++ natLE 5 0 ++ natLE 8 r.boot ++ natLE 8 0

def variantCode (h : Hw) : Nat := if h.fuses.variantS then 2 else 1

/-- Measurement `i`. -/
def Hw.measure (h : Hw) (i : Nat) : List Byte :=
  match i with
  | 0 => shake64 Config.rom
  | 1 => shake64 (Memory.readBytes (h.slotMem h.running) 0 0x778)
  | 2 => shake64 (natLE 1 (variantCode h) ++ natLE 1 h.fuses.svn ++ natLE 1 h.fuses.epoch)
  | 3 => match h.trust.sel with
    | some r => shake64 (recBytes r)
    | none => natLE 64 0
  | 4 => if h.get IMG_STAT.STATE = 0 then natLE 64 0 else h.digestBytes
  | 5 => shake64 (((List.range 16).flatMap fun n => natLE 8 (h.word (MAP_INST_A.off n)).toNat ++ natLE 8 (h.word (MAP_INST_B.off n)).toNat ++
      natLE 8 (h.word (MAP_INST_C.off n)).toNat) ++ natLE 1 (h.get MAP_RESERVE.RSV_NOW))
  | 6 => shake64 h.trust.erase.bytes
  | _ => shake64 (h.trust.unlocks.flatMap fun x => natLE 1 x.1 ++ natLE 8 x.2)

/-- Step 5 of R406: CDI, and a new attestation key pair with the CLAIM of its certificate (R408, R412). -/
def Hw.attestKey (h : Hw) : Hw :=
  let m := h.measure 0 ++ h.measure 1 ++ h.measure 2
  let cdi := cdiOf m
  { h with fresh := h.fresh + 1,
           trust := { h.trust with cdi := cdi, akSeed := akSeedOf cdi (Config.random h.fresh % 2 ^ 256), claim := Config.shake256 m 64 } }

/-- The boot chain of R406 with preferred slot `pref`: false where neither slot passes (recovery). -/
def Hw.boot (h : Hw) (pref sigA sigB idOk : Bool) : Bool × Hw :=
  let ok := fun (b : Bool) => h.slotOk (h.slotMem b) (if b then sigB else sigA)
  if ¬ ok pref ∧ ¬ ok (!pref) then (false, h)
  else
    let run : Bool := if ok pref then pref else !pref
    let m := h.slotMem run
    let h := h.modTrust fun t => { t with challenge := [], ak := t.ak + 1 }
    let h := h.puts [(TRU_STAT.SLOT, bnat run), (TRU_STAT.FALLBACK, bnat (run != pref)), (TRU_STAT.ID_FAULT, bnat !idOk),
      (TRU_STAT.SVN_RUN, Memory.readLE m 4 4), (TRU_STAT.SVN_FUSE, h.fuses.svn), (GID_FWVER.VERSION, Memory.readLE m 8 8),
      (GID_SERIAL.BYTES 0, leNat ((Config.certs.drop (3456 + 0x38)).take 8)), (GID_SERIAL.BYTES 1, leNat ((Config.certs.drop (3456 + 0x40)).take 8))]
    let h := h.attestKey.selectOwner
    let h := if idOk then h else h.ev 0x702 2 0 0 0 0
    (true, if run != pref then h.ev 0x701 1 0 0 (bnat run) 0 else h)

/-- Bytes 0x000 to 0x27F of a report. -/
def Hw.reportBody (h : Hw) (nonce : List Byte) : List Byte :=
  padTo 0x280 (natLE 4 0x52415242 ++ natLE 2 1 ++ natLE 2 2184 ++ padTo 32 nonce ++ natLE 8 h.mode.boot ++ natLE 8 h.time ++ natLE 8 subjectId ++
    natLE 4 (h.get IMG_STAT.STATE + bnat h.kick * 8 + h.get TRU_STAT.DEBUG * 16 + h.get TRU_STAT.FALLBACK * 64) ++
    ((List.range 8).flatMap h.measure) ++ h.trust.erase.bytes)

/-- The attestation report over a nonce. -/
def Hw.report (h : Hw) (nonce : List Byte) : List Byte := h.reportBody nonce ++ signField h.trust.akSeed (h.reportBody nonce)

/-- Bytes 0x000 to 0x777 of the attestation key certificate (R412): KIND 4, issued by the identity key, without an end of validity. -/
def Hw.akCertBody (h : Hw) : List Byte :=
  let key := publicKey h.trust.akSeed
  padTo 0x778 (natLE 4 0x31435242 ++ natLE 1 4 ++ natLE 1 0 ++ natLE 2 3456 ++ natLE 8 (Config.akSerial h.trust.ak) ++ natLE 8 subjectId ++ natLE 8 (keyId key) ++
    natLE 8 0 ++ natLE 8 0xFFFFFFFFFFFFFFFF ++ natLE 64 h.trust.claim ++ key)

/-- The attestation key certificate, signed by the identity key. -/
def Hw.akCert (h : Hw) : List Byte := h.akCertBody ++ signField identitySeed h.akCertBody

/-- Intermediate, identity and attestation key certificates (R413). -/
def Hw.certChain (h : Hw) : List Byte := padTo 6912 Config.certs ++ h.akCert

/-! ## The trust mailbox (R419, R423) -/

/-- A byte of the request buffer. -/
def Hw.reqByte (h : Hw) (i : Nat) : Byte := BitVec.ofNat 8 (bitsOf (h.word (TRU_REQ.off (i / 8))).toNat (i % 8 * 8) 8)

/-- The running command completes: response, STATUS, BUSY and GO, which ends set where software has written it in this housekeeping cycle (R9). -/
def Hw.truDone (h : Hw) (status : Nat) (resp : List Byte) : Hw :=
  let h := foldUp ((resp.length + 7) / 8) (fun i h => h.setWord (TRU_RESP.off i) (BitVec.ofNat 64 (leNat ((resp.drop (8 * i)).take 8)))) h
  h.puts [(TRU_MBOX.RLEN, resp.length), (TRU_MBOX.STATUS, status), (TRU_MBOX.GO, bnat (h.setNow.contains (TRU_MBOX.GO.off, TRU_MBOX.GO.lo))),
    (TRU_MBOX.BUSY, 0)]

/-- The status of a request that no command takes: an unknown opcode, a bad length (R419). -/
def Hw.truBad (h : Hw) : Option Nat :=
  if ¬ [0x01, 0x02, 0x03, 0x10, 0x11, 0x12, 0x20, 0x30, 0x31, 0x32].contains (h.get TRU_MBOX.OPCODE) then some 0x01
  else if h.get TRU_MBOX.LEN > 16384 then some 0x02 else none

/-- The request that GO holds starts; one that no command takes completes at once. -/
def Hw.truStart (h : Hw) : Hw :=
  let h := (h.modTrust fun t => { t with op := h.get TRU_MBOX.OPCODE }).puts [(TRU_MBOX.GO, 1), (TRU_MBOX.BUSY, 1)]
  match h.truBad with
  | some status => h.truDone status []
  | none => h

/-- GO of the trust mailbox written 1 (R419): it starts nothing while BUSY. GO then stays set past a completion of the same housekeeping cycle, and the
request starts with the next (R9); a command itself is taken to last beyond the cycle that starts it (DESIGN CHOICE, log 62). -/
def Hw.truGo (h : Hw) : Hw :=
  let h := if h.flag TRU_MBOX.BUSY ∨ h.truBad.isSome then h.mark TRU_MBOX.GO else h
  if h.flag TRU_MBOX.BUSY then h else h.truStart

/-- Whether the running mailbox command has started its own erase, with which it ends (R417, R422). -/
def Hw.mboxErases (h : Hw) : Bool :=
  match h.mode.erase with
  | some (.owner _) => true
  | some (.debug _) => true
  | _ => false

/-- A mailbox command runs where GO has started its opcode. -/
def Hw.mbox (h : Hw) (op : Nat) (f : Hw → Hw) : Hw := if ¬ h.flag TRU_MBOX.BUSY ∨ h.trust.op ≠ op ∨ h.mboxErases then h else f h

/-- A mailbox command that erases waits while another erase runs (R418). -/
def Hw.mboxErase (h : Hw) (op : Nat) (f : Hw → Hw) : Hw := if h.mode.erase.isSome then h else h.mbox op f

/-- GET_CERTS. -/
def execGetCerts (s : State) : Host.Outcome State Fault Refusal :=
  done s (s.hw.mbox 0x01 fun h => h.truDone 0 h.certChain)

/-- GET_REPORT: over the request's 32-byte nonce; an error where ID_FAULT is set (R409). -/
def execGetReport (s : State) : Host.Outcome State Fault Refusal :=
  done s (s.hw.mbox 0x02 fun h =>
    if h.flag TRU_STAT.ID_FAULT then h.truDone 0x55 []
    else if h.get TRU_MBOX.LEN ≠ 32 then h.truDone 0x02 []
    else h.truDone 0 (h.report ((List.range 32).map h.reqByte)))

/-- CHALLENGE: 32 fresh random bytes. -/
def execChallenge (s : State) : Host.Outcome State Fault Refusal :=
  done s (s.hw.mbox 0x03 fun h =>
    let c := Config.random h.fresh % 2 ^ 256
    Hw.truDone { h with fresh := h.fresh + 1, trust := { h.trust with challenge := h.trust.challenge ++ [c] } } 0 (natLE 32 c))

/-- CHALLENGE_EXPIRY (R416): 60 s have passed since the oldest challenge that still stands. -/
def execChallengeExpiry (s : State) : Host.Outcome State Fault Refusal :=
  done s (s.hw.modTrust fun t => { t with challenge := t.challenge.drop 1 })

/-- An owner operation's challenge serves it once; a stale one ends it with status 0x51. -/
def Hw.challenged (h : Hw) (chal : BitVec 256) (f : Hw → Hw) : Hw :=
  if h.trust.challenge.contains chal.toNat then f (h.modTrust fun t => { t with challenge := t.challenge.erase chal.toNat }) else h.truDone 0x51 []

/-! ## Erases (R418) -/

/-- An erase begins: every tracked line is back-invalidated. -/
def Hw.eraseStart (h : Hw) (why : EraseWhy) : Hw :=
  (h.filt.lines.foldl (fun h line => h.snoop line true []) h).modMode fun m => { m with erase := some why }

/-- KIND of an erase. -/
def EraseWhy.kind : EraseWhy → Nat
  | .owner _ => 3
  | _ => 1

/-- The erase record and the registers that show it. -/
def Hw.eraseRecord (h : Hw) (kind : Nat) (complete : Bool) : Hw :=
  let r : EraseRec := { seq := h.trust.erase.seq + 1, kind := kind, complete := complete, clean := complete, boot := h.mode.boot }
  (h.modTrust fun t => { t with erase := r }).puts [(TRU_ERASE.SEQ, r.seq), (TRU_ERASE.KIND, kind), (TRU_ERASE.COMPLETE, bnat complete), (TRU_STAT.CLEAN, bnat complete)]

/-- All data rows, spares and SRAMs zero, the poison list empty and every snapshot invalid. Calibration rows and patch entries stand. -/
def Hw.eraseAll (h : Hw) : Hw :=
  let h := h.allCols fun h c => ((h.drainCol c).modCol c fun s => { s with rows := [] })
  let h := foldUp 8 (fun t h => h.modTower t fun s => { s with spares := [] }) h
  let h := { h with dram := [], sram := [], marks := [], poison := [], poisonOver := false }
  let h := (h.modHost fun x => { x with sources := [] }).modImg fun x => { x with snaps := [] }
  (h.put IMG_STAT.SNAP_VALID 0).kickWriteBack

/-- The receipt of R417. -/
def Hw.receipt (h : Hw) (r : OwnerRec) : List Byte :=
  let b := natLE 8 subjectId ++ natLE 8 (keyId (ownerKey r)) ++ natLE 1 h.fuses.epoch ++ h.trust.erase.bytes
  b ++ signField h.trust.akSeed b

/-- Steps 3 to 6 of R417: the new record, one EPOCH fuse, both copies. -/
def Hw.ownerInstall (h : Hw) (r : OwnerRec) : Hw :=
  let h : Hw := { h with fuses := { h.fuses with epoch := h.fuses.epoch + 1 } }
  let r : OwnerRec := { r with epoch := h.fuses.epoch }
  let h := (h.modFlash fun f => { f with owner0 := sealed r, owner1 := sealed r }).setOwner (some r)
  h.truDone 0 (h.receipt r)

/-- A debug level opens (R422). -/
def Hw.debugOpen (h : Hw) (level : Nat) : Hw :=
  ((h.modTrust fun t => { t with unlocks := t.unlocks ++ [(level, h.time)] }).put TRU_STAT.DEBUG (max level (h.get TRU_STAT.DEBUG))).truDone 0 []

/-- ERASE_END: the erase is done and what asked for it goes on. -/
def Hw.eraseEnd (h : Hw) (verified : Bool) : Hw :=
  match h.mode.erase with
  | none => h
  | some why =>
    if ¬ h.filt.lines.isEmpty then h
    else
      let bad : Bool := match why with
        | .command _ v => v && !verified
        | _ => false
      let h := (h.eraseAll.eraseRecord why.kind !bad).modMode fun m => { m with erase := none }
      match why with
      | .command w _ => h.completeRun w (if bad then 0x04 else 0) h.trust.erase.seq
      | .owner r => h.ownerInstall r
      | .debug l => h.debugOpen l
      | .cxlReset => h

/-- ERASE_END. -/
def execEraseEnd (verified : Bool) (s : State) : Host.Outcome State Fault Refusal := done s (s.hw.eraseEnd verified)

/-- ERASE (R389, R418): accepted in image state EMPTY. -/
def execErase (w : Fin 16) (s : State) : Host.Outcome State Fault Refusal :=
  if s.hw.mode.erase.isSome then done s s.hw
  else done s (s.hw.command w (fun e => sqOp e == 0x0B) true fun e h =>
    if h.get IMG_STAT.STATE ≠ 0 then h.complete w e 0x10 (h.get IMG_STAT.STATE)
    else h.eraseStart (.command w (sqFlags e % 2 == 1)))

/-! ## Owner operations (R417) -/

/-- ENROLL: on an unowned module. -/
def execEnroll (rec : OwnerRec) (chal : BitVec 256) (sigNew : Bool) (s : State) : Host.Outcome State Fault Refusal :=
  done s (s.hw.mboxErase 0x10 fun h =>
    if h.trust.sel.isSome ∨ h.get IMG_STAT.STATE ≠ 0 then h.truDone 0x52 []
    else if h.fuses.epoch ≥ 32 then h.truDone 0x53 []
    else if ¬ recOk rec then h.truDone 0x02 []
    else h.challenged chal fun h => if sigNew then h.eraseStart (.owner rec) else h.truDone 0x50 [])

/-- TRANSFER: on an owned module. -/
def execTransfer (rec : OwnerRec) (chal : BitVec 256) (sigNew sigOld : Bool) (s : State) : Host.Outcome State Fault Refusal :=
  done s (s.hw.mboxErase 0x11 fun h =>
    if h.trust.sel.isNone ∨ h.get IMG_STAT.STATE ≠ 0 then h.truDone 0x52 []
    else if h.fuses.epoch ≥ 32 then h.truDone 0x53 []
    else if ¬ recOk rec then h.truDone 0x02 []
    else h.challenged chal fun h => if sigNew && sigOld then h.eraseStart (.owner rec) else h.truDone 0x50 [])

/-- SET_OWNER: policy and image keys within the epoch; the owner key stands. -/
def execSetOwner (rec : OwnerRec) (chal : BitVec 256) (sigOld : Bool) (s : State) : Host.Outcome State Fault Refusal :=
  done s (s.hw.mbox 0x12 fun h =>
    match h.trust.sel with
    | none => h.truDone 0x52 []
    | some old =>
      if ¬ recOk rec then h.truDone 0x02 []
      else h.challenged chal fun h =>
        if ¬ sigOld then h.truDone 0x50 []
        else
          let r : OwnerRec := { rec with epoch := old.epoch, body := old.body.take 1800 ++ rec.body.drop 1800 }
          ((h.modFlash fun f => { f with owner0 := sealed r, owner1 := sealed r }).setOwner (some r)).truDone 0 [])

/-- DEBUG_UNLOCK (R422): level 1 needs the owner's signature and DEBUG_OK unless the module is unowned; level 2 Olucen's too, and erases
memory first. -/
def execDebugUnlock (level : Fin 3) (chal : BitVec 256) (sigOwner sigOlucen : Bool) (s : State) : Host.Outcome State Fault Refusal :=
  done s ((if level.val = 2 then s.hw.mboxErase 0x20 else s.hw.mbox 0x20) fun h =>
    let owned := h.trust.sel.isSome
    if level.val = 0 then h.truDone 0x02 []
    else if (owned ∧ ¬ bitAt (h.get TRU_STAT.POLICY) 2) ∨ (level.val = 2 ∧ h.get IMG_STAT.STATE ≠ 0) then h.truDone 0x52 []
    else h.challenged chal fun h =>
      if (owned ∧ ¬ sigOwner) ∨ (level.val = 2 ∧ ¬ (sigOlucen ∧ sigOwner)) then h.truDone 0x50 []
      else if level.val = 2 then h.eraseStart (.debug 2) else h.debugOpen 1)

/-! ## Firmware (R410, R411) -/

/-- The slot that does not run changed. -/
def Hw.modOther (h : Hw) (f : Memory → Memory) : Hw :=
  h.modFlash fun x => if h.running then { x with slotA := f x.slotA } else { x with slotB := f x.slotB }

/-- FW_WRITE: a chunk of up to 16 KiB into the slot that is not running. -/
def execFwWrite (off : Nat) (data : List Byte) (s : State) : Host.Outcome State Fault Refusal :=
  done s (s.hw.mbox 0x30 fun h =>
    if data.isEmpty ∨ data.length > 16384 ∨ off + data.length > 2 ^ 26 then h.truDone 0x02 []
    else (h.modOther fun m => Memory.writeBytes m off data).truDone 0 [])

/-- The written slot checked; where it passes, BOOT_PREF names it. -/
def Hw.fwActivate (h : Hw) (sigOk : Bool) : Bool × Hw :=
  if h.slotOk (h.slotMem !h.running) sigOk then (true, h.modFlash fun f => { f with bootPref := some !h.running }) else (false, h)

/-- FW_ACTIVATE. -/
def execFwActivate (sigOk : Bool) (s : State) : Host.Outcome State Fault Refusal :=
  done s (s.hw.mbox 0x31 fun h => (h.fwActivate sigOk).2.truDone (if (h.fwActivate sigOk).1 then 0 else 0x54) [])

/-- FW_COMMIT: SVN_FUSE rises to the running firmware's SVN. -/
def execFwCommit (s : State) : Host.Outcome State Fault Refusal :=
  done s (s.hw.mbox 0x32 fun h =>
    if h.running ≠ h.preferred then h.truDone 0x52 []
    else
      let n := max h.fuses.svn (min 64 (h.get TRU_STAT.SVN_RUN))
      (Hw.put { h with fuses := { h.fuses with svn := n } } TRU_STAT.SVN_FUSE n).truDone 0 [])

/-- PLDM_FW_UPDATE (R410): firmware received over the sideband, written to the slot that is not running and activated. -/
def execPldmFwUpdate (fw : Firmware) (sigOk : Bool) (s : State) : Host.Outcome State Fault Refusal :=
  let h := s.hw
  if h.mode.phase = .off ∨ h.mode.phase = .heldOff ∨ h.mode.phase = .locked ∨ h.mode.phase = .recovery ∨ fw.bytes.length > 2 ^ 26 then done s h
  else
    let r := (h.modOther fun _ => Memory.writeBytes [] 0 fw.bytes).fwActivate sigOk
    done s (r.2.send (.reply 2 (if r.1 then 0 else 0x54) []))

/-! ## SPDM (R421) -/

/-- SPDM_REQUEST: certificates, measurements 1 to 8 or the report as index 0xFD, or a signed response; every request is an error where
ID_FAULT is set (R409). Code 0 is a response, 1 an error. -/
def execSpdmRequest (viaDoe : Bool) (req : SpdmReq) (s : State) : Host.Outcome State Fault Refusal :=
  let h := s.hw
  if (viaDoe ∧ (¬ h.released ∨ ¬ h.host.link)) ∨ h.trust.ak = 0 then done s h
  else if h.flag TRU_STAT.ID_FAULT then done s (h.send (.reply 1 1 []))
  else done s (match req with
    | .getCertificate => h.send (.reply 1 0 h.certChain)
    | .getMeasurements n nonce =>
      if 1 ≤ n ∧ n ≤ 8 then h.send (.reply 1 0 (h.measure (n - 1)))
      else if n = 0xFD then h.send (.reply 1 0 (h.report (natLE 32 nonce.toNat)))
      else h.send (.reply 1 1 [])
    | .challenge nonce => h.send (.reply 1 0 (signField h.trust.akSeed (natLE 32 nonce.toNat)))
    | .keyExchange => h.send (.reply 1 0 (signField h.trust.akSeed h.certChain)))

end Sys2Proof.Machine
end

