-- ==== Sys2Proof/Machine/Power.lean ====
section
/-!
DEFINITION. Power, gears and heat (R424 to R453): domains, the power cap, gear changes, freewheel, sensors and thresholds, trip and input
loss.
-/
namespace Sys2Proof.Machine

/-! ## CRC-32C -/

/-- `n` bits of a CRC-32C register. -/
def crcBits : Nat → Nat → Nat
  | 0, r => r
  | n + 1, r => crcBits n (if r % 2 = 1 then (r / 2) ^^^ 0x82F63B78 else r / 2)

/-- A CRC-32C register over bytes. -/
def crcFold (l : List Byte) (r : Nat) : Nat := l.foldl (fun r b => crcBits 8 (r ^^^ b.toNat)) r

/-- CRC-32C of a byte string. -/
def crc32c (l : List Byte) : Nat := crcFold l 0xFFFFFFFF ^^^ 0xFFFFFFFF

/-! ## Gears (R432 to R436) -/

/-- The gear in force: the lowest of the four limits; G4 in kickstand (R467). -/
def Hw.gearInForce (h : Hw) : Nat :=
  if h.kick then 4
  else min 4 (max (max (h.get PWR_GEAR.LIM_IMG) (h.get PWR_GEAR.LIM_HOST)) (max (h.get PWR_GEAR.LIM_THERM) (h.get PWR_GEAR.LIM_PWR)))

/-- SET_GEAR_CAP commands whose cap the running gear has reached complete (R433). -/
def Hw.gearServe (h : Hw) : Hw :=
  let ready := fun (w : Nat) => match (h.win w).run with
    | some e => decide (h.get PWR_GEAR.GEAR ≥ sqArg e 0)
    | none => true
  let ws := h.img.gearW
  let h := h.modImg fun x => { x with gearW := x.gearW.filter fun w => !ready w }
  (ws.filter ready).foldl (fun h w => h.completeRun w 0 0) h

/-- A package-wide core hold of a gear change begins or ends (R223). -/
def Hw.gearHolds (h : Hw) (on : Bool) : Hw :=
  foldUp 64 (fun c h =>
    let h := if h.flag (CORE_STAT.RUN c) ∧ (h.core c).gearHold ≠ on then h.trace c (if on then 2 else 3) 3 0 (h.core c).xpc else h
    let h := (h.modCore c fun s => { s with gearHold := on }).put (CORE_STAT.HOLD c) (bnat (on || (h.core (h.leader c)).hold.isSome || (h.core c).imgHold))
    h.breakPending c) h

/-- The module runs: the phases in which clocks, sensors and caps are at work. -/
def Hw.powered (h : Hw) : Bool := h.mode.phase == .released || h.mode.phase == .linkWait

/-- One housekeeping cycle of 10 ns (R482, R487): TEL_TIME, and the count of the gear, at a change that of its target. Without power there is
no clock. A request of the trust mailbox that a completion of the cycle before left set (R9) starts. -/
def Hw.hkTick (h : Hw) : Hw :=
  if h.mode.phase = .off ∨ h.mode.phase = .heldOff ∨ h.mode.phase = .locked then h
  else
    let g := match h.mode.gear with
      | some g => g.target
      | none => h.get PWR_GEAR.GEAR
    let h : Hw := { (h.count (TEL_GEAR.CYCLES g) 1).put TEL_TIME.TIME (h.time + 1) with setNow := [], evt := { h.evt with now := [] } }
    if h.flag TRU_MBOX.GO ∧ ¬ h.flag TRU_MBOX.BUSY then h.truStart else h

/-- GEAR_CHANGE_START (R432, R434): hold, drained sequencers, owed refreshes issued, feed-zone data discarded. -/
def execGearChangeStart (s : State) : Host.Outcome State Fault Refusal :=
  let h := s.hw
  if h.mode.gear.isSome ∨ ¬ h.powered ∨ h.flag PWR_FW.FW ∨ h.get PWR_GEAR.GEAR = h.gearInForce then done s h
  else
    let g : GearSt := { locked := false, target := h.gearInForce, old := h.get PWR_GEAR.GEAR }
    let h := ((h.gearHolds true).modImg fun x => { x with holdFrom := some (x.holdFrom.getD h.time) }).clockStop
    done s ((h.modMode fun m => { m with gear := some g }).put PWR_GEAR.CHANGING 1)

/-- The root PLL locks (R431, R434): the clocks restart at the gear in force when the relock began; every column's verification zone stands before PACED
traffic. -/
def Hw.pllLock (h : Hw) (g : GearSt) : Hw :=
  let t := h.gearInForce
  ((h.modMode fun m => { m with gear := some { g with locked := true, target := t } }).put PWR_GEAR.GEAR t).clockStart

/-- Freewheel is entered (R437): G4, self-refresh, TC domains off. -/
def Hw.freewheelEnter (h : Hw) : Hw :=
  let h := if h.get PWR_GEAR.GEAR = 4 then h else ((h.clockStop.put PWR_GEAR.GEAR 4).count PWR_GEAR.CHANGES 1).clockStart
  let h := (h.allCols Hw.selfRefresh).tcOff
  let h := if h.fuses.variantS then foldUp 4 (fun n h => h.put (PWR_DOM.ON (26 + n)) 0) h else h
  h.put PWR_FW.FW 1

/-- Whether freewheel is accepted (R437). -/
def Hw.mayFreewheel (h : Hw) : Bool :=
  (h.get IMG_STAT.STATE == 0 || h.get IMG_STAT.STATE == 2) && (List.range 16).all (fun w => (h.win w).run.isNone) && !h.kick && h.mode.erase.isNone

/-- A freewheel request (R436, R437): waiting for a gear change in progress, refused, or carried out. -/
def Hw.freewheel (h : Hw) : Hw :=
  if ¬ h.released ∨ h.flag PWR_FW.FW then h
  else if h.mode.gear.isSome then h.modMode fun m => { m with freeWaits := true }
  else if ¬ h.mayFreewheel then h.mark PWR_FW.FW_REFUSED
  else h.freewheelEnter

/-- GEAR_CHANGE_END (R223, R434): once every verification zone and every fetch and drain issued before the hold has ended the cores restart together, each counting one gear hold; what waited goes
on. -/
def execGearChangeEnd (s : State) : Host.Outcome State Fault Refusal :=
  let h := s.hw
  match h.mode.gear with
  | none => done s h
  | some g =>
    if ¬ g.locked ∨ ¬ h.mode.verify.isEmpty ∨ ¬ h.issuedEnded then done s h
    else
      let h := foldUp 64 (fun c h => h.count (CORE_HOLDS.GEAR c) 1) h
      let waits := h.mode.freeWaits
      let h := ((h.modMode fun m => { m with gear := none, freeWaits := false }).holdOver.gearHolds false).count PWR_GEAR.CHANGES 1
      let h := (h.put PWR_GEAR.CHANGING 0).gearServe.serveHeld
      done s (if waits then h.freewheel else h)

/-- SET_GEAR_CAP (R433): in kickstand it stores LIM_HOST and completes (R468). -/
def execSetGearCap (w : Fin 16) (s : State) : Host.Outcome State Fault Refusal :=
  done s (s.hw.command w (fun e => sqOp e == 0x10) true fun e h =>
    let g := sqArg e 0
    if g > 4 then h.complete w e 0x02 0
    else
      let h := h.put PWR_GEAR.LIM_HOST g
      if h.kick ∨ h.get PWR_GEAR.GEAR ≥ g ∨ h.gearInForce > g then h.complete w e 0 0
      else h.modImg fun x => { x with gearW := x.gearW ++ [w.val] })

/-! ## Freewheel (R437 to R439) -/

/-- FREEWHEEL_REQUEST. -/
def execFreewheelRequest (s : State) : Host.Outcome State Fault Refusal := done s s.hw.freewheel

/-- The module wakes (R439): domains on, sequencers awake, cores of a READY image configured again, waiting host requests served. -/
def Hw.wake (h : Hw) : Hw :=
  if ¬ h.flag PWR_FW.FW then h
  else
    let h := h.tcOn.lkOn
    let h := h.allCols Hw.selfWake
    let h := match h.img.conf with
      | some k => if h.get IMG_STAT.STATE = 2 then h.configure k else h
      | none => h
    (h.put PWR_FW.FW 0).serveHeld

/-- WAKE. -/
def execWake (s : State) : Host.Outcome State Fault Refusal := done s s.hw.wake

/-- D3HOT_ENTRY (R437): a freewheel request; the function enters D3hot in any case. -/
def execD3hotEntry (s : State) : Host.Outcome State Fault Refusal :=
  done s (s.hw.freewheel.modHost fun x => { x with d3hot := true })

/-- D0_ENTRY (R439). -/
def execD0Entry (s : State) : Host.Outcome State Fault Refusal :=
  done s (s.hw.wake.modHost fun x => { x with d3hot := false })

/-! ## Trip and input loss (R449 to R451) -/

/-- The 64 bytes of a trip record. -/
def Hw.tripBytes (h : Hw) (seq cause sensor temp : Nat) : List Byte :=
  let b := natLE 4 0x50495254 ++ natLE 4 0 ++ natLE 8 seq ++ natLE 8 h.mode.boot ++ natLE 8 h.time ++ natLE 1 cause ++ natLE 1 sensor ++
    natLE 2 (unsigned 16 (signed 13 temp)) ++ natLE 1 (h.get PWR_GEAR.GEAR) ++ natLE 1 (h.get IMG_STAT.STATE) ++ natLE 2 (h.get PWR_MEAS.POWER_W) ++
    natLE 8 (h.get IMG_LAP.LAP) ++ natLE 2 (h.get PWR_MEAS.VIN) ++ natLE 10 0
  b ++ natLE 4 (crc32c b)

/-- The record with the highest SEQ. -/
def lastTrip (l : List TripRec) : Option TripRec :=
  l.foldl (fun b r => match b with
    | none => some r
    | some a => if a.seq < r.seq then some r else some a) none

/-- A record added to the log's two slots: it replaces the one without the highest SEQ. -/
def addTrip (l : List TripRec) (r : TripRec) : List TripRec := (lastTrip l).toList ++ [r]

/-- What outlives a power-off: fuses, flash, the test connector, boot and erase counts, the messages already sent. -/
def Hw.persist (h : Hw) (phase : Phase) : Hw :=
  { fuses := h.fuses, flash := h.flash, jtag := h.jtag, out := h.out, fresh := h.fresh, ids := h.ids,
    mode := { phase := phase, perst := h.mode.perst, linkDisabled := h.mode.linkDisabled, boot := h.mode.boot },
    trust := { ak := h.trust.ak, erase := h.trust.erase } }

/-- The power-off sequence (R449): a trip record, then everything off. TEMP of a record without a sensor is a free value. -/
def Hw.powerOff (h : Hw) (cause sensor : Nat) (temp : Option Nat) : Hw :=
  if h.mode.phase = .off ∨ h.mode.phase = .heldOff ∨ h.mode.phase = .locked then h
  else
    let seq := match lastTrip h.flash.trips with
      | some r => r.seq + 1
      | none => 1
    let (temp, h) := h.orFree (2 ^ 13) temp
    (h.modFlash fun f => { f with trips := addTrip f.trips ⟨seq, h.tripBytes seq cause sensor temp⟩ }).persist .heldOff

/-- INPUT_LOSS (R424): 0 input low, 1 input high, 2 PRESENT_N open, recorded as input low. -/
def execInputLoss (cause : Fin 3) (s : State) : Host.Outcome State Fault Refusal :=
  done s (s.hw.powerOff (if cause.val = 1 then 3 else 2) 0xFF none)

/-- DOMAIN_OVERCURRENT (R427): the domain switches off and stays off; kickstand with cause fault. Words of a tower whose interface or arrays
are off end with command errors (R468). -/
def execDomainOvercurrent (dom : Fin 30) (current : BitVec 16) (s : State) : Host.Outcome State Fault Refusal :=
  let h := s.hw
  if ¬ h.flag (PWR_DOM.ON dom) then done s h
  else
    let d := dom.val
    let h := (h.puts [(PWR_DOM.ON d, 0), (PWR_DOM.FAULT d, 1)]).ev 0x801 2 9 d current.toNat 0
    let h := if 8 ≤ d ∧ d < 24 then
        foldUp 64 (fun k h => foldUp 6 (fun l h =>
          (h.modCol (64 * (d % 8) + k) fun x => { x with failed := if x.failed.contains l then x.failed else x.failed ++ [l] }).endLevel (64 * (d % 8) + k) l) h) h
      else h
    done s (h.kickEnter 3 d (if d < 24 then 2 ^ (d % 8) else 0))

/-! ## The power cap (R428 to R430) -/

/-- LIM_PWR one gear down, counted. -/
def Hw.pwrDown (h : Hw) : Hw :=
  ((h.modMode fun m => { m with capDown := some h.time, capChange := some h.time, capBelow := 0 }).count TEL_MOD.PWR_DN 1).put PWR_GEAR.LIM_PWR
    (min 4 (h.get PWR_GEAR.LIM_PWR + 1))

/-- Whether `n` ticks have passed since a noted time. -/
def Hw.since (h : Hw) (t : Option Nat) (n : Nat) : Bool :=
  match t with
  | some x => decide (h.time - x ≥ n)
  | none => true

/-- POWER_SAMPLE_FAST (R429): a 50 µs average. -/
def execPowerSampleFast (w : BitVec 10) (s : State) : Host.Outcome State Fault Refusal :=
  let h := s.hw
  if w.toNat * 10 > 11 * h.mode.cap ∧ h.powered ∧ h.since h.mode.capDown 20000 ∧ h.get PWR_GEAR.LIM_PWR < 4 then done s h.pwrDown else done s h

/-- The 1 ms average judged (R429, R430). -/
def Hw.capRule (h : Hw) (w : Nat) : Hw :=
  let cap := h.mode.cap
  if w > cap then
    if h.get PWR_GEAR.LIM_PWR < 4 then h.pwrDown
    else
      let h := (h.modMode fun m => { m with capBelow := 0 }).mark PWR_CAP.CAP_UNMET
      if h.since h.mode.unmetAt 100000000 then (h.modMode fun m => { m with unmetAt := some h.time }).ev 0x802 1 0 0 w (h.get PWR_CAP.CAP_W) else h
  else if w * 100 ≤ 85 * cap then
    let n := h.mode.capBelow + 1
    if n ≥ 10 ∧ h.get PWR_GEAR.LIM_PWR > 0 ∧ h.since h.mode.capChange 1000000 then
      (h.modMode fun m => { m with capBelow := 0, capChange := some h.time }).put PWR_GEAR.LIM_PWR (h.get PWR_GEAR.LIM_PWR - 1)
    else h.modMode fun m => { m with capBelow := n }
  else h.modMode fun m => { m with capBelow := 0 }

/-- POWER_SAMPLE_SLOW (R428, R429): a 1 ms average with the voltage and domain channels; the cap written last takes effect. -/
def execPowerSampleSlow (w vin : BitVec 10) (doms : List (BitVec 10)) (s : State) : Host.Outcome State Fault Refusal :=
  let h := s.hw
  if doms.length ≠ 30 then .fault .malformed
  else if ¬ h.powered then done s h
  else
    let h := foldUp 30 (fun n h => h.put (PWR_DOM.POWER n) (doms.getD n 0).toNat) (h.modMode fun m => { m with cap := h.get PWR_CAP.CAP_W })
    done s ((h.capRule w.toNat).puts [(PWR_MEAS.POWER_W, w.toNat), (PWR_MEAS.VIN, vin.toNat)])

/-- CAP_WRITE (R428): 300 W to 650 W, values outside stored as the nearest bound. -/
def execCapWrite (v : BitVec 10) (s : State) : Host.Outcome State Fault Refusal :=
  done s (s.hw.put PWR_CAP.CAP_W (max 300 (min 650 v.toNat)))

/-! ## Sensors (R440 to R448) -/

/-- The die of a sensor; none for the inlet (R440). -/
def sensorDie (n : Nat) : Option Nat :=
  if n < 72 then some (48 + n / 9)
  else if n < 168 then some ((n - 72) / 2)
  else if n < 176 then some (56 + (n - 168) / 4)
  else if n < 188 then some (58 + (n - 176) / 3)
  else if n < 190 then some 62
  else if n < 192 then some 63
  else none

/-- The sensors of a die. -/
def dieSensors (d : Nat) : List Nat := (List.range 192).filter fun n => sensorDie n == some d

/-- Threshold `k` of a die (0 WARN, 1 BRAKE, 2 HEAVY, 3 TRIP) in 1/16 °C (R444). -/
def threshold (d k : Nat) : Int :=
  let t : List Int := if d < 48 then [85, 90, 95, 105] else [95, 100, 105, 115]
  16 * t.getD k 0

/-- A sensor's last sample. -/
def Hw.temp (h : Hw) (n : Nat) : Int := signed 13 (h.get (THM_SENS.TEMP n))

def Hw.engaged (h : Hw) (d k : Nat) : Bool := bitAt (tget (fun _ => 0) h.therm.engaged d) k

def Hw.setEngaged (h : Hw) (d k : Nat) (v : Bool) : Hw :=
  let old := tget (fun _ => 0) h.therm.engaged d
  let new := if v then old ||| 2 ^ k else old - (if bitAt old k then 2 ^ k else 0)
  h.modTherm fun t => { t with engaged := tset (fun _ => 0) t.engaged d new }

/-- A die's sensors that have not failed. -/
def Hw.goodSensors (h : Hw) (d : Nat) : List Nat := (dieSensors d).filter fun n => !h.flag (THM_SENS.FAILED n)

/-- A die's level: its highest engaged threshold; HEAVY where every sensor has failed (R442, R445). -/
def Hw.dieLevel (h : Hw) (d : Nat) : Nat :=
  if (h.goodSensors d).isEmpty ∨ h.engaged d 2 ∨ h.engaged d 3 then 3 else if h.engaged d 1 then 2 else if h.engaged d 0 then 1 else 0

/-- The registers of a die, from its sensors and thresholds. -/
def Hw.dieShow (h : Hw) (d : Nat) : Hw :=
  let l := h.goodSensors d
  let top : Option Int := l.foldl (fun m n => match m with
    | none => some (h.temp n)
    | some a => some (max a (h.temp n))) none
  h.puts [(THM_DIE.MAX_T d, match top with
      | some a => unsigned 13 a
      | none => h.get (THM_DIE.MAX_T d)),
    (THM_DIE.LEVEL d, h.dieLevel d), (THM_DIE.HOTREF d, if d < 48 then bnat (bitAt (h.get THM_HOTREF.HOT) d) else 0),
    (THM_DIE.FAST d, bnat ((dieSensors d).any fun n => h.flag (THM_SENS.FAST n)))]

/-- The package level (R445). -/
def Hw.levelShow (h : Hw) : Hw := h.put THM_STAT.LEVEL ((List.range 64).foldl (fun m d => max m (h.get (THM_DIE.LEVEL d))) 0)

/-- The hot refresh state of an array die (R443). -/
def Hw.setHot (h : Hw) (d : Nat) (v : Bool) : Hw :=
  let flip := fun (l : Loc) (i : Nat) (h : Hw) =>
    let old := h.get l
    if bitAt old i = v then h else h.put l (if v then old + 2 ^ i else old - 2 ^ i)
  (flip (TMC_REFSTAT.HOT (d / 6)) (d % 6) (flip THM_HOTREF.HOT d h)).put (THM_DIE.HOTREF d) (bnat v)

/-- A die becomes hot; a running cool-only image, also one that a snapshot holds, stops at the next boundary (R327). -/
def Hw.enterHot (h : Hw) (d : Nat) : Hw :=
  if bitAt (h.get THM_HOTREF.HOT) d then h
  else
    let h := h.setHot d true
    if (h.get IMG_STAT.STATE = 3 ∨ h.get IMG_STAT.STATE = 5) ∧ h.get IMG_STAT.TCLASS = 1 ∧ ¬ h.img.hotStop then
      ((h.modImg fun x => { x with hotStop := true }).ev 0x502 1 7 d 0 (h.get IMG_LAP.LAP)).put IMG_STAT.PEND_STOP 1 |>.mark IMG_STAT.HOT_STOP
    else h

/-- TEMP argument of an event: sensor and sample. -/
def tempArg (n t : Nat) : Nat := n + t * 2 ^ 16

/-- LIM_THERM to at least gear `g`, counted as a downshift. -/
def Hw.thermDown (h : Hw) (g : Nat) : Hw :=
  (h.count TEL_MOD.THERM_DN 1).put PWR_GEAR.LIM_THERM (max (h.get PWR_GEAR.LIM_THERM) (min 4 g))

/-- A threshold of a die engages by a sensor's sample (R446). TRIP is the caller's. -/
def Hw.engage (h : Hw) (d k n t : Nat) : Hw :=
  let h := h.setEngaged d k true
  if k = 0 then (h.ev 0x811 1 7 d (tempArg n t) 0).mark THM_STAT.WARN_EV
  else if k = 1 then
    let h := (h.thermDown (h.get PWR_GEAR.GEAR + 1)).modTherm fun x => { x with brakeBy := tset (fun _ => 0) x.brakeBy d (n + 1) }
    (h.ev 0x812 1 7 d (tempArg n t) (h.get PWR_GEAR.LIM_THERM)).mark THM_STAT.BRAKE_EV
  else if k = 2 then ((h.thermDown 4).ev 0x813 2 7 d (tempArg n t) 0).mark THM_STAT.HEAVY_EV
  else h

/-- The columns of a tower whose sensors have moved by 4 °C since their last feed zone (R83). -/
def Hw.earlyZones (h : Hw) (t : Nat) : Hw :=
  foldUp 64 (fun k h =>
    let c := 64 * t + k
    let old := (h.col c).temps
    let l := colSensors c
    if ¬ old.isEmpty ∧ (List.range l.length).any fun i => decide ((h.temp (l.getD i 0) - signed 13 (old.getD i 0)).natAbs ≥ 64) then
      (h.modCol c fun s => { s with due := true }).put (FZ_COL_A.INTERVAL c) 1
    else h) h

/-- A sensor marked failed (R442); a die with none left is taken to be at HEAVY, an array die with none left is hot. -/
def Hw.sensorFail (h : Hw) (n t : Nat) : Hw :=
  let h := (h.puts [(THM_SENS.FAST n, 0), (THM_SENS.FAILED n, 1)]).ev 0x816 1 8 n (tempArg n t) 0
  match sensorDie n with
  | none => h
  | some d =>
    if ¬ (h.goodSensors d).isEmpty then h
    else
      let h := if d < 48 then h.enterHot d else h
      if h.engaged d 2 then h else h.engage d 2 n t

/-- The sample before, in the round that the sensor is in (R445): in the fast round its last one there, if any. -/
def Hw.prevSample (h : Hw) (n : Nat) : Int :=
  if h.flag (THM_SENS.FAST n) then ((tget (fun _ => []) h.therm.fast n)[0]?).getD (h.temp n) else h.temp n

/-- One sample of a sensor: the thresholds it engages, the hot state, the fast round. The TRIP it engages, if any: sensor and sample. A sample of the
slow round of a sensor that is in the fast round (`apart`) counts towards no threshold (R445). -/
def Hw.sensorSample (h : Hw) (n t : Nat) (apart : Bool) : Hw × Option (Nat × Nat) :=
  let x := signed 13 t
  if h.flag (THM_SENS.FAILED n) then (h, none)
  else if x < -640 ∨ x > 2400 then (h.sensorFail n t, none)
  else
    let prev := h.prevSample n
    let h := h.put (THM_SENS.TEMP n) t
    match sensorDie n with
    | none =>
      if x > 640 ∧ h.since h.therm.inletAt 6000000000 then ((h.modTherm fun y => { y with inletAt := some h.time }).ev 0x815 1 8 n (tempArg n t) 0, none) else (h, none)
    | some d =>
      let h := if d < 48 ∧ x ≥ 1328 then h.enterHot d else h
      let h := if x ≥ threshold d 1 - 80 then h.put (THM_SENS.FAST n) 1 else h
      let hits := fun (k : Nat) => !apart && decide (prev ≥ threshold d k) && decide (x ≥ threshold d k)
      let h := foldUp 3 (fun k h => if hits k && !h.engaged d k then h.engage d k n t else h) h
      if hits 3 ∧ ¬ h.engaged d 3 then (h.setEngaged d 3 true, some (n, t)) else (h, none)

/-- Samples in order, those of `apart` without thresholds, then the registers; a TRIP starts the power-off sequence with cause thermal. -/
def Hw.round (h : Hw) (l : List (Nat × Nat)) (apart : List Nat) (after : Hw → Hw) : Hw :=
  let (h, trip) := l.foldl (fun (x : Hw × Option (Nat × Nat)) y =>
    let (h, t) := x.1.sensorSample y.1 y.2 (apart.contains y.1)
    (h, match x.2 with
      | some a => some a
      | none => t)) ((h, none) : Hw × Option (Nat × Nat))
  match trip with
  | some (n, t) => h.powerOff 1 n (some t)
  | none => after ((foldUp 64 (fun d h => h.dieShow d) h).levelShow)

/-- SENSOR_SLOW_ROUND: a sample of every sensor; the thresholds of those in the fast round count there. -/
def execSensorSlowRound (samples : List (BitVec 13)) (s : State) : Host.Outcome State Fault Refusal :=
  let h := s.hw
  if samples.length ≠ 193 then .fault .malformed
  else if ¬ h.powered then done s h
  else
    let val := fun (n : Nat) => (samples.getD n 0).toNat
    done s (h.round ((List.range 193).map fun n => (n, val n)) ((List.range 193).filter fun n => h.flag (THM_SENS.FAST n)) fun h =>
      let good := (List.range 192).filter fun n => !h.flag (THM_SENS.FAILED n)
      let best : Option Nat := good.foldl (fun m n => match m with
        | none => some n
        | some a => if signed 13 (val a) < signed 13 (val n) then some n else some a) none
      let h := match best with
        | some n => h.puts [(THM_STAT.MAX_T, val n), (THM_STAT.MAX_SENS, n)]
        | none => h
      foldUp 8 (fun t h => h.earlyZones t) h)

/-- A fast sample noted, and the rate downshift it may cause (R447). -/
def Hw.rateRule (h : Hw) (n t : Nat) : Hw :=
  let l := (signed 13 t :: tget (fun _ => []) h.therm.fast n).take 5
  let h := h.modTherm fun x => { x with fast := tset (fun _ => []) x.fast n l }
  let at' := fun (i : Nat) => l.getD i 0
  if l.length = 5 ∧ (List.range 4).all (fun i => decide (at' i > at' (i + 1))) ∧ (at' 0 - at' 4) * 10 > 64 ∧ h.since h.therm.rateAt 100000 then
    (((h.thermDown (h.get PWR_GEAR.GEAR + 1)).modTherm fun x => { x with rateAt := some h.time }).ev 0x814 1 8 n (tempArg n t) (at' 0 - at' 4).toNat).mark
      THM_STAT.RATE_EV
  else h

/-- SENSOR_FAST_ROUND: samples of sensors in the fast round. -/
def execSensorFastRound (samples : List (Nat × BitVec 13)) (s : State) : Host.Outcome State Fault Refusal :=
  let h := s.hw
  if samples.any fun x => decide (x.1 ≥ 192) then .fault .malformed
  else if ¬ h.powered then done s h
  else
    let l := (samples.filter fun x => h.flag (THM_SENS.FAST x.1)).map fun x => (x.1, x.2.toNat)
    done s (h.round l [] fun h => l.foldl (fun h x => if h.flag (THM_SENS.FAST x.1) then h.rateRule x.1 x.2 else h) h)

/-- FAST_ROUND_EXIT (R441): 10 ms more than 7 °C below BRAKE. -/
def execFastRoundExit (sensor : Fin 193) (s : State) : Host.Outcome State Fault Refusal :=
  let h := s.hw
  match sensorDie sensor with
  | none => done s h
  | some d =>
    if ¬ h.flag (THM_SENS.FAST sensor) ∨ h.temp sensor ≥ threshold d 1 - 112 then done s h
    else done s (((h.modTherm fun x => { x with fast := tset (fun _ => []) x.fast sensor [] }).put (THM_SENS.FAST sensor) 0).dieShow d)

/-- HOT_REFRESH_EXIT (R443): 10 ms with every sample of both sensors below 81 °C. -/
def execHotRefreshExit (die : Fin 48) (s : State) : Host.Outcome State Fault Refusal :=
  let h := s.hw
  let l := h.goodSensors die
  if l.isEmpty ∨ l.any (fun n => decide (h.temp n ≥ 1296)) then done s h else done s (h.setHot die false)

/-- THRESHOLD_RELEASE (R445): 10 ms with every sample at or below the threshold minus 3 °C. -/
def execThresholdRelease (die : Fin 64) (thr : Fin 3) (s : State) : Host.Outcome State Fault Refusal :=
  let h := s.hw
  let l := h.goodSensors die
  if l.isEmpty ∨ l.any (fun n => decide (h.temp n > threshold die thr - 48)) then done s h
  else done s (((h.setEngaged die thr false).dieShow die).levelShow)

/-- The lowest die whose BRAKE sensor stays at or above BRAKE. -/
def Hw.brakeDie (h : Hw) : Option (Nat × Nat) :=
  (List.range 64).findSome? fun d =>
    let n := tget (fun _ => 0) h.therm.brakeBy d
    if h.engaged d 1 ∧ n > 0 ∧ h.temp (n - 1) ≥ threshold d 1 then some (d, n - 1) else none

/-- BRAKE_DWELL (R446): a further full millisecond at BRAKE. -/
def execBrakeDwell (s : State) : Host.Outcome State Fault Refusal :=
  let h := s.hw
  match h.brakeDie with
  | none => done s h
  | some (d, n) =>
    let h := h.thermDown (h.get PWR_GEAR.LIM_THERM + 1)
    done s (h.ev 0x812 1 7 d (tempArg n (h.get (THM_SENS.TEMP n))) (h.get PWR_GEAR.LIM_THERM))

/-- HEAVY_DWELL (R446): HEAVY has stayed engaged for 100 ms at G4; kickstand with cause thermal. -/
def execHeavyDwell (s : State) : Host.Outcome State Fault Refusal :=
  let h := s.hw
  if h.get PWR_GEAR.GEAR = 4 ∧ h.powered ∧ (List.range 64).any (fun d => h.engaged d 2) then done s (h.kickEnter 2 0xFF 0) else done s h

/-- LIM_THERM_RISE (R448): 10 ms without a die at BRAKE or above and without a rate downshift. -/
def execLimThermRise (s : State) : Host.Outcome State Fault Refusal :=
  let h := s.hw
  if (List.range 64).any (fun d => decide (h.dieLevel d ≥ 2)) ∨ ¬ h.since h.therm.rateAt 1000000 then done s h
  else done s (h.put PWR_GEAR.LIM_THERM (h.get PWR_GEAR.LIM_THERM - 1))

end Sys2Proof.Machine
end

