-- ==== Sys2Proof/Machine/Commands.lean ====
section
/-!
DEFINITION. Host commands on memory and on the module as a whole (R389 to R392, R467 to R469): FILL, SCRUB_REGION, QUERY, KICKSTAND.
-/
namespace Sys2Proof.Machine

/-! ## Ranges -/

/-- Column and word of each 32 bytes of a range that the map admits, in order. -/
def Hw.rangeWords (h : Hw) (d n : Nat) : List (Nat × Nat) :=
  (List.range (n / 32)).filterMap fun i => (h.placeOf (d + 32 * i)).map fun x => (x.1, x.2 / 32)

/-- Argument checks of FILL and SCRUB_REGION: 64-byte aligned address, whole lines. -/
def rangeArgs (e : BitVec 512) : Option Nat := if sqArg e 0 % 64 ≠ 0 then some 0 else if sqArg e 1 % 64 ≠ 0 then some 1 else none

/-- The 8-byte pattern four times. -/
def patternWord (p : Nat) : Word := BitVec.ofNat 256 (p * (1 + 2 ^ 64 + 2 ^ 128 + 2 ^ 192))

/-- The words of a fill written in order; the first one on a failed level stops it (R73). -/
def Hw.fillWords (h : Hw) (d n : Nat) (v : Word) (req : Nat) : Hw × Option Nat :=
  foldUp (n / 32) (fun i (x : Hw × Option Nat) =>
    match x.2, x.1.placeOf (d + 32 * i) with
    | none, some (c, o) =>
      if (x.1.col c).failed.contains (wordLevel (o / 32)) then (x.1, some (d + 32 * i))
      else (x.1.fwrite c (o / 32) v 0xFFFFFFFF#32 false .upkeep req, none)
    | r, _ => (x.1, r)) (h, none)

/-- FILL (R390): the whole range is checked against the map before any byte is written. -/
def execFill (w : Fin 16) (s : State) : Host.Outcome State Fault Refusal :=
  done s (s.hw.commandOn w (fun e => sqOp e == 8) true (fun e => (sqArg e 0, sqArg e 0 + sqArg e 1, true)) fun e h =>
    match rangeArgs e with
    | some a => h.complete w e 0x02 a
    | none =>
      match h.mapFault (sqArg e 0) (sqArg e 1) .hw with
      | some (a, r) => (h.mapEvent r a (reqArg 1 w 0)).complete w e 0x03 a
      | none =>
        let r := h.unclean.fillWords (sqArg e 0) (sqArg e 1) (patternWord (sqArg e 2)) (reqArg 1 w 0)
        match r.2 with
        | some a => r.1.complete w e 0x04 a
        | none => r.1.complete w e 0 0)

/-- A row of a scrubbed range under the patrol's checks (R111): words of `ws` in it that were corrected or are poisoned add to the counts. -/
def Hw.scrubRange (h : Hw) (c n : Nat) (ws : List Nat) (x : Nat × Nat) : Hw × Nat × Nat :=
  let h := foldUp 32 (fun i h => h.settle c (n * 32 + i)) h
  let h := h.closeRow c (n % 6)
  let before := (List.range 32).map fun i => h.readWord c (n * 32 + i) 0
  let plan := (h.scrubPlan c n before).map (·.1)
  let h := h.scrubData c n before
  let after := fun (w : Nat) => (h.readWord c w 0).1
  let was := fun (w : Nat) => (before.getD (w % 32) (.clean, 0)).1
  let lost := ws.filter fun w => after w == .poison
  let fixed := ws.filter fun w => (was w != .clean || plan.contains (w % 32)) && was w != .poison && after w != .poison
  (h, x.1 + fixed.length, x.2 + lost.length)

/-- The rows of a range, in order. -/
def Hw.rangeRows (h : Hw) (d n : Nat) : List (Nat × Nat) := ((h.rangeWords d n).map fun x => (x.1, x.2 / 32)).eraseDups

/-- Whether a scrub of rows would rewrite a line the host may hold. -/
def Hw.scrubClaim (h : Hw) (rows : List (Nat × Nat)) : Option Hw :=
  rows.findSome? fun x => (h.scrubPlan x.1 x.2 (h.rowWords x.1 x.2)).findSome? fun y =>
    (h.dpaOf x.1 ((x.2 * 32 + y.1) * 32)).bind fun d => h.claim d (d + 32) true

/-- SCRUB_REGION (R390): DETAIL counts corrected and poisoned words. -/
def Hw.scrubRegion (h : Hw) (w : Nat) (e : BitVec 512) : Hw :=
  match rangeArgs e with
  | some a => h.complete w e 0x02 a
  | none =>
    match h.mapFault (sqArg e 0) (sqArg e 1) .hr with
    | some (a, r) => (h.mapEvent r a (reqArg 1 w 0)).complete w e 0x03 a
    | none =>
      let words := h.rangeWords (sqArg e 0) (sqArg e 1)
      let rows := h.rangeRows (sqArg e 0) (sqArg e 1)
      match rows.find? fun x => (h.col x.1).failed.contains (x.2 % 6) with
      | some x => h.complete w e 0x04 ((h.dpaOf x.1 (x.2 * 1024)).getD (sqArg e 0))
      | none =>
        let r := rows.foldl (fun (y : Hw × Nat × Nat) x =>
          y.1.scrubRange x.1 x.2 ((words.filter fun z => z.1 == x.1 && z.2 / 32 == x.2).map (·.2)) y.2) (h, 0, 0)
        r.1.complete w e 0 (min 65535 r.2.1 + min 65535 r.2.2 * 2 ^ 16)

/-- SCRUB_REGION. -/
def execScrubRegion (w : Fin 16) (s : State) : Host.Outcome State Fault Refusal :=
  let h := s.hw
  match h.front w (fun e => sqOp e == 0x0C) with
  | none => done s h
  | some e =>
    match (if rangeArgs e = none then h.scrubClaim (h.rangeRows (sqArg e 0) (sqArg e 1)) else none) with
    | some h => done s h
    | none => done s (h.command w (fun e => sqOp e == 0x0C) true fun e h => h.scrubRegion w e)

/-! ## QUERY (R391) -/

/-- A QUERY item. -/
def Hw.query (h : Hw) (w item : Nat) (f : Hw → Nat) : Hw :=
  h.command w (fun e => sqOp e == 0x13 && sqArg e 0 == item) true fun e h => h.complete w e 0 (f h)

/-- QUERY_CAPACITY: host-visible capacity in 256 MiB units (R35). -/
def execQueryCapacity (w : Fin 16) (s : State) : Host.Outcome State Fault Refusal := done s (s.hw.query w 0 fun h => h.rsvLo / 2 ^ 28)

/-- QUERY_IMAGE_STATE. -/
def execQueryImageState (w : Fin 16) (s : State) : Host.Outcome State Fault Refusal :=
  done s (s.hw.query w 1 fun h => h.get IMG_STAT.STATE + h.get IMG_STAT.SNAP_VALID * 8)

/-- QUERY_NODE. -/
def execQueryNode (w : Fin 16) (s : State) : Host.Outcome State Fault Refusal :=
  done s (s.hw.query w 2 fun h => h.node + bnat h.hasCoord * 2 ^ 31)

/-- QUERY_GEAR: the gear in force, and the lower of TOP_GEAR and the host's cap (R326). -/
def execQueryGear (w : Fin 16) (s : State) : Host.Outcome State Fault Refusal :=
  done s (s.hw.query w 3 fun h => h.gearInForce + max (h.get PWR_GEAR.LIM_IMG) (h.get PWR_GEAR.LIM_HOST) * 16)

/-- QUERY_RESERVE. -/
def execQueryReserve (w : Fin 16) (s : State) : Host.Outcome State Fault Refusal :=
  done s (s.hw.query w 4 fun h => h.get MAP_RESERVE.RSV_NOW + h.get MAP_RESERVE.RSV_NEXT * 2 ^ 8)

/-! ## KICKSTAND (R467 to R470) -/

/-- KICKSTAND_ENTER: ARG0 0. In kickstand it changes nothing; an ARG0 above 1 is out of range. -/
def execKickstandEnter (w : Fin 16) (s : State) : Host.Outcome State Fault Refusal :=
  done s (s.hw.command w (fun e => sqOp e == 0x11 && sqArg e 0 != 1) true fun e h =>
    if sqArg e 0 ≠ 0 then h.complete w e 0x02 0
    else if h.kick then h.complete w e 0 0
    else (h.kickEnter 1 0xFF 0).complete w e 0 0)

/-- Kickstand is left: normal service, the record and its copy cleared, KICK_LEAVE logged. -/
def Hw.kickLeave (h : Hw) : Hw :=
  let h := foldUp 8 (fun t h => h.put (TMC_CTRL.OPEN t) (h.get (TMC_CTRL.TEST_OPEN t))) h
  let h := { h with sram := Memory.writeBytes h.sram kickAddr (List.replicate 128 0) }
  ((h.modMode fun m => { m with kick := [] }).ev 0x902 0 0 0 0 0).puts
    [(KICK_STAT.CAUSE, 0), (KICK_STAT.FAILED, 0), (KICK_STAT.DOMAIN, 0xFF), (KICK_STAT.KICK, 0)]

/-- KICKSTAND_LEAVE (R469): ARG0 1. `selfTest` are the towers whose compute units fail the self-test; then the module stays in kickstand with
CAUSE 3, and the command completes as for that cause. -/
def execKickstandLeave (w : Fin 16) (selfTest : BitVec 8) (s : State) : Host.Outcome State Fault Refusal :=
  done s (s.hw.command w (fun e => sqOp e == 0x11 && sqArg e 0 == 1) true fun e h =>
    if ¬ h.kick then h.complete w e 0 0
    else if h.get KICK_STAT.CAUSE = 3 then h.complete w e 0x60 0
    else if h.get KICK_STAT.CAUSE = 2 ∧ h.get THM_STAT.LEVEL ≥ 2 then h.complete w e 0x61 0
    else if selfTest ≠ 0 then (h.tcOff.kickEnter 3 0xFF selfTest.toNat).complete w e 0x60 0
    else h.tcOn.kickLeave.complete w e 0 0)

end Sys2Proof.Machine
end

