-- ==== Sys2Proof/Machine/Link.lean ====
section
/-!
DEFINITION. Ports and links (R340 to R345, R358, R369 to R374, R466), flits on their way through this module, and chain enumeration (R350 to
R353, R521).
-/
namespace Sys2Proof.Machine

/-! ## Ports -/

/-- Lanes a port can run on: any four or three, {0, 1} or {2, 3}; 0 where none (R344). -/
def legalLanes (m : Nat) : Nat :=
  if (List.range 4).foldl (fun a i => a + bnat (bitAt m i)) 0 ≥ 3 then m % 16 else if m % 4 = 3 then 3 else if m / 4 % 4 = 3 then 12 else 0

/-- A port leaves service with a new STATE: its keys end, and flits held for a tag, or for the root PLL, will be replayed. -/
def Hw.portIdle (h : Hw) (p state : Nat) : Hw :=
  ((h.modPort p fun s => { s with auth := false, rx := [], rxFail := 0, grp := 0, open' := [] }).modFab fun f =>
    { f with arrived := f.arrived.filter (·.1 != p) }).puts
    [(FAB_PSTAT.ENC p, 0), (FAB_PSTAT.LANES p, 0), (FAB_PSTAT.NVALID p, 0), (FAB_PSTAT.STATE p, state)]

/-- A port goes down (R345): 0 lanes, 1 retrain failed, 2 authentication, 3 neighbour silent. -/
def Hw.portDown (h : Hw) (p why state : Nat) : Hw :=
  (((h.portIdle p state).count (FAB_PERR.DOWNS p) 1).ev 0x602 2 5 p why 0).fmNotice

/-- Whether a port may train: ports exist, it is enabled, its cage has power and this module has its identity (R2, R409). -/
def Hw.portMay (h : Hw) (p : Nat) : Bool :=
  !h.fuses.variantS && h.flag (FAB_PCTRL.ENABLE p) && !(h.port p).cageOff && !h.flag TRU_STAT.ID_FAULT

/-- Training begins, on all four lanes again where `full` (R344); a module without its identity holds its ports at STATE 6 (R409), and one of variant S
has none (R2). -/
def Hw.portTrain (h : Hw) (p : Nat) (full : Bool) : Hw :=
  if h.portMay p then (if full then (h.portIdle p 1).modPort p fun s => { s with lanesOut := 0 } else h.portIdle p 1)
  else if h.flag TRU_STAT.ID_FAULT ∧ ¬ h.fuses.variantS then h.put (FAB_PSTAT.STATE p) 6
  else h

/-- The open group closed: one LINK flit carries its tag (R370). -/
def Hw.groupClose (h : Hw) (p : Nat) : Hw :=
  let s := h.port p
  if s.open'.isEmpty then h
  else (h.send (.link p 0 (Config.gcmTag s.txKey s.nonce s.plain))).modPort p fun s => { s with grp := 0, open' := [] }

/-- A flit of the retry buffer sent again under a new key: it is counted and takes its place in a group (R370). -/
def Hw.resend (h : Hw) (p : Nat) (f : Flit) : Hw :=
  let h := h.send (.flit p f)
  if ¬ h.flag (FAB_PSTAT.ENC p) then h
  else
    let h := h.modPort p fun s => s.enclose f
    if (h.port p).grp ≥ 16 then h.groupClose p else h

/-- Retry-buffer flits from place `i` on sent again (R343). -/
def Hw.replay (h : Hw) (p i : Nat) : Hw :=
  let l := (h.port p).retry.drop i
  if l.isEmpty then h else (l.foldl (fun h x => h.send (.flit p x.2)) h).count (FAB_PERR.RETRY p) 1

/-- FEC mode of a training (R342). -/
def Hw.fecMode (h : Hw) (p : Nat) (r : TrainResult) : Nat := max r.reach.val (max (h.get (FAB_PCTRL.FEC_MIN p)) r.fecPeer.val)

/-- Training or retraining ends (R342, R344). -/
def Hw.trained (h : Hw) (p : Nat) (r : TrainResult) : Hw :=
  if h.get (FAB_PSTAT.STATE p) ≠ 1 then h
  else if r.reach.val = 3 then h.portIdle p 5
  else
    let out := (h.port p).lanesOut
    let lanes := legalLanes (r.lanes.toNat - (r.lanes.toNat &&& out))
    if ¬ r.ok then h.portDown p 1 4
    else if lanes = 0 then h.portDown p 0 4
    else
      let lost := bnat (decide (lanes ≠ 15) && decide (lanes ≠ legalLanes (15 - out)))
      let h := h.modPort p fun s => { s with lanesOut := 15 - lanes }
      let h := if lost = 1 then (h.count (FAB_PERR.DEGRADES p) 1).ev 0x601 1 5 p lanes 0 else h
      let h := h.puts [(FAB_PSTAT.FEC p, h.fecMode p r), (FAB_PSTAT.LANES p, lanes)]
      if (h.port p).auth then ((h.put (FAB_PSTAT.STATE p) 3).replay p 0).pump p
      else (h.put (FAB_PSTAT.STATE p) 2).send (.link p 3 subjectId)

/-- PORT_TRAINING_DONE. -/
def execPortTrainingDone (p : Fin 8) (res : TrainResult) (s : State) : Host.Outcome State Fault Refusal := done s (s.hw.trained p res)

/-- A degrade of one lane (R344). -/
def Hw.degrade (h : Hw) (p lane : Nat) : Hw :=
  if ¬ h.portUp p ∨ ¬ bitAt (h.get (FAB_PSTAT.LANES p)) lane then h
  else
    let lanes := legalLanes (h.get (FAB_PSTAT.LANES p) - 2 ^ lane)
    if lanes = 0 then h.portDown p 0 4
    else
      let h := (h.count (FAB_PERR.DEGRADES p) 1).ev 0x601 1 5 p lanes 0
      (h.modPort p fun s => { s with lanesOut := 15 - lanes }).puts [(FAB_PSTAT.LANES p, lanes), (FAB_PSTAT.STATE p, 1)]

/-- LANE_LOCK_LOSS. -/
def execLaneLockLoss (p : Fin 8) (lane : Fin 4) (s : State) : Host.Outcome State Fault Refusal := done s (s.hw.degrade p lane)

/-- FEC_ERROR_RATE. -/
def execFecErrorRate (p : Fin 8) (lane : Fin 4) (s : State) : Host.Outcome State Fault Refusal := done s (s.hw.degrade p lane)

/-- NEIGHBOR_SILENT (R345): of a port that is up or authenticates. -/
def execNeighborSilent (p : Fin 8) (s : State) : Host.Outcome State Fault Refusal :=
  done s (if s.hw.portUp p ∨ s.hw.get (FAB_PSTAT.STATE p) = 2 then s.hw.portDown p 3 4 else s.hw)

/-- PORT_RETRY_TIMER (R345). -/
def execPortRetryTimer (p : Fin 8) (s : State) : Host.Outcome State Fault Refusal :=
  done s (if s.hw.get (FAB_PSTAT.STATE p) = 4 ∨ s.hw.get (FAB_PSTAT.STATE p) = 6 then s.hw.portTrain p false else s.hw)

/-- PORT_ENABLE_WRITE (R466): 0 holds the port down; 1 after 0 resets and retrains it. -/
def execPortEnableWrite (p : Fin 8) (v : Bool) (s : State) : Host.Outcome State Fault Refusal :=
  done s (s.hw.atPll true (.portEnable p v) fun h =>
    if h.fuses.variantS then h
    else if v then (if h.flag (FAB_PCTRL.ENABLE p) then h else (h.put (FAB_PCTRL.ENABLE p) 1).portTrain p true)
    else (h.portIdle p 0).put (FAB_PCTRL.ENABLE p) 0)

/-- RETRAIN (R466). -/
def execRetrain (p : Fin 8) (s : State) : Host.Outcome State Fault Refusal := done s (s.hw.atPll true (.retrain p) fun h => h.portTrain p true)

/-- CAGE_MODULE_CHANGE (R519): the port goes down; a module that is inserted ends an overcurrent's power cut and trains. -/
def execCageModuleChange (p : Fin 8) (inserted : Bool) (s : State) : Host.Outcome State Fault Refusal :=
  let h := s.hw
  if h.fuses.variantS then done s h
  else
    let h := h.modPort p fun x => { x with cageOff := x.cageOff && !inserted }
    let h := if h.portUp p then h.portDown p 0 4 else h
    done s (if inserted then h.portTrain p false else h)

/-- CAGE_OVERCURRENT (R519). -/
def execCageOvercurrent (p : Fin 8) (s : State) : Host.Outcome State Fault Refusal :=
  let h := s.hw
  if h.fuses.variantS then done s h
  else
    let h := if h.portUp p then h.portDown p 0 5 else h
    done s ((h.portIdle p 5).modPort p fun x => { x with cageOff := true })

/-! ## Handshake, tags, keys (R369 to R371) -/

/-- An answer with RESP status to a flit's source, over the port it came by where this module cannot route (R353, R373). -/
def Hw.answer (h : Hw) (p : Nat) (f : Flit) (status : Nat) : Hw :=
  let r := mkFlit 7 (Flit.src f) h.node status 0 (Flit.txid f) (Flit.core f) 0 0 0 0
  if p < 8 ∧ (h.nextDir (Flit.src f)).isNone then h.toPort p 2 r else h.sendFlit r

/-- A port authenticated (R369, R466): the side of the lower KEY_ID has encapsulated, and each direction has its key. What the neighbour has delivered
leaves the retry buffer, and the rest is replayed under new numbers and the new key; another neighbour's flits are discarded, each request answered
with 0x22. -/
def Hw.authDone (h : Hw) (p : Nat) (x : LinkPeer) : Hw :=
  let s := h.port p
  let same := s.peer == some x.keyId.toNat
  let l := (s.retry.filter fun y => decide ((y.1 + 4096 - x.last.toNat - 1) % 4096 < 2048)).map (·.2)
  let left := if same then l else []
  let enc := !(bitAt (h.get TRU_STAT.POLICY) 0)
  let lower := decide (subjectId < x.keyId.toNat)
  let key := fun (d : Bool) => Config.linkKey subjectId x.keyId.toNat (s.keys + 1) (bnat d)
  let h := h.send (.link p (if lower then 5 else 4) (s.keys + 1))
  let h := h.modPort p fun y =>
    { y with retry := [], peer := some x.keyId.toNat, auth := true, keys := y.keys + 1, sent := 0, grp := 0, open' := [], encap := lower,
             txKey := key !lower, rxKey := key lower, used := if same then y.used else [] }
  let h := h.puts [(FAB_PSTAT.ENC p, bnat enc), (FAB_PSTAT.NEIGHBOR p, x.node.toNat), (FAB_PSTAT.NVALID p, bnat x.nodeValid), (FAB_PSTAT.STATE p, 3)]
  let h := h.send (.link p 1 s.got)
  let h := if left.isEmpty then h else h.count (FAB_PERR.RETRY p) 1
  let h := left.foldl (fun h f =>
    let y := h.port p
    let f' := y.stamp y.seq enc f
    (h.modPort p fun y => { y with retry := y.retry ++ [(y.seq, f')], seq := (y.seq + 1) % 4096 }).resend p f') h
  let h := if same then h else (s.retry.filter fun y => requestType (Flit.type y.2)).foldl (fun h y => h.answer 8 y.2 0x22) h
  h.pump p

/-- A handshake on a port that authenticates ends (R369, R371, R414): 1 chain, 2 signature, 3 owner mismatch. -/
def Hw.handshake (h : Hw) (p : Nat) (peer : LinkPeer) : Hw :=
  if h.get (FAB_PSTAT.STATE p) ≠ 2 then h
  else
    let why := if ¬ peer.chainOk then 1 else if ¬ peer.sigOk then 2 else if bitAt (h.get TRU_STAT.POLICY) 3 ∧ ¬ peer.ownerOk then 3 else 0
    if why ≠ 0 then (h.ev 0x608 2 5 p why 0).portDown p 2 6
    else if peer.keyId.toNat = subjectId then h.portDown p 2 6
    else h.authDone p peer

/-- LINK_HANDSHAKE. -/
def execLinkHandshake (p : Fin 8) (peer : LinkPeer) (s : State) : Host.Outcome State Fault Refusal := done s (s.hw.whenLocked fun h => h.handshake p peer)

/-- TAG_GROUP_CLOSE (R370): the tag of the flits sent since the last one is sent, and a new group opens. -/
def execTagGroupClose (p : Fin 8) (s : State) : Host.Outcome State Fault Refusal :=
  let h := s.hw
  if ¬ h.portUp p ∨ h.pllOff ∨ ¬ h.flag (FAB_PSTAT.ENC p) then done s h else done s ((h.groupClose p).pump p)

/-- REKEY (R370): after 2^40 flits, by a new encapsulation; the open group is closed under the old key. -/
def execRekey (p : Fin 8) (s : State) : Host.Outcome State Fault Refusal :=
  let h := s.hw
  if ¬ h.portUp p ∨ h.pllOff ∨ (h.port p).sent < 2 ^ 40 then done s h
  else
    let h := h.groupClose p
    let n := (h.port p).keys + 1
    let key := fun (d : Bool) => Config.linkKey subjectId ((h.port p).peer.getD 0) n (bnat d)
    done s (((h.send (.link p 2 n)).modPort p fun x => { x with keys := n, sent := 0, txKey := key !x.encap, rxKey := key x.encap }).pump p)

/-! ## Flits through the module (R343, R348, R349, R354, R373, R374) -/

/-- A reserved value in a field of a management message (R350): MKIND, or a byte that no kind uses. -/
def Flit.badMgmt (f : Flit) : Bool :=
  decide (Flit.byte f 0 = 0) || decide (Flit.byte f 0 > 5) || decide (Flit.byte f 7 ≠ 0) || decide (f.payload.toNat / 2 ^ 160 ≠ 0)

/-- A reserved value in a field of a flit (R347 to R350); there are 16 windows and 6 directions. -/
def Flit.bad (f : Flit) : Bool :=
  let det := Flit.det f
  decide (Flit.type f = 0) || decide (Flit.type f > 11) || decide (Flit.vc f > 8) || decide (Flit.etype f > 4) || decide (Flit.f f 119 9 ≠ 0) ||
    decide (bitsOf f.trl.toNat 56 8 ≠ 0) || (Flit.type f == 8 && decide (Flit.obj f > 15)) || (Flit.type f == 10 && Flit.badMgmt f) ||
    (Flit.vc f == 8 && (decide (det % 8 > 5) || decide (det / 8 % 8 > 5)))

/-- The class a detoured flit would have held: 1 where its way from its source's coordinate has crossed the dateline (R374). -/
def Hw.detourClass (h : Hw) (f : Flit) (d : Nat) : Nat :=
  let x := nodeAxis h.node (d / 2)
  let x0 := nodeAxis (Flit.src f) (d / 2)
  bnat (if d % 2 = 0 then decide (x < x0) else decide (x > x0))

/-- The opposite direction. -/
def opposite (d : Nat) : Nat := if d % 2 = 0 then d + 1 else d - 1

/-- The dies from an address of the endpoint to a die: hub SRAM's hub, or the column's tower and its hub (R19, R21). Bit 40 says device memory. -/
def Hw.addrPath (h : Hw) (a die : Nat) : List Nat :=
  if hubAddr a then [hubDie ((a - 2 ^ 39) / 2 ^ 26), die]
  else match h.placeOf (a % 2 ^ 40) with
    | some (c, _) => [towerDie (c / 64), hubDie (c / 64), die]
    | none => [hubDie 0, die]

/-- The dies from what a flit is for to the one it came by: its port's link die, or, from this module, its hub (R19, R21, R360). Which hub takes a flit
with records, or a management flit, is not said: hub 0 here, and what belongs to the other half crosses no bridge with it (log 60). -/
def Hw.flitPath (h : Hw) (p : Nat) (f : Flit) : List Nat :=
  let die := if p < 8 then 58 + p / 2 else hubDie (Flit.txid f / 2048)
  if Flit.type f = 4 then [towerDie (Flit.core f / 8), hubDie (Flit.core f / 8), die]
  else if Flit.type f = 6 ∨ Flit.type f = 10 then [hubDie 0, die]
  else if Flit.type f = 9 then [hubDie (Flit.obj f / 32), die]
  else if Flit.type f = 7 then [hubDie (Flit.txid f / 2048), die]
  else h.addrPath (Flit.addr f) die

/-- A flit one of whose data words has failed a parity check: the first that WMASK names, now poisoned. -/
def Flit.spoil (f : Flit) : Flit :=
  match (List.range 8).find? fun j => bitAt (Flit.wmask f) j with
  | some j => { f with trl := f.trl ||| BitVec.ofNat 128 (2 ^ (48 + j)) }
  | none => f

/-- A flit that turns from the port it came by to port `q` on another link die, through a hub (R22): a parity check that fails there (R120). A bad header
discards the flit, a request with a command error; a bad data word is poisoned. -/
def Hw.turn (h : Hw) (p q vc : Nat) (f : Flit) : Hw :=
  match f.par with
  | none => h.toPort q vc f
  | some y =>
    if p / 2 = q / 2 then h.toPort q vc f
    else
      let path := [58 + q / 2, hubDie (Flit.txid f / 2048), 58 + p / 2]
      if y.header then
        let h := (h.xbarPar path y true).creditBack f
        if requestType (Flit.type f) then h.answer p f 0x18 else h
      else if ¬ fullType (Flit.type f) then h.toPort q vc f
      else (h.xbarPar path y true).toPort q vc (Flit.spoil f)

/-- A flit for another node goes on (R354, R374). -/
def Hw.forward (h : Hw) (p : Nat) (f : Flit) : Hw :=
  let hops := Flit.hops f + 1
  let refused := fun (_ : Unit) => (h.creditBack f).answer p f 0x22
  if ¬ h.hasCoord then refused ()
  else if h.isDead (Flit.dst f) then refused ()
  else if hops ≥ 127 then (h.creditBack f).ev 0x604 1 5 p (Flit.dst f + Flit.src f * 2 ^ 18) 0
  else
    let det := Flit.det f
    let side := det % 8
    let dir := det / 8 % 8
    let step := det / 64
    if Flit.vc f = 8 ∧ step < 3 then
      let out := if step < 2 then dir else opposite side
      h.turn p out 8 (Flit.onward f 8 hops (side + dir * 8 + (step + 1) * 64))
    else
      let back : Flit := if Flit.vc f = 8 then Flit.onward f (typeVc (Flit.type f) + h.detourClass f dir) (Flit.hops f) 0 else f
      let axis := if Flit.vc f = 8 then dir / 2 else if p < 6 then p / 2 else 3
      match h.wayOut back axis with
      | none => refused ()
      | some (q, vc, d) => h.turn p q vc (Flit.onward back vc hops d)

/-- Flits queued on a port that is not up, in a direction that has a bypass, leave by its detour (R345, R373). -/
def Hw.bypassQueued (h : Hw) : Hw :=
  foldUp 6 (fun d h => match h.bypass d with
    | none => h
    | some s =>
      if h.portUp d then h
      else
        let l := (List.range 8).flatMap fun vc => tget (fun _ => []) (h.port d).q vc
        let h := h.modPort d fun x => { x with q := x.q.filter fun y => y.1 == 8 }
        l.foldl (fun h f => h.toPort s 8 (Flit.onward f 8 (Flit.hops f) (s + d * 8))) h) h

/-- A collective flit that ends here on a detour goes on as if it had come along its ring (R374). -/
def Hw.offDetour (h : Hw) (p : Nat) (f : Flit) : Nat × Flit :=
  let d := Flit.det f / 8 % 8
  if Flit.type f = 8 ∧ Flit.vc f = 8 then (opposite d, Flit.onward f (4 + h.detourClass f d) (Flit.hops f) 0) else (p, f)

/-- A flit at its port: it is discarded, delivered here or sent on, and its input buffer is free, and its credit returns, once it leaves the module or
its unit takes it (R355). Tokens and ring-size notices are taken hop by hop. A LINK flit uses no credit. -/
def Hw.takeFlit (h : Hw) (p : Nat) (f : Flit) : Hw :=
  let f : Flit := { f with buf := if Flit.type f = 11 then none else some (p, Flit.vc f) }
  if Flit.bad f then
    let h := (h.evC 0x603 1 5 p (f.hdr.toNat % 2 ^ 64) (f.hdr.toNat / 2 ^ 64)).creditBack f
    if requestType (Flit.type f) then h.answer p f 0x02 else h
  else if Flit.type f = 11 then h
  else
    let local' := Flit.type f == 10 && (Flit.byte f 0 == 1 || Flit.byte f 0 == 2)
    if local' || (h.hasCoord && Flit.dst f == h.node) then h.modFab fun s => { s with inbox := s.inbox ++ [h.offDetour p f] } else h.forward p f

/-- The oldest flit of the retry buffer has been NAKed: after the eighth time in a row the diagnosis may blame a lane, which is then left out (R344).
Which one it blames is not stated: a free value. -/
def Hw.naked (h : Hw) (p : Nat) : Hw :=
  match (h.port p).retry with
  | [] => h
  | x :: _ =>
    let n := if (h.port p).naks.1 = x.1 then (h.port p).naks.2 + 1 else 1
    if n < 8 then h.modPort p fun s => { s with naks := (x.1, n) }
    else
      let (r, h) := (h.modPort p fun s => { s with naks := (x.1, 0) }).free
      if r % 5 = 4 then h else h.degrade p (r % 5)

/-- Acknowledgement, NAK and credits that a trailer carries back (R343, R349). -/
def Hw.trailer (h : Hw) (p : Nat) (f : Flit) : Hw :=
  let t := f.trl.toNat
  let ack := bitsOf t 12 12
  let nak := bitAt t 24
  let vc := bitsOf t 25 4
  let n := bitsOf t 29 4
  let i := match (List.range (h.port p).retry.length).find? fun i => ((h.port p).retry.getD i (4096, f)).1 == ack with
    | some i => i + 1
    | none => 0
  let h := h.modPort p fun s =>
    { s with retry := s.retry.drop i, used := tset (fun _ => 0) s.used vc (tget (fun _ => 0) s.used vc - n), naks := if i = 0 then s.naks else (0, 0) }
  let h := if nak then (h.replay p 0).naked p else h
  h.pump p

/-- A flit at a running port (R343): one with a good CRC and the next sequence number is acknowledged, and admitted or held for its group's tag. A CRC
failure discards the flit with a NAK, and the later flits that do not carry the next number. `crcOk` is the check over the bytes as received; those of a
flit in clear are at hand, and are checked. Whether a bad flit also counts as an uncorrectable codeword (FEC_UNCORR) is not given: a free value. -/
def Hw.flitIn (h : Hw) (p : Nat) (flit : Flit) (crcOk : Bool) : Hw :=
  let n := (h.port p).got
  if ¬ h.portUp p then h
  else if ¬ crcOk ∨ (¬ h.flag (FAB_PSTAT.ENC p) ∧ ¬ Flit.crcGood flit) then
    let (x, h) := h.free
    (h.count (FAB_PERR.FEC_UNCORR p) (x % 2)).send (.ack p ((n + 4095) % 4096) true)
  else if Flit.seq flit ≠ n then h
  else
    let h := (h.trailer p flit).modPort p fun x => { x with got := (n + 1) % 4096 }
    let h := if fullType (Flit.type flit) then h.count (TEL_PORT.RXFULL p) 1 else h
    let h := if h.flag (FAB_PSTAT.ENC p) ∧ Flit.type flit ≠ 11 then h.modPort p fun x => { x with rx := x.rx ++ [flit] } else h.takeFlit p flit
    h.send (.ack p n false)

/-- The flits that waited for the root PLL are received in the order in which they came (R435). -/
def Hw.flitsIn (h : Hw) : Hw := h.fab.arrived.foldl (fun h x => h.flitIn x.1 x.2.1 x.2.2) (h.modFab fun f => { f with arrived := [] })

/-- FLIT_RECEIVE: a flit that comes while the root PLL is unlocked waits at its port. -/
def execFlitReceive (p : Fin 8) (flit : Flit) (crcOk : Bool) (s : State) : Host.Outcome State Fault Refusal :=
  let h := s.hw
  done s (if h.portUp p ∧ h.pllOff then h.modFab fun f => { f with arrived := f.arrived ++ [(p.val, flit, crcOk)] } else h.flitIn p flit crcOk)

/-- A group's tag checked (R371): a verified group is admitted; a failed one is NAKed, and a second failure takes the port down. -/
def Hw.groupTag (h : Hw) (p : Nat) (ok : Bool) : Hw :=
  let l := (h.port p).rx
  if ¬ h.portUp p ∨ ¬ h.flag (FAB_PSTAT.ENC p) then h
  else if ok then l.foldl (fun h f => h.takeFlit p f) (h.modPort p fun x => { x with rx := [], rxFail := 0 })
  else
    let h := h.count (FAB_PERR.MAC_FAIL p) 1
    if (h.port p).rxFail ≥ 1 then (h.ev 0x608 2 5 p 0 0).portDown p 2 4
    else
      let first := ((h.port p).got + 4096 - l.length % 4096) % 4096
      (h.send (.ack p ((first + 4095) % 4096) true)).modPort p fun x => { x with rx := [], rxFail := 1, got := first }

/-- LINK_TAG. -/
def execLinkTag (p : Fin 8) (ok : Bool) (s : State) : Host.Outcome State Fault Refusal := done s (s.hw.whenLocked fun h => h.groupTag p ok)

/-- FAB_STALL (R358): a channel whose head has lacked credit for STALL_MS discards its flits, requests answered with RESP 0x23. -/
def execFabStall (p : Fin 8) (vc : Fin 9) (s : State) : Host.Outcome State Fault Refusal :=
  let h := s.hw
  let l := tget (fun _ => []) (h.port p).q vc
  if l.isEmpty ∨ h.fuses.variantS ∨ h.pllOff ∨ tget (fun _ => 0) (h.port p).used vc < vcRoom vc then done s h
  else
    let h := h.modPort p fun x => { x with q := tset (fun _ => []) x.q vc [] }
    let h := l.foldl (fun h f => h.creditBack f) h
    let h := (l.filter fun f => requestType (Flit.type f)).foldl (fun h f => h.answer 8 f 0x23) h
    let h := (h.count (FAB_PERR.STALLS p) 1).ev 0x605 2 5 p vc l.length
    done s (h.markBit (FAB_PVC.STALLED p) vc)

/-! ## Chain enumeration (R350 to R353) -/

/-- A token or notice: MKIND, axis, session, NEXT, sizes, BASE, ORIGIN_ID. -/
def enumMsg (kind axis session next sx sy base origin : Nat) : Nat :=
  kind + axis * 2 ^ 8 + session * 2 ^ 16 + next * 2 ^ 32 + sx * 2 ^ 40 + sy * 2 ^ 48 + base * 2 ^ 64 + origin % 2 ^ 64 * 2 ^ 96

/-- A management flit sent to a neighbour. -/
def Hw.mgmtOn (h : Hw) (p payload : Nat) : Hw := h.toPort p 6 (mkFlit 10 0 h.node 0 0 0 0 0 0 (BitVec.ofNat 2048 payload) 0)

def Hw.setSize (h : Hw) (a n : Nat) : Hw := h.put (if a = 0 then GID_COORD.SX else if a = 1 then GID_COORD.SY else GID_COORD.SZ) n

/-- Coordinates taken (R499, R521). -/
def Hw.setCoord (h : Hw) (n src session estat : Nat) : Hw :=
  h.puts [(GID_COORD.X, nodeX n), (GID_COORD.Y, nodeY n), (GID_COORD.Z, nodeZ n), (GID_COORD.VALID, 1), (GID_NODE.NODE, n), (GID_NODE.CVALID, 1),
    (GID_NODE.CSRC, src), (FAB_ENUM.SESSION, session), (FAB_ENUM.ESTAT, estat)]

/-- Coordinates and sizes cleared (R353, R500). -/
def Hw.clearCoord (h : Hw) : Hw :=
  ((h.resetReg GID_COORD.off).modFab fun f => { f with enum := {} }).puts
    [(GID_NODE.NODE, 0), (GID_NODE.CVALID, 0), (GID_NODE.CSRC, 0), (FAB_ENUM.SESSION, 0), (FAB_ENUM.ESTAT, 0)]

/-- A member that knows all three sizes has completed enumeration, but for the origin, which waits for its reports. -/
def Hw.sizesKnown (h : Hw) : Hw :=
  if h.ring 0 ≠ 0 ∧ h.ring 1 ≠ 0 ∧ h.ring 2 ≠ 0 ∧ ¬ h.fab.enum.origin then h.put FAB_ENUM.ESTAT 2 else h

/-- Enumeration ends on this module with a failure (R352). -/
def Hw.enumFail (h : Hw) (status axis : Nat) : Hw :=
  let c := h.fab.enum.cmd
  let h := (h.modFab fun f => { f with enum := {} }).put FAB_ENUM.ESTAT 3
  match c with
  | some w => h.completeRun w status axis
  | none => h

/-- Node 0 takes a report; it ends enumeration once it has one of every Z ring. -/
def Hw.reportIn (h : Hw) (node sy sz : Nat) : Hw :=
  if ¬ h.fab.enum.origin then h
  else
    let l := h.fab.enum.reports.filter (fun x => x.1 != node) ++ [(node, sy, sz)]
    let h := h.modFab fun f => { f with enum := { f.enum with reports := l } }
    if l.any fun x => x.2.1 != sy then h.enumFail 0x43 1
    else if l.any fun x => x.2.2 != sz then h.enumFail 0x43 2
    else if l.length < h.ring 0 * sy then h
    else
      let c := h.fab.enum.cmd
      let h := (h.modFab fun f => { f with enum := {} }).puts [(GID_COORD.SY, sy), (GID_COORD.SZ, sz), (FAB_ENUM.ESTAT, 2)]
      match c with
      | some w => h.completeRun w 0 (h.ring 0 + sy * 2 ^ 8 + sz * 2 ^ 16)
      | none => h

/-- A Z ring's origin knows SZ (step 7). -/
def Hw.knowZ (h : Hw) : Hw :=
  let h := h.sizesKnown
  if h.node = 0 then h.reportIn 0 (h.ring 1) (h.ring 2)
  else h.mgmt 0 (enumMsg 3 2 (h.get FAB_ENUM.SESSION) (h.ring 2) (h.ring 0) (h.ring 1) h.node subjectId)

/-- A token of an axis sent from this ring's origin, or its size 1 where the + port is down (step 2). -/
def Hw.startAxis (h : Hw) (a : Nat) (known : Hw → Hw) : Hw :=
  if h.portUp (2 * a) then
    (h.modFab fun f => { f with enum := { f.enum with tokens := f.enum.tokens ++ [a] } }).mgmtOn (2 * a)
      (enumMsg 1 a (h.get FAB_ENUM.SESSION) 1 (h.ring 0) (h.ring 1) h.node subjectId)
  else known (h.setSize a 1)

def Hw.knowY (h : Hw) : Hw := h.startAxis 2 Hw.knowZ
def Hw.knowX (h : Hw) : Hw := h.startAxis 1 Hw.knowY

/-- This module becomes the peloton origin (step 1). -/
def Hw.enumOrigin (h : Hw) (session : Nat) (cmd : Option Nat) : Hw :=
  let h := (h.resetReg GID_COORD.off).modFab fun f => { f with enum := { cmd := cmd, origin := true } }
  (h.setCoord 0 1 session 1).startAxis 0 Hw.knowX

/-- The ring of axis `a` has closed: its members hold coordinates, so the neighbours of both ports of the axis do (R375). -/
def Hw.neighbors (h : Hw) (a : Nat) : Hw :=
  let s := h.ring a
  let x := nodeAxis h.node a
  foldUp 2 (fun d h =>
    let p := 2 * a + d
    let y := if d = 0 then (x + 1) % s else (x + s - 1) % s
    if h.portUp p then h.puts [(FAB_PSTAT.NEIGHBOR p, h.node - x * 64 ^ a + y * 64 ^ a), (FAB_PSTAT.NVALID p, 1)] else h) h

/-- The axis whose size has become known: what this member starts next (steps 4 to 7). -/
def Hw.axisKnown (h : Hw) (a : Nat) (ringOrigin : Bool) : Hw :=
  if a = 0 then h.knowX else if a = 1 then h.knowY else if ringOrigin then h.knowZ else h.sizesKnown

/-- FABRIC_ENUM_ORIGIN (R351, R352). -/
def execFabricEnumOrigin (w : Fin 16) (s : State) : Host.Outcome State Fault Refusal :=
  done s (s.hw.command w (fun e => sqOp e == 0x12 && sqFlags e == 1) false fun e h =>
    if h.fuses.variantS then h.complete w e 0x45 0
    else if h.loaded then h.complete w e 0x40 0
    else if sqArg e 0 ≥ 2 ^ 16 then h.complete w e 0x02 0
    else h.enumOrigin (sqArg e 0 % 2 ^ 16) (some w))

/-- FABRIC_ENUM_CLEAR (R353). -/
def execFabricEnumClear (w : Fin 16) (s : State) : Host.Outcome State Fault Refusal :=
  done s (s.hw.command w (fun e => sqOp e == 0x12 && sqFlags e == 0) false fun e h =>
    if h.fuses.variantS then h.complete w e 0x45 0
    else if h.loaded then h.complete w e 0x40 0
    else if sqArg e 0 ≥ 2 ^ 16 then h.complete w e 0x02 0
    else h.clearCoord.complete w e 0 0)

/-- A delivered flit taken from the endpoint: its input buffer is free. -/
def Hw.outbox (h : Hw) (x : Nat × Flit) : Hw := (h.modFab fun f => { f with inbox := f.inbox.erase x }).creditBack x.2

/-- The oldest delivered flit of a kind, taken from the endpoint, whose clock runs. -/
def Hw.takeInbox (h : Hw) (want : Flit → Bool) : Option ((Nat × Flit) × Hw) :=
  match h.fab.inbox.find? fun x => want x.2 && !h.pllOff with
  | none => none
  | some x => some (x, h.outbox x)

/-- A message without a requester that fails a parity check on its way (R120): it is lost, its header or its payload being bad; a short flit carries no
data that could fail. -/
def Hw.metMgmt (h : Hw) (p : Nat) (x : Flit) (f : Hw → Hw) : Hw :=
  match x.par with
  | some y => if y.header ∨ fullType (Flit.type x) then h.xbarPar (h.flitPath p x) y true else f h
  | none => f h

/-- A management message of a kind, with the port it came by. -/
def Hw.withMgmt (h : Hw) (kind : Nat) (f : Nat → Flit → Hw → Hw) : Hw :=
  match h.takeInbox fun x => Flit.type x == 10 && Flit.byte x 0 == kind with
  | none => h
  | some ((p, x), h) => h.metMgmt p x (f p x)

def Flit.axis (f : Flit) : Nat := Flit.byte f 1
def Flit.session (f : Flit) : Nat := bitsOf f.payload.toNat 16 16
def Flit.next (f : Flit) : Nat := Flit.byte f 4
def Flit.base (f : Flit) : Nat := bitsOf f.payload.toNat 64 18
def Flit.origin (f : Flit) : Nat := bitsOf f.payload.toNat 96 64

/-- A token at this module (steps 3 and 4, R352, R353). Its own token gives the ring size, also after this module's enumeration has failed; one that has
passed more than 64 modules ends that enumeration with 0x42. -/
def Hw.token (h : Hw) (p : Nat) (f : Flit) : Hw :=
  let a := Flit.axis f
  let n := Flit.next f
  let own := Flit.origin f == subjectId % 2 ^ 64 && h.hasCoord && Flit.session f == h.get FAB_ENUM.SESSION
  if a > 2 ∨ n = 0 ∨ n > 64 ∨ p ≠ 2 * a + 1 then
    let h := h.evC 0x603 1 5 p (f.hdr.toNat % 2 ^ 64) (f.hdr.toNat / 2 ^ 64)
    if a ≤ 2 ∧ n > 64 ∧ own ∧ h.fab.enum.origin then h.enumFail 0x42 a else h
  else if h.loaded then h
  else if own then
    let awaited := h.fab.enum.tokens.contains a
    let h := ((h.modFab fun x => { x with enum := { x.enum with tokens := x.enum.tokens.filter (· != a) } }).setSize a n).neighbors a
    let h := if h.portUp (2 * a) then h.mgmtOn (2 * a) (enumMsg 2 a (Flit.session f) n (h.ring 0) (h.ring 1) h.node subjectId) else h
    if awaited then h.axisKnown a true else h
  else if h.hasCoord ∧ (h.get FAB_ENUM.SESSION ≠ Flit.session f ∨ h.fab.enum.took ≠ some (Flit.origin f)) then
    let h := h.ev 0x606 1 5 p (Flit.session f + a * 2 ^ 16) (Flit.origin f)
    if h.fab.enum.origin then h.enumFail 0x44 a else h
  else if n > 63 then (if h.fab.enum.origin then h.enumFail 0x42 a else h)
  else
    let b := Flit.base f
    let node := if a = 0 then b / 64 * 64 + n else if a = 1 then b / 4096 * 4096 + n * 64 + b % 64 else n * 4096 + b % 4096
    let h := ((h.resetReg GID_COORD.off).modFab fun x => { x with enum := { x.enum with took := some (Flit.origin f) } }).setCoord node 1 (Flit.session f) 1
    let h := if Flit.byte f 5 ≠ 0 then h.setSize 0 (Flit.byte f 5) else h
    let h := if Flit.byte f 6 ≠ 0 then h.setSize 1 (Flit.byte f 6) else h
    h.mgmtOn (2 * a) (enumMsg 1 a (Flit.session f) (n + 1) (Flit.byte f 5) (Flit.byte f 6) b (Flit.origin f))

/-- ENUM_TOKEN. -/
def execEnumToken (s : State) : Host.Outcome State Fault Refusal := done s (s.hw.withMgmt 1 fun p f h => h.token p f)

/-- RING_SIZE_NOTICE (step 4): the size is recorded and the notice goes on around the ring, once. -/
def execRingSizeNotice (s : State) : Host.Outcome State Fault Refusal :=
  done s (s.hw.withMgmt 2 fun _ f h =>
    let a := Flit.axis f
    if a > 2 ∨ Flit.origin f = subjectId % 2 ^ 64 then h
    else
      let h := h.mgmtOn (2 * a) f.payload.toNat
      if h.loaded ∨ ¬ h.hasCoord then h else ((h.setSize a (Flit.next f)).neighbors a).axisKnown a false)

/-- ENUM_REPORT (step 7). -/
def execEnumReport (s : State) : Host.Outcome State Fault Refusal :=
  done s (s.hw.withMgmt 3 fun _ f h => h.reportIn (Flit.base f) (Flit.byte f 6) (Flit.next f))

/-- FM_NOTICE (R345): delivered to this node's software. -/
def execFmNotice (s : State) : Host.Outcome State Fault Refusal :=
  done s (s.hw.withMgmt 4 fun _ f h => h.send (.reply 3 4 (natLE 4 (Flit.src f))))

/-- ROUTE_UPDATE (R350): delivered to this node's software. -/
def execRouteUpdate (s : State) : Host.Outcome State Fault Refusal :=
  done s (s.hw.withMgmt 5 fun _ f h => h.send (.reply 3 5 (natLE 4 (Flit.src f) ++ natLE 256 f.payload.toNat)))

/-- ENUM_TOKEN_TIMEOUT (R352): a token the peloton origin awaits has not returned, or its reports are not all in. Another ring origin goes on waiting:
its enumeration has up to 100 ms (R521). -/
def execEnumTokenTimeout (s : State) : Host.Outcome State Fault Refusal :=
  let h := s.hw
  if ¬ h.fab.enum.origin then done s h
  else match h.fab.enum.tokens with
    | a :: _ => done s (h.enumFail 0x41 a)
    | [] => done s (h.enumFail 0x41 2)

/-- ENUM_SIZE_TIMEOUT (R521): 100 ms after a token without all three sizes. -/
def execEnumSizeTimeout (s : State) : Host.Outcome State Fault Refusal :=
  let h := s.hw
  if h.get FAB_ENUM.ESTAT = 1 ∧ ¬ h.fab.enum.origin then done s (h.put FAB_ENUM.ESTAT 3) else done s h

/-- COORD_WRITE (R500). -/
def Hw.coordWrite (h : Hw) (v : Nat) : Hw :=
  let f := fun (l : Loc) => bitsOf v l.lo l.width
  let bad := fun (x s : Nat) => decide (s < 1) || decide (s > 64) || decide (x ≥ s)
  if h.fuses.variantS then h
  else if h.loaded ∨ h.get FAB_ENUM.ESTAT = 1 then h.mark GID_NODE.COORD_REJ
  else if f GID_COORD.VALID = 0 then h.clearCoord
  else if bad (f GID_COORD.X) (f GID_COORD.SX) || bad (f GID_COORD.Y) (f GID_COORD.SY) || bad (f GID_COORD.Z) (f GID_COORD.SZ) then h.mark GID_NODE.COORD_REJ
  else
    ((h.setCoord (f GID_COORD.X + 64 * f GID_COORD.Y + 4096 * f GID_COORD.Z) 2 0 0).modFab fun x => { x with enum := {} }).puts
      [(GID_COORD.SX, f GID_COORD.SX), (GID_COORD.SY, f GID_COORD.SY), (GID_COORD.SZ, f GID_COORD.SZ)]

/-- COORD_WRITE. -/
def execCoordWrite (value : BitVec 64) (s : State) : Host.Outcome State Fault Refusal := done s (s.hw.coordWrite value.toNat)

end Sys2Proof.Machine
end

