-- ==== Sys2Proof/Machine/Start.lean ====
section
/-!
DEFINITION. Cold start, warm start, the resets of the host port, core reset by register, recovery (R406, R407, R451, R454 to R466).
-/
namespace Sys2Proof.Machine

/-! ## Release (R455) -/

/-- The first trip record not yet posted is posted at release (R505); PWR_TRIP shows the last record. -/
def Hw.postTrip (h : Hw) : Hw :=
  match lastTrip h.flash.trips with
  | none => h
  | some r =>
    let b := fun (o n : Nat) => leNat ((r.bytes.drop o).take n)
    let h := h.puts [(PWR_TRIP.COUNT, r.seq), (PWR_TRIP.CAUSE, b 0x20 1), (PWR_TRIP.SENSOR, b 0x21 1), (PWR_TRIP.TEMP, b 0x22 2)]
    if r.seq > h.flash.posted then (h.modFlash fun f => { f with posted := r.seq }).ev 0x803 3 0 0 r.seq (b 0x20 8) else h

/-- The module is released to the host; outside kickstand the sequencers leave open order (R61). -/
def Hw.release (h : Hw) : Hw :=
  let h := foldUp 8 (fun t h => h.put (TMC_CTRL.OPEN t) (bnat (h.kick || h.flag (TMC_CTRL.TEST_OPEN t)))) h.kickWriteBack
  let h := (h.modHost fun x => { x with link := true }).modMode fun m => { m with phase := .released }
  let h : Hw := if h.jtag.ir = 2 then { h with jtag := { h.jtag with ir := 0 } } else h
  (h.put RST_STAT.STEP 12).postTrip

/-- The last step of a start: it waits while PERST# is asserted, the link is disabled or an erase runs (R458, R460, R464). -/
def Hw.linkUp (h : Hw) : Hw :=
  if h.mode.phase = .linkWait ∧ ¬ h.mode.perst ∧ ¬ h.mode.linkDisabled ∧ h.mode.erase.isNone then h.release else h

/-! ## Cold start (R454 to R458) -/

/-- The failure of a step noted where it is the first. -/
def Hw.failStep (h : Hw) (n : Nat) : Hw := if h.get RST_STAT.FAILSTEP = 0 then h.put RST_STAT.FAILSTEP n else h

/-- A failure that leaves the module unreleased or in recovery (R407, R456). -/
def Hw.startStops (h : Hw) (step : Nat) (phase : Phase) : Hw :=
  ((h.modMode fun m => { m with phase := phase }).failStep step).put RST_STAT.STEP (step - 1)

/-- Towers that a domain's failure takes with it; 0 for hub and link dies. -/
def domTower (d : Nat) : Nat := if d < 24 then 2 ^ (d % 8) else 0

/-- Failed domains put the module into kickstand (R456). -/
def Hw.domainsFail (h : Hw) (l : List (Fin 30)) (step : Nat) : Hw := l.foldl (fun h d => (h.failStep step).kickEnter 3 d.val (domTower d.val)) h

/-- The patch table reloaded from flash (step 7). -/
def Hw.patchReload (h : Hw) : Hw :=
  h.flash.patches.foldl (fun h e =>
    let t := e.1 / 16
    (h.setWord (PROT_PATCH.off t (e.1 % 16)) e.2).put (PROT_STAT.PATCH_USED t) (h.get (PROT_STAT.PATCH_USED t) + bnat (e.2.getLsbD 0))) h

/-- Levels of a list that lie in towers not failed. -/
def liveLevels (bad : Nat) (l : List (Fin 512 × Fin 6)) : List (Fin 512 × Fin 6) := l.filter fun x => !bitAt bad (x.1.val / 64)

/-- The due-time counters start (R66): each tower has a phase that the spec leaves open, a free value; every bank's first refresh falls due
within one interval. -/
def Hw.refStart (h : Hw) : Hw :=
  foldUp 8 (fun t h =>
    let (v, h) := h.free
    foldUp 64 (fun c h =>
      let at' := fun (l : Nat) => (h.time : Int) + (((v % 390 + c % 8 * 4 + l * 32) % 390 : Nat) : Int)
      h.modCol (64 * t + c) fun s => { s with refAt := (List.range 6).map at' }) h) h

/-- The memory fill writes every calibration row with its pattern (R78, R104). -/
def Hw.calFill (h : Hw) : Hw := foldUp 512 (fun c h => h.modCol c fun s => { s with cal := true }) h

/-- Steps 4 to 9 of a cold start. -/
def Hw.bringUp (h : Hw) (inp : StartInputs) : Hw :=
  let ok := fun (d : Nat) => !(inp.domainsBad.any fun x => x.val == d)
  let h := foldUp 30 (fun d h => h.put (PWR_DOM.ON d) (bnat (ok d))) h
  let h := h.domainsFail inp.domainsBad 4
  let bad := h.get KICK_STAT.FAILED
  let h := h.refStart.modMode fun m => { m with trained := true }
  let h := inp.trims.foldl (fun h x => if bitAt bad (x.1.val / 64) then h else h.modCol x.1 fun s => { s with trims := tset (fun _ => 64) s.trims x.2.1 x.2.2 }) h
  let h := (liveLevels bad inp.trainBad).foldl (fun h x => (h.failStep 6).levelFail x.1 x.2 1) h
  let h := h.patchReload.calFill
  let h := foldUp 8 (fun t h => if bitAt bad t then h else h.put (PROT_STAT.FILL_DONE t) 1) h
  let h := (liveLevels bad inp.fillBad).foldl (fun h x => (h.failStep 8).levelFail x.1 x.2 2) h
  h.domainsFail (inp.testBad.filter fun d => !(decide (d.val < 24) && bitAt bad (d.val % 8))) 9

/-- Steps 10 and 11: ports that train authenticate, and the origin starts enumeration (R457). -/
def Hw.fabricUp (h : Hw) (inp : StartInputs) : Hw :=
  if h.fuses.variantS then
    ((h.setCoord 0 3 0 0).puts [(GID_COORD.SX, 1), (GID_COORD.SY, 1), (GID_COORD.SZ, 1), (GID_CAP0.PORTS, 0), (GID_ID.VARIANT, 2), (GID_ID.SUBSYS, 2),
      (FAB_ENUM.ORIGIN_STRAP, 0)])
  else
    let h := foldUp 8 (fun p h => h.portTrain p true) h
    let h := inp.ports.foldl (fun h x => (h.trained x.1 x.2.1).handshake x.1 x.2.2) h
    if inp.originN then h.put FAB_ENUM.ESTAT 3 else h.enumOrigin 1 none

/-- A cold start's first state: what outlives power, and the straps. -/
def Hw.coldBase (h : Hw) (inp : StartInputs) : Hw :=
  let h := h.persist .unreleased
  let h := h.modMode fun m => { m with boot := m.boot + 1, linkDisabled := false }
  h.puts [(RST_STAT.STEP, 1), (RST_STAT.BOOT, h.mode.boot), (GID_STRAP.SLOT_ID, inp.slotId.toNat), (GID_STRAP.ORIGIN, bnat !inp.originN),
    (FAB_ENUM.ORIGIN_STRAP, bnat !inp.originN), (MAP_RESERVE.RSV_NOW, h.flash.rsv), (MAP_RESERVE.RSV_NEXT, h.flash.rsv),
    (GID_CAP1.HVIS, 0x900 - 8 * h.flash.rsv)]

/-- A cold start from input power good. -/
def Hw.coldStart (h : Hw) (inp : StartInputs) : Hw :=
  let h := h.coldBase inp
  if ¬ inp.bist then h.startStops 2 .unreleased
  else
    let (ok, h) := h.boot h.preferred inp.sigA inp.sigB inp.idOk
    if ¬ ok then h.startStops 3 .recovery
    else if ¬ inp.pllOk then h.startStops 5 .unreleased
    else
      let h := ((h.bringUp inp).fabricUp inp).eraseRecord 2 true
      let h := (h.modMode fun m => { m with phase := .linkWait }).put RST_STAT.STEP 11
      h.linkUp

/-- COLD_START (R454): input power is good. -/
def execColdStart (inp : StartInputs) (s : State) : Host.Outcome State Fault Refusal :=
  done s (if s.hw.mode.phase = .off ∨ s.hw.mode.phase = .locked then s.hw.coldStart inp else s.hw)

/-- POWER_OFF_HOLD_END (R451): with input present a cold start follows, but not after a third trip within an hour. -/
def execPowerOffHoldEnd (present third : Bool) (inp : StartInputs) (s : State) : Host.Outcome State Fault Refusal :=
  let h := s.hw
  if h.mode.phase ≠ .heldOff then done s h
  else if third then done s (h.modMode fun m => { m with phase := .locked })
  else if present then done s (h.coldStart inp)
  else done s (h.modMode fun m => { m with phase := .off })

/-- RECOVERY_FW_UPDATE (R407): received firmware is written to slot A and, where it passes, the module cold-starts. -/
def execRecoveryFwUpdate (fw : Firmware) (sigOk : Bool) (inp : StartInputs) (s : State) : Host.Outcome State Fault Refusal :=
  let h := s.hw
  if h.mode.phase ≠ .recovery ∨ fw.bytes.length > 2 ^ 26 then done s h
  else
    let h := h.modFlash fun f => { f with slotA := Memory.writeBytes [] 0 fw.bytes }
    if h.slotOk h.flash.slotA sigOk then done s ((h.coldStart inp).send (.reply 2 0 [])) else done s (h.send (.reply 2 0x54 []))

/-! ## Warm start (R459 to R463) -/

/-- Whether a BAR0 register keeps its fields at a warm start (R463). -/
def warmKeeps (off : Nat) : Bool :=
  (decide (off < 0x10000) && off != GID_SCRATCH.off) || (decide (0x30000 ≤ off) && decide (off < 0x60000)) || (decide (0x70000 ≤ off) && decide (off < 0x100000)) ||
    (decide (0x1000000 ≤ off) && decide ((off - 0x1000000) % 0x200000 < 0x100000))

/-- The housekeeping time restarts at 0 (R463): the due-time counters keep their phase (R66), corrections and alerts of the last millisecond lie
behind, and the intervals between reports, gear moves and downshifts run from the start. -/
def Hw.timeRestart (h : Hw) : Hw :=
  let n := h.time
  let cut := fun (t : Option Nat) => t.map (· - n)
  let gap : Int := n
  let h := h.allCols fun h c => h.modCol c fun s => { s with refAt := s.refAt.map (· - gap), corr := [], alerts := [] }
  (h.modTherm fun t => { t with rateAt := cut t.rateAt, inletAt := cut t.inletAt }).modMode fun m =>
    { m with capDown := cut m.capDown, capChange := cut m.capChange, unmetAt := cut m.unmetAt }

/-- What a start finds where nothing is wrong. -/
def StartInputs.good : StartInputs :=
  { slotId := 0, originN := true, bist := true, sigA := true, sigB := true, idOk := true, domainsBad := [], pllOk := true, trainBad := [], trims := [],
    fillBad := [], testBad := [], ports := [] }

/-- The module's starts that a host event or a register asks for: the code of LAST. Every count restarts (R483), also in the blocks whose fields
R463 keeps. -/
def Hw.warmStart (h : Hw) (last : Nat) (memClr : Bool) (inp : StartInputs) : Hw :=
  if h.mode.phase ≠ .released ∧ h.mode.phase ≠ .linkWait then h
  else
    let valid := h.get IMG_STAT.SNAP_VALID
    let kick := h.kick
    let h := (h.allCols Hw.selfRefresh).unload
    let kept := h.csr.filter fun e => warmKeeps e.1
    let kicked := h.get KICK_STAT.FAILED
    let h := h.timeRestart
    let h : Hw := { h with csr := kept, lat := [], evt := {}, wins := [], chans := [], bars := [], drl := {}, filt := {}, hostHeld := [], lines := [],
                           cores := [], engs := [], sram := [], marks := [], setNow := [], host := {}, msix := {}, img := { snaps := h.img.snaps } }
    let h := h.restartCounts.unlockMap
    let h := h.fab.inbox.foldl (fun h x => h.creditBack x.2) h
    let h := h.modFab fun f => { f with txns := [], colls := [], held := [], inbox := [], arrived := [] }
    let h := h.modMode fun m => { m with gear := none, verify := [], erase := none, freeWaits := false, regHeld := [], boot := m.boot + 1, phase := .linkWait }
    let h := h.puts [(IMG_STAT.SNAP_VALID, valid), (PWR_GEAR.GEAR, 4), (PWR_GEAR.CHANGING, 0), (PWR_GEAR.LIM_IMG, 0), (PWR_FW.FW, 0),
      (RST_STAT.LAST, last), (RST_STAT.BOOT, h.mode.boot)]
    let h := h.count RST_STAT.WARMS 1
    let (ok, h) := h.boot h.running inp.sigA inp.sigB inp.idOk
    if ¬ ok then h.startStops 3 .recovery
    else if ¬ inp.pllOk then h.startStops 5 .unreleased
    else
      let h := (h.tcOff.lkOn.clockStart).allCols Hw.selfWake
      let h := if kick then h else h.tcOn
      let h := (liveLevels kicked inp.trainBad).foldl (fun h x => (h.failStep 6).levelFail x.1 x.2 1) h
      let h := h.domainsFail (inp.testBad.filter fun d => !kick || decide (d.val ≥ 8)) 9
      let h := if memClr then h.eraseStart .cxlReset else h
      h.kickWriteBack.linkUp

/-- WARM_START (R459). -/
def execWarmStart (inp : StartInputs) (s : State) : Host.Outcome State Fault Refusal := done s (s.hw.warmStart 1 false inp)

/-- PERST_ASSERT (R458, R464): a warm start, or a hold of the step that brings up the link. -/
def execPerstAssert (inp : StartInputs) (s : State) : Host.Outcome State Fault Refusal :=
  let h := s.hw.modMode fun m => { m with perst := true }
  done s (if h.mode.phase = .released then h.warmStart 2 false inp else h)

/-- PERST_DEASSERT (R458). -/
def execPerstDeassert (s : State) : Host.Outcome State Fault Refusal := done s (s.hw.modMode fun m => { m with perst := false }).linkUp

/-- HOT_RESET (R464). -/
def execHotReset (inp : StartInputs) (s : State) : Host.Outcome State Fault Refusal := done s (s.hw.warmStart 3 false inp)

/-- LINK_DISABLE (R464): a warm start that completes when the link is enabled again. -/
def execLinkDisable (inp : StartInputs) (s : State) : Host.Outcome State Fault Refusal :=
  done s ((s.hw.modMode fun m => { m with linkDisabled := true }).warmStart 4 false inp)

/-- CXL_RESET (R464): a warm start, with an erase before link-up where Mem Clr is enabled. -/
def execCxlReset (memClr : Bool) (inp : StartInputs) (s : State) : Host.Outcome State Fault Refusal := done s (s.hw.warmStart 5 memClr inp)

/-- HOST_LINK_UP (R464): the link trains again after a link down or after Link Disable is cleared. -/
def execHostLinkUp (s : State) : Host.Outcome State Fault Refusal :=
  let h := (s.hw.modMode fun m => { m with linkDisabled := false }).linkUp
  done s (if h.released then h.modHost fun x => { x with link := true } else h)

/-- LINK_DOWN (R464): the host port alone is reset; a running image runs on. -/
def execLinkDown (s : State) : Host.Outcome State Fault Refusal :=
  let h := s.hw
  done s { h with host := { sources := h.host.sources }, msix := {}, filt := {}, hostHeld := [], lines := [] }

/-- An image held for a snapshot stops with it. -/
def Quiesce.thenStops : Quiesce → Quiesce
  | .snap slot w _ ws => .snap slot w true ws
  | x => x

/-- FUNCTION_LEVEL_RESET (R464): a running image stops by force, one that is held for a snapshot once it is written, and every window is disabled. The
mailbox of the memory device has no command in progress between two commands of the table. -/
def execFunctionLevelReset (s : State) : Host.Outcome State Fault Refusal :=
  let h := s.hw
  let h := if h.get IMG_STAT.STATE = 3 ∨ h.get IMG_STAT.STATE = 4 then h.stopNow [] else h.modImg fun x => { x with quiesce := x.quiesce.map Quiesce.thenStops }
  done s (foldUp 16 (fun w h => ((h.put (CMD_CTRL.EN w) 0).modWin w fun s => { s with closing := true, sq := [] }).windowClose w) h)

/-- CORE_RESET (R465): a core named in RST_CTRL is reset at any time. -/
def execCoreReset (c : Fin 64) (s : State) : Host.Outcome State Fault Refusal := done s (s.hw.coreReset c)

end Sys2Proof.Machine
end

