-- ==== Sys2Proof/Machine/Words.lean ====
section
/-!
DEFINITION. The fields of access and long words that both streams share (R240 to R247, R261), and what stops an access word before its issue (R213,
R282, R296).
-/
namespace Sys2Proof.Machine

/-! ## Wait, signal and loop fields (R240 to R247, R261) -/

def wFmt (w : Nat) : Nat := bitsOf w 16 2
def wTag (w : Nat) : Nat := bitsOf w 8 8
def wKind (w : Nat) : Nat := bitsOf w 18 2
def wIdx (w : Nat) : Nat := bitsOf w 20 6
def wSrc (w : Nat) : Bool := bitAt w 26
def wAmt (w : Nat) : Nat := bitsOf w 27 10
def sKind (w : Nat) : Nat := bitsOf w 37 2
def sIdx (w : Nat) : Nat := bitsOf w 39 6
def sAmt (w : Nat) : Nat := bitsOf w 45 8 + 1
def wFence (w : Nat) : Bool := bitAt w 53
def wLend (w : Nat) : Nat := bitsOf w 54 3

/-- A reserved value or bit in the fields that both words share (R241, R242, R244). -/
def headBad (w : Nat) : Bool :=
  decide (wLend w > 4) || decide (bitsOf w 57 7 ≠ 0) ||
  (wKind w == 0 && (wIdx w != 0 || wAmt w != 0 || wSrc w)) || (wKind w == 3 && (wAmt w != 0 || wSrc w)) ||
  ((wKind w == 1 || wKind w == 2) && (decide (wIdx w > 47) || (wSrc w && decide (wAmt w > 31)))) ||
  (sKind w == 0 && (sIdx w != 0 || sAmt w != 1)) || ((sKind w == 1 || sKind w == 3) && decide (sIdx w > 47))

/-! ## Access words -/

abbrev Rcd := BitVec 512
def Rcd.gate (r : Rcd) : Bool := bitAt r.toNat 24

/-- Stream program record `n` of core `c` (R268). -/
def Hw.recordOf (h : Hw) (c n : Nat) : Rcd := BitVec.ofNat 512 (h.sread (sramScalar c + 0x7E00 + 64 * n) 64)

def accBase (h : Hw) (c : Nat) : Nat := h.get (CORE_IMEM.ACC_BASE c) * 64

/-- The access word at an offset. -/
def Hw.accWord (h : Hw) (c pc : Nat) : Nat := h.sread (sramImem c + pc) 16

/-- Mask tiles of core `c`'s gate input that its access stream sees (R218). -/
def Hw.gateSeen (h : Hw) (c : Nat) : List Tile :=
  ((h.core c).gate.filter fun t => decide (t.2 ≤ h.get (CORE_CYCLE.CYCLE (h.leader c)))).map (·.1)

/-- An access word is outstanding (R213): a FETCH until its entries have been popped, a DRAIN until its last word has left the core. -/
def CoreSt.isOut (s : CoreSt) (a : Armed) : Bool :=
  !a.done || a.carry.isSome || (if a.drain then s.portHead == some a.id || s.port.any fun x => x.storeOf == some a.id
    else (List.range 6).any fun q => (s.queue q).any fun e => e.word == some a.id)

/-- Outstanding access words (R213): RUNAHEAD. -/
def CoreSt.outstanding (s : CoreSt) : Nat := (s.armed.filter fun a => s.isOut a).length

/-- Batches that a channel runs or has waiting (R282). -/
def Chan.load (x : Chan) : Nat := bnat x.run.isSome + x.next.length

/-- A stop of R213 and R282 before a word issues: 512 outstanding words, a full or empty queue, no mask tile, a taken channel, 16 deferred
signals. -/
def Hw.accStops (h : Hw) (c w : Nat) : Bool :=
  let s := h.core c
  let q := bitsOf w 64 3
  let op := w % 256
  let rcd : Rcd := h.recordOf c (bitsOf w 83 8)
  decide (s.outstanding ≥ 512) || ((op == 1 || op == 2) && rcd.gate && (h.gateSeen c).isEmpty) ||
  (op == 1 && decide ((s.queue q).length ≥ 64)) || (op == 2 && (s.queue q).isEmpty) ||
  (op == 4 && decide ((h.chan (bitsOf w 64 5)).load ≥ 2)) ||
  (sKind w != 0 && decide (s.adef.length ≥ 16))

end Sys2Proof.Machine
end

