-- ==== Sys2Proof/Machine/Sync.lean ====
section
/-!
DEFINITION. Sync objects and barriers (R291 to R316): changes, waiters, releases, combined arrivals, the watchdog and the credit-deadlock
detector.
-/
namespace Sys2Proof.Machine

/-! ## Changes of an object (R292, R293, R310, R315) -/

/-- The last-signaller record of an object. -/
def Hw.noteSignal (h : Hw) (c obj : Nat) (s : SigSource) : Hw :=
  h.puts [(SYNC_LAST.ADDR c obj, s.addr), (SYNC_LAST.SRC c obj, s.src), (SYNC_LAST.CORE c obj, s.core), (SYNC_LAST.NODE c obj, s.node),
    (SYNC_LAST.LAP c obj, h.get IMG_LAP.LAP)]

/-- An addition to an object: 0 where it is applied, else the halt code of the signaller: 0x02 target out of range, 0x0B void, 0x0A overflow. -/
def Hw.objAdd (h : Hw) (c obj amt : Nat) (s : SigSource) : Nat × Hw :=
  if c > 63 ∨ obj > 47 then (0x02, h)
  else if h.flag (SYNC_VAL.VOID c obj) then (0x0B, h)
  else
    let v := h.get (SYNC_VAL.VALUE c obj) + amt
    if v ≥ 2 ^ 32 then (0x0A, h) else (0, (h.noteSignal c obj s).put (SYNC_VAL.VALUE c obj) v)

/-- A subtraction by the owning core (SKIND 3): 0x09 underflow. -/
def Hw.objSub (h : Hw) (c obj amt : Nat) (s : SigSource) : Nat × Hw :=
  if obj > 47 then (0x02, h)
  else if h.flag (SYNC_VAL.VOID c obj) then (0x0B, h)
  else
    let v := h.get (SYNC_VAL.VALUE c obj)
    if v < amt then (0x09, h) else (0, (h.noteSignal c obj s).put (SYNC_VAL.VALUE c obj) (v - amt))

/-- SYNC_VAL_WRITE (R292, R315): the debug write, ignored while the core runs or the object is void. -/
def execSyncValWrite (c : Fin 64) (obj : Fin 48) (v : BitVec 32) (s : State) : Host.Outcome State Fault Refusal :=
  let h := s.hw
  if h.flag (CORE_STAT.RUN c) ∨ h.flag (SYNC_VAL.VOID c obj) then done s h
  else done s ((h.noteSignal c obj ⟨7, 0, h.node, 0⟩).put (SYNC_VAL.VALUE c obj) v.toNat)

/-! ## Waiters (R294, R295, R305) -/

/-- Who waits: execute stream, scalar processor, access stream of a member. -/
inductive Waiter where
  | exec
  | scalar
  | access (m : Nat)
  deriving DecidableEq, Repr

/-- A waiter's standing wait, in the group of leader `l`. -/
def Hw.waitOf (h : Hw) (l : Nat) : Waiter → Option Wait
  | .exec => (h.core l).xwait
  | .scalar => (h.core l).swait
  | .access m => (h.core m).await

/-- A waiter released: a stream's word may issue; a scalar WAIT completes (R295). -/
def Hw.freeWaiter (h : Hw) (l : Nat) : Waiter → Hw
  | .exec => h.modCore l fun s => { s with xwait := s.xwait.map fun w => { w with released := true } }
  | .scalar => h.modCore l fun s => { s with swait := none, sst := .running, spc := (s.spc + 4) % 0x20000 }
  | .access m => h.modCore m fun s => { s with await := s.await.map fun w => { w with released := true } }

/-- The possible waiters of a group, in the order in which equal ages rank. -/
def Hw.waiters (h : Hw) (l : Nat) : List Waiter := [.exec, .scalar] ++ (h.members l).map Waiter.access

/-- The waiters that stand on object `obj`, with their waits. -/
def Hw.standing (h : Hw) (l obj : Nat) : List (Waiter × Wait) :=
  (h.waiters l).filterMap fun x => match h.waitOf l x with
    | some w => if (w.kind = 1 ∨ w.kind = 2) ∧ w.idx = obj ∧ ¬ w.released then some (x, w) else none
    | none => none

/-- The bitmap WAITERS of SYNC_VAL (R315). -/
def Hw.waiterMap (h : Hw) (l obj : Nat) : Nat :=
  (h.standing l obj).foldl (fun a x => a + match x.1 with
    | .exec => 1
    | .scalar => 2
    | .access m => 2 ^ (2 + m % 4)) 0

/-- The take waiters in age order, each granted what remains until the first that is not (R295). -/
def Hw.takes (h : Hw) (l obj : Nat) : List (Waiter × Wait) → Hw
  | [] => h
  | (x, w) :: t =>
    let v := h.get (SYNC_VAL.VALUE l obj)
    if w.amt ≤ v then ((h.put (SYNC_VAL.VALUE l obj) (v - w.amt)).freeWaiter l x).takes l obj t else h

/-- A list by the age of its waits, equal ages keeping their order. -/
def byAge (l : List (Waiter × Wait)) : List (Waiter × Wait) :=
  l.foldl (fun acc x => (acc.filter fun y => decide (y.2.since ≤ x.2.since)) ++ [x] ++ acc.filter fun y => decide (y.2.since > x.2.since)) []

/-- A waiter whose word something else than its wait stops (R213): it is decided once it can issue (R242). -/
def Hw.waiterStops (h : Hw) : Waiter → Bool
  | .access m => h.accStops m (h.accWord m (h.core m).apc)
  | _ => false

/-- One cycle's decision of an object's waiters (R295): every satisfied wait-ge and every take of 0 (R242), then takes by age. -/
def Hw.decideObj (h : Hw) (l obj : Nat) : Hw :=
  let st := (h.standing l obj).filter fun x => !h.waiterStops x.1
  let v := h.get (SYNC_VAL.VALUE l obj)
  let h := (st.filter fun x => (x.2.kind == 1 && decide (x.2.amt ≤ v)) || x.2.amt == 0).foldl (fun h x => h.freeWaiter l x.1) h
  h.takes l obj (byAge (st.filter fun x => x.2.kind == 2 && x.2.amt != 0))

/-- The take of a word that a check stops at its issue is given back: nothing of the word takes effect (R235, R242). Where the word's own signal to
that object leaves the range, the cycle's takes stand (R246): its callers do not ask for this then. -/
def Hw.untake (h : Hw) (l : Nat) (w : Option Wait) : Hw :=
  match w with
  | some x => if x.kind = 2 ∧ x.released then h.count (SYNC_VAL.VALUE l x.idx) x.amt else h
  | none => h

/-- Whether a barrier wait is satisfied for recorded generation `g` (R305). -/
def barPassed (gen g : Nat) : Bool :=
  let d := (gen + 65536 - g % 65536) % 65536
  decide (1 ≤ d) && decide (d ≤ 32767)

/-- The clocks of a group's waiters run (R295). -/
def Hw.decides (h : Hw) (l : Nat) : Bool := h.flag (CORE_STAT.RUN l) && !h.flag (CORE_STAT.HOLD l) && !h.flag (CORE_STAT.BROKEN l) && !h.pllOff

/-- The barrier waiters of a group released, those whose generation has passed, while its clocks run (R305). -/
def Hw.decideBar (h : Hw) (l bar : Nat) : Hw :=
  let gen := h.get (BAR_STAT.GEN bar)
  if ¬ h.decides l then h
  else (h.waiters l).foldl (fun h x => match h.waitOf l x, tget (fun _ => none) (h.core l).gens bar with
    | some w, some g =>
      if w.kind = 3 ∧ w.idx = bar ∧ ¬ w.released ∧ ¬ h.waiterStops x ∧ barPassed gen g then (h.freeWaiter l x).count (TEL_CORE.BARGEN l) 1 else h
    | _, _ => h) h

/-- Every barrier on which a waiter of a group stands decided. -/
def Hw.decideBars (h : Hw) (l : Nat) : Hw :=
  ((h.waiters l).filterMap fun x => (h.waitOf l x).bind fun w => if w.kind = 3 then some w.idx else none).foldl (fun h b => h.decideBar l b) h

/-- WAIT_RELEASE (R295): the object's waiters decided while the core's clocks run, and its barrier waiters, which a release has met while they stood
still (R305). -/
def execWaitRelease (c : Fin 64) (obj : Fin 48) (s : State) : Host.Outcome State Fault Refusal :=
  let h := s.hw
  let l := h.leader c
  if ¬ h.decides l then done s h else done s ((h.decideObj l obj).decideBars l)

/-! ## Barriers (R301 to R306) -/

/-- A barrier message to a node: sent, or held with BAR_UNREACH (R306). -/
def Hw.barSend (h : Hw) (bar : Nat) (rel : Bool) (gen node : Nat) : Hw :=
  if h.reachable node then h.sendFlit (mkFlit 9 node h.node (gen + bnat rel * 2 ^ 16) 0 0 0 bar 0 0 0)
  else (h.modBar bar fun b => { b with held := b.held ++ [(rel, gen, node)] }).ev 0x405 1 6 (bar / 32) bar node

/-- The release of a barrier's generation (R304), without the look at the moved counts. -/
def Hw.barRelease (h : Hw) (bar : Nat) : Hw :=
  let gen := h.get (BAR_STAT.GEN bar)
  let b := h.bar bar
  let h := h.puts [(BAR_STAT.GEN bar, gen + 1), (BAR_STAT.ARRIVED bar, h.get (BAR_STAT.NEXT bar)), (BAR_STAT.NEXT bar, 0),
    (BAR_TREE.CHILD bar, h.get (BAR_TREE.NEXT_CHILD bar)), (BAR_TREE.NEXT_CHILD bar, 0), (BAR_TREE.SENT bar, 0)]
  let h := (h.modBar bar fun x => { x with kids := x.nextKids, nextKids := [] }).count (TEL_HUB.BARGEN (bar / 32)) 1
  let h := b.kids.foldl (fun h n => h.barSend bar true gen n) h
  foldUp 64 (fun c h => if h.leader c = c then h.decideBar c bar else h) h

/-- A complete generation is released, or its combined arrival is sent (R303); moved counts may complete the next one at once. -/
def Hw.barCheck (h : Hw) (bar : Nat) : Nat → Hw
  | 0 => h
  | n + 1 =>
    if ¬ h.flag (BAR_CFG.VALID bar) ∨ h.get (BAR_STAT.ARRIVED bar) ≠ h.get (BAR_CFG.PARTS bar) ∨ h.get (BAR_TREE.CHILD bar) ≠ h.get (BAR_CFG.CHILDREN bar) then h
    else if h.flag (BAR_CFG.HOME bar) then (h.barRelease bar).barCheck bar n
    else if h.flag (BAR_TREE.SENT bar) then h
    else (h.put (BAR_TREE.SENT bar) 1).barSend bar false (h.get (BAR_STAT.GEN bar)) (h.get (BAR_CFG.PARENT bar))

/-- One local arrival (R302): the generation joined; none where both counts are full. -/
def Hw.barArrive (h : Hw) (bar : Nat) : Option Nat × Hw :=
  let gen := h.get (BAR_STAT.GEN bar)
  let parts := h.get (BAR_CFG.PARTS bar)
  if h.get (BAR_STAT.ARRIVED bar) < parts then (some gen, (h.put (BAR_STAT.ARRIVED bar) (h.get (BAR_STAT.ARRIVED bar) + 1)).barCheck bar 3)
  else if h.get (BAR_STAT.NEXT bar) < parts then (some ((gen + 1) % 65536), h.put (BAR_STAT.NEXT bar) (h.get (BAR_STAT.NEXT bar) + 1))
  else (none, h)

/-- A core arrives at a barrier: 0, or its halt code. The generation is recorded before a release it causes is decided. -/
def Hw.coreArrive (h : Hw) (l bar : Nat) : Nat × Hw :=
  if ¬ h.flag (BAR_CFG.VALID bar) then (0x02, h)
  else
    let gen := h.get (BAR_STAT.GEN bar)
    let parts := h.get (BAR_CFG.PARTS bar)
    let joins := if h.get (BAR_STAT.ARRIVED bar) < parts then gen else (gen + 1) % 65536
    if h.get (BAR_STAT.ARRIVED bar) ≥ parts ∧ h.get (BAR_STAT.NEXT bar) ≥ parts then (0x0A, h)
    else (0, ((h.modCore l fun s => { s with gens := tset (fun _ => none) s.gens bar (some joins) }).barArrive bar).2)

/-- BARRIER_ARRIVAL (R302): an arrival of a core through a route of KIND 1. -/
def execBarrierArrival (c : Fin 64) (bar : Fin 64) (s : State) : Host.Outcome State Fault Refusal :=
  let l := s.hw.leader c
  let r := s.hw.coreArrive l bar
  done s (if r.1 = 0 then r.2 else r.2.halt c r.1 { stream := 0, pc := (s.hw.core l).xpc })

/-- BAR_HELD_SEND (R306): a held message leaves once its node can be reached. -/
def execBarHeldSend (bar : Fin 64) (s : State) : Host.Outcome State Fault Refusal :=
  let h := s.hw
  match (h.bar bar).held with
  | [] => done s h
  | (rel, gen, node) :: rest =>
    if ¬ h.reachable node ∨ h.pllOff then done s h else done s ((h.modBar bar fun b => { b with held := rest }).barSend bar rel gen node)

/-- A snapshot is being taken (R314). -/
def Hw.snapping (h : Hw) : Bool :=
  match h.img.quiesce with
  | some (.snap _ _ _ _) => true
  | _ => false

/-- A barrier message at its hub (R303, R304). A release counts from PARENT alone. -/
def Hw.barMsg (h : Hw) (f : Flit) : Hw :=
  let bar := Flit.obj f
  let gen := Flit.addr f % 2 ^ 16
  let rel := bitAt (Flit.addr f) 16
  let now := h.get (BAR_STAT.GEN bar)
  let bad := h.ev 0x404 1 6 (bar / 32) (bar + gen * 2 ^ 16 + bnat rel * 2 ^ 32) (Flit.src f)
  if ¬ h.flag (BAR_CFG.VALID bar) then bad
  else if rel then (if ¬ h.flag (BAR_CFG.HOME bar) ∧ Flit.src f = h.get (BAR_CFG.PARENT bar) ∧ gen = now then (h.barRelease bar).barCheck bar 2 else bad)
  else if gen = now then
    ((h.modBar bar fun b => { b with kids := b.kids ++ [Flit.src f] }).put (BAR_TREE.CHILD bar) (h.get (BAR_TREE.CHILD bar) + 1)).barCheck bar 3
  else if gen = (now + 1) % 65536 then
    (h.modBar bar fun b => { b with nextKids := b.nextKids ++ [Flit.src f] }).put (BAR_TREE.NEXT_CHILD bar) (h.get (BAR_TREE.NEXT_CHILD bar) + 1)
  else bad

/-- BARRIER (R368): sunk at once; held while a snapshot is being taken. -/
def execBarrier (s : State) : Host.Outcome State Fault Refusal :=
  done s (match s.hw.takeInbox fun x => Flit.type x == 9 with
    | none => s.hw
    | some ((p, x), h) => h.metMgmt p x fun h =>
        if h.snapping then h.modFab fun f => { f with held := f.held ++ [(p, { x with par := none, buf := none })] } else h.barMsg x)

end Sys2Proof.Machine
end

