-- ==== Sys2Proof/Machine/Drl.lean ====
section
/-!
DEFINITION. The derailleur (R172 to R186): intake, binning, closing, index buffers, rounds and forwards. A source is 0 to 63 for a local core
and 64 + n for node n.
-/
namespace Sys2Proof.Machine

/-- The dispatch tables in force (R174). -/
def Hw.disp (h : Hw) : Option DispConf := if h.flag (DRL_STAT.ACTIVE 0) then h.img.conf.bind (·.disp) else none

/-- The oldest epoch whose rounds run or whose records are taken in, modulo 4. -/
def Hw.oldest (h : Hw) : Nat := h.get (DRL_EPOCH.EPOCH 0)

def Hw.epoch (h : Hw) (e : Nat) : DrlEpoch := tget (fun _ => {}) h.drl.epochs (e % 2)
def Hw.modEpoch (h : Hw) (e : Nat) (f : DrlEpoch → DrlEpoch) : Hw :=
  h.modDrl fun d => { d with epochs := tset (fun _ => {}) d.epochs (e % 2) (f (h.epoch e)) }
def DrlEpoch.exp (e : DrlEpoch) (n : Nat) : DrlExp := tget (fun _ => {}) e.exps n
def DrlEpoch.setExp (e : DrlEpoch) (n : Nat) (x : DrlExp) : DrlEpoch := { e with exps := tset (fun _ => {}) e.exps n x }
def DrlEpoch.src (e : DrlEpoch) (n : Nat) : DrlSrc := tget (fun _ => {}) e.srcs n

/-! ## Records (R173) -/

def recToken (r : DRec) : Nat := bitsOf r.toNat 0 32
def recExpert (r : DRec) : Nat := bitsOf r.toNat 32 16
def recEpoch (r : DRec) : Nat := bitsOf r.toNat 54 2
def recNode (r : DRec) : Nat := bitsOf r.toNat 64 18
/-- The record comes from a poisoned word (R116). -/
def recMark (r : DRec) : Bool := bitAt r.toNat 128
/-- The record in slot `i` of a tile of 16, with the marks of the tile's words. -/
def recAt (tile i : Nat) (mark : Bool) : DRec := BitVec.ofNat 129 (bitsOf tile (128 * i) 128 + bnat mark * 2 ^ 128)
/-- SRC_NODE written as the node's derailleur takes the record in. -/
def recFrom (r : DRec) (node : Nat) : DRec :=
  BitVec.ofNat 129 (r.toNat % 2 ^ 64 + node % 2 ^ 18 * 2 ^ 64 + r.toNat / 2 ^ 96 * 2 ^ 96)
/-- An end marker. -/
def endMarker (count epoch node : Nat) : DRec := BitVec.ofNat 129 (count + 0xFFFF * 2 ^ 32 + epoch % 4 * 2 ^ 54 + node % 2 ^ 18 * 2 ^ 64)

/-- The local expert with entry number `n`. -/
def expertOf (d : DispConf) (n : Nat) : Option ExpConf := d.experts.find? fun x => x.entry == n

/-! ## Registers (R186) -/

/-- Records above an entry's capacity, which lie in its half's spill lists. -/
def DrlEpoch.spilled (e : DrlEpoch) (d : DispConf) (half : Nat) : Nat :=
  (d.experts.filter fun x => x.entry / 128 == half).foldl (fun n x => n + ((e.exp x.entry).recs.length - x.cap)) 0

def DrlEpoch.placed (e : DrlEpoch) (d : DispConf) (half : Nat) : Nat :=
  (d.experts.filter fun x => x.entry / 128 == half).foldl (fun n x => n + (e.exp x.entry).recs.length) 0

/-- SPILL_USED, CLOSED and RECORDS of both halves brought up to date. -/
def Hw.drlShow (h : Hw) (d : DispConf) : Hw :=
  foldUp 2 (fun k h =>
    let e := h.epoch h.oldest
    h.puts [(DRL_STAT.SPILL_USED k, (h.epoch 0).spilled d k + (h.epoch 1).spilled d k), (DRL_EPOCH.CLOSED k, bnat e.closed),
      (DRL_EPOCH.RECORDS k, e.placed d k)]) h

/-! ## Signals of the derailleur (R177, R292, R310) -/

/-- An addition to an object of core `c`: an overflow halts the core, with DRL_SYNC_OVF; a void object drops it, with DRL_VOID. -/
def Hw.drlSignal (h : Hw) (half c obj amt : Nat) : Hw :=
  if amt = 0 then h
  else
    let (code, h) := h.objAdd c obj amt ⟨5, 0, h.node, 0⟩
    if code = 0x0A then (h.ev 0x304 2 6 half (c + obj * 2 ^ 8) 0).halt c 0x0A { stream := 0, pc := (h.core c).xpc }
    else if code = 0x0B then h.ev 0x305 1 6 half (c + obj * 2 ^ 8) 0
    else h

/-- The cores of an expert's clusters. -/
def expAll (x : ExpConf) : List Nat := x.clusters.flatMap fun k => (List.range 4).map (4 * k + ·)

/-- Those whose sync objects an expert's cores use: a fused group's are its leader's (R230). -/
def Hw.expCores (h : Hw) (x : ExpConf) : List Nat := (expAll x).filter fun c => h.leader c == c

/-! ## Index buffers (R178) -/

/-- Bytes of an index buffer: header, records of the round, padding. -/
def indexBuffer (x : ExpConf) (recs : List DRec) (round : Nat) : List Byte :=
  let l := (recs.drop (round * x.cap)).take x.cap
  natLE 4 l.length ++ natLE 4 round ++ natLE 2 x.entry ++ natLE 22 0 ++ l.flatMap (fun r => natLE 16 (r.toNat % 2 ^ 128)) ++
    ((List.range (x.cap - l.length)).flatMap fun _ => natLE 16 0xFFFFFFFF)

/-- Slots of a round's buffer that are poisoned: those of marked records, and those in `bad`, whose words a spill list gives poisoned (R116). -/
def badSlots (x : ExpConf) (recs : List DRec) (round : Nat) (bad : List Nat) : List Nat :=
  (List.range x.cap).filter fun j => match recs[round * x.cap + j]? with
    | some r => recMark r || (decide (round ≥ 1) && bad.contains j)
    | none => false

/-- Round `i`'s buffer written in every owning cluster; buffer 1 follows buffer 0. -/
def Hw.bufferWrite (h : Hw) (x : ExpConf) (recs : List DRec) (i : Nat) (bad : List Nat) : Hw :=
  let bs := indexBuffer x recs i
  let slots := badSlots x recs i bad
  x.clusters.foldl (fun h k => foldUp ((bs.length + 31) / 32) (fun w h =>
    let l := (bs.drop (32 * w)).take 32
    h.sput (sramCluster k + x.ibuf + i % 2 * (32 + 16 * x.cap) + 32 * w) l.length (leNat l) (slots.any fun j => (32 + 16 * j) / 32 == w)) h) h

/-! ## Closing and freeing (R176, R177, R179, R180) -/

/-- A source is complete: its marker has arrived, with as many records as it states. -/
def DrlSrc.complete (s : DrlSrc) : Bool := s.marker == some s.got

/-- Every declared source is complete. -/
def DrlEpoch.complete (e : DrlEpoch) (d : DispConf) : Bool :=
  decide (((List.range 64).filter fun c => (e.src c).complete).length ≥ d.producers) && d.peers.all fun n => (e.src (64 + n)).complete

/-- What the close does for one local expert (R177), in order. -/
def Hw.closeExpert (h : Hw) (e : Nat) (x : ExpConf) : Hw :=
  let half := x.entry / 128
  let s := (h.epoch e).exp x.entry
  let n := s.recs.length
  let r := (n + x.cap - 1) / x.cap
  let cores := h.expCores x
  let h := (expAll x).foldl (fun h c =>
    (h.modCore c fun y => { y with s := tset (fun _ => 0#32) y.s x.sreg (BitVec.ofNat 32 r) }).pWrite c x.preg 2 (BitVec.ofNat 32 r)) h
  let h := foldUp (min r 2) (fun i h => h.bufferWrite x s.recs i []) h
  let h := cores.foldl (fun h c => h.drlSignal half c x.ready (min r 2)) h
  let h := cores.foldl (fun h c => h.drlSignal half c x.done 1) h
  let h := h.modEpoch e fun y => y.setExp x.entry { s with total := r, rounds := min r 2 }
  let h := h.puts [(DRL_EXP.COUNT half (x.entry % 128), n), (DRL_EXP.ROUNDS half (x.entry % 128), r), (DRL_EXP.DONE_ROUNDS half (x.entry % 128), 0)]
  h.put (DRL_EPOCH.ROUNDS_MAX half) (max (h.get (DRL_EPOCH.ROUNDS_MAX half)) (min r 65535))

/-- Rounds of an expert whose consume signals are complete. -/
def DrlExp.doneRounds (s : DrlExp) (x : ExpConf) : Nat := min s.total (s.consumed / x.consumers)

/-- The oldest epoch closed where it is complete, and freed where every round of it has been consumed; then the next one (R176, R180). -/
def Hw.drlAdvance (h : Hw) (d : DispConf) : Nat → Hw
  | 0 => h.drlShow d
  | n + 1 =>
    let e := h.oldest
    let ep := h.epoch e
    if ¬ ep.closed ∧ ¬ ep.complete d then h.drlShow d
    else
      let h := if ep.closed then h
        else d.experts.foldl (fun h x => h.closeExpert e x) ((foldUp 2 (fun k h => h.put (DRL_EPOCH.ROUNDS_MAX k) 0) h).modEpoch e fun y => { y with closed := true })
      if d.experts.all fun x => ((h.epoch e).exp x.entry).doneRounds x == ((h.epoch e).exp x.entry).total then
        let h := h.modEpoch e fun _ => {}
        (foldUp 2 (fun k h => h.put (DRL_EPOCH.EPOCH k) ((e + 1) % 4)) h).drlAdvance d n
      else h.drlShow d

/-! ## Forwards (R183, R184) -/

/-- Records held for a node, behind those that already are. -/
def Hw.drlHold (h : Hw) (node : Nat) (recs : List DRec) : Hw :=
  h.modDrl fun d => { d with held := tset (fun _ => []) d.held node (tget (fun _ => []) d.held node ++ recs) }

/-- Payload and poison bits of a DRL flit that carries these records. -/
def drlPayload (l : List DRec) : Nat × Nat :=
  (l.foldr (fun r acc => r.toNat % 2 ^ 128 + 2 ^ 128 * acc) 0,
   (List.range 8).foldl (fun a j => a + bnat (((l.drop (2 * j)).take 2).any recMark) * 2 ^ j) 0)

/-- Records sent to a node in DRL flits of up to 16; an unreachable node's are held, and those for which the tracker has no entry, whose response could
not be reserved (R356), until the next retry. Hub 0 shows UNREACH, is the event's source and lends its tracker (DESIGN CHOICE, log 55). -/
def Hw.drlSend (h : Hw) (node : Nat) (recs : List DRec) : Hw :=
  if ¬ h.reachable node then
    let old := tget (fun _ => []) h.drl.held node
    ((h.drlHold node recs).mark (DRL_STAT.UNREACH 0)).ev 0x303 1 6 0 node (old.length + recs.length)
  else
    foldUp ((recs.length + 15) / 16) (fun i h =>
      let l := (recs.drop (16 * i)).take 16
      match h.freeTx 0 with
      | none => h.drlHold node l
      | some t =>
        let (p, poison) := drlPayload l
        (h.takeTx t (.drl node l)).sendFlit (mkFlit 6 node h.node l.length (2 ^ ((l.length + 1) / 2) - 1) t 0 0 0 (BitVec.ofNat 2048 p) poison)) h

/-- DRL_FORWARD_RETRY (R184). -/
def execDrlForwardRetry (node : Node) (s : State) : Host.Outcome State Fault Refusal :=
  let h := s.hw
  let l := tget (fun _ => []) h.drl.held node.toNat
  if l.isEmpty ∨ h.pllOff ∨ ¬ h.reachable node.toNat then done s h
  else done s ((h.modDrl fun d => { d with held := tset (fun _ => []) d.held node.toNat [] }).drlSend node.toNat l)

/-- Every local producer of an epoch is complete: its end markers go to every peer, once. -/
def Hw.drlMarkers (h : Hw) (d : DispConf) (e : Nat) : Hw :=
  let ep := h.epoch e
  if ep.marked ∨ ((List.range 64).filter fun c => (ep.src c).complete).length < d.producers then h
  else
    let h := h.modEpoch e fun y => { y with marked := true }
    d.peers.foldl (fun h n => h.drlSend n [endMarker (tget (fun _ => 0) ep.sent n) e h.node]) h

/-! ## Intake (R175, R180 to R182) -/

/-- DRL_BADEXP: a record placed nowhere; hub 0 shows it (DESIGN CHOICE, log 55). -/
def Hw.badExp (h : Hw) (r : DRec) : Hw := (h.mark (DRL_STAT.BADEXP 0)).ev 0x302 1 6 0 (recToken r + recExpert r * 2 ^ 32) (recNode r)

/-- A second end marker whose epoch has closed, the oldest one or the one before it: it is placed nowhere, and keeps no epoch (R182). -/
def Hw.lateMarker (h : Hw) (src : Nat) (r : DRec) : Bool :=
  recExpert r == 0xFFFF && ((recEpoch r == h.oldest && (h.epoch h.oldest).closed && ((h.epoch h.oldest).src src).marker.isSome) ||
    recEpoch r == (h.oldest + 3) % 4)

/-- A record taken in. -/
def Hw.intake (h : Hw) (d : DispConf) (src : Nat) (r : DRec) : Hw :=
  let e := recEpoch r
  let late := h.lateMarker src r
  let r := if src < 64 then recFrom r h.node else r
  let s := (h.epoch e).src src
  let setSrc := fun (h : Hw) (s : DrlSrc) => h.modEpoch e fun y => { y with srcs := tset (fun _ => {}) y.srcs src s }
  if late then h.badExp r
  else if recExpert r = 0xFFFF ∧ s.marker.isNone then (setSrc h { s with marker := some (recToken r) }).drlMarkers d e
  else
    let h := setSrc h { s with got := s.got + 1 }
    let h := match d.routes.find? fun x => x.1 == recExpert r with
      | none => h.badExp r
      | some (_, node, ent) =>
        if node ≠ h.node then
          (h.modEpoch e fun y => { y with sent := tset (fun _ => 0) y.sent node (tget (fun _ => 0) y.sent node + 1) }).drlSend node [r]
        else match expertOf d ent with
          | none => h.badExp r
          | some _ =>
            let x := (h.epoch e).exp ent
            (h.modEpoch e fun y => { y.setExp ent { x with recs := x.recs ++ [r] } with count := y.count + 1 }).count (TEL_EXP.RECORDS (ent / 128) (ent % 128)) 1
    h.drlMarkers d e

/-- A record that would be placed in one of this node's bins. -/
def Hw.placedHere (h : Hw) (d : DispConf) (r : DRec) : Bool :=
  recExpert r != 0xFFFF && match d.routes.find? fun x => x.1 == recExpert r with
    | some (_, node, ent) => node == h.node && (expertOf d ent).isSome
    | none => false

/-- A record of an epoch that the derailleur holds open: the oldest one or the next. -/
def Hw.inOpen (h : Hw) (r : DRec) : Bool :=
  (recEpoch r == h.oldest || recEpoch r == (h.oldest + 1) % 4) && !(h.epoch (recEpoch r)).closed && !(h.epoch (recEpoch r)).full

/-- Whether a record of a source can be taken in now: an open epoch (R180) that M records would still hold (R181), or a late marker. -/
def Hw.mayTake (h : Hw) (d : DispConf) (src : Nat) (r : DRec) : Bool :=
  h.lateMarker src r || (h.inOpen r && (!h.placedHere d r || decide ((h.epoch (recEpoch r)).count < d.limit)))

/-- Records that stand at intake: an epoch to which more than M belong sets OVER, once, and takes in none of its records any more (R181). Hub 0 shows it
(DESIGN CHOICE, log 55). -/
def Hw.drlOver (h : Hw) (d : DispConf) (l : List DRec) : Hw :=
  l.foldl (fun h r =>
    let e := recEpoch r
    if h.inOpen r ∧ h.placedHere d r ∧ (h.epoch e).count ≥ d.limit then
      ((h.modEpoch e fun y => { y with full := true }).mark (DRL_STAT.OVER 0)).ev 0x301 2 6 0 e d.limit
    else h) h

/-- A tile of records that core `c` offers: they stand at intake once its last tile's have all been taken in and one of these can be; each is acknowledged
as it is taken in, and one without credit waits there, its core with it (R180). -/
def Hw.drlOffer (h : Hw) (c : Nat) (l : List DRec) : Bool × Hw :=
  match h.disp with
  | none => (false, h)
  | some d =>
    if h.drl.queue.any fun x => x.1 == c then (false, h)
    else if l.any fun r => h.mayTake d c r then (true, h.modDrl fun x => { x with queue := x.queue ++ l.map fun r => (c, r) })
    else (false, h.drlOver d l)

/-- A record of a local core has been taken in: its DRAIN's write is acknowledged (R276, R280). -/
def Hw.drlTaken (h : Hw) (src : Nat) : Hw :=
  if src ≥ 64 then h
  else match (h.core src).armed.find? fun a => bitsOf a.rcd.toNat 9 2 == 1 && a.acks != 0 with
    | some a => h.stored src a.id
    | none => h

/-- DRL_RECORD_INTAKE: the oldest record that can be taken in (R175). -/
def execDrlRecordIntake (s : State) : Host.Outcome State Fault Refusal :=
  let h := s.hw
  match if h.pllOff then none else h.disp with
  | none => done s h
  | some d =>
    match h.drl.queue.find? fun x => h.mayTake d x.1 x.2 with
    | none => done s (h.drlOver d (h.drl.queue.map (·.2)))
    | some (src, r) =>
      let h := ((h.modDrl fun x => { x with queue := x.queue.erase (src, r) }).intake d src r).drlTaken src
      done s ((h.drlOver d (h.drl.queue.map (·.2))).drlAdvance d 2)

/-! ## Rounds (R179) -/

/-- `amt` consume signals counted for local entry `ent`. -/
def Hw.consume (h : Hw) (ent amt : Nat) : Hw :=
  match h.disp with
  | none => h
  | some d => match expertOf d ent with
    | none => h
    | some x =>
      let e := h.oldest
      let s := (h.epoch e).exp ent
      if ¬ (h.epoch e).closed ∨ s.consumed ≥ s.total * x.consumers then h
      else
        let s' := { s with consumed := min (s.total * x.consumers) (s.consumed + amt) }
        let h := h.modEpoch e fun y => y.setExp ent s'
        let h := h.count (TEL_EXP.ROUNDS (ent / 128) (ent % 128)) (s'.doneRounds x - s.doneRounds x)
        (h.put (DRL_EXP.DONE_ROUNDS (ent / 128) (ent % 128)) (min 4095 (s'.doneRounds x))).drlAdvance d 2

/-- DRL_CONSUME_SIGNAL. -/
def execDrlConsumeSignal (ent : Fin 256) (s : State) : Host.Outcome State Fault Refusal := done s (s.hw.consume ent 1)

/-- DRL_REFILL_DONE: the next round that exists and whose buffer is consumed has been written, and READY rises. -/
def execDrlRefillDone (r : Refill) (s : State) : Host.Outcome State Fault Refusal :=
  let h := s.hw
  let ent := r.ent
  match if h.pllOff then none else h.disp with
  | none => done s h
  | some d => match expertOf d ent with
    | none => done s h
    | some x =>
      let e := h.oldest
      let y := (h.epoch e).exp ent
      if ¬ (h.epoch e).closed ∨ y.rounds ≥ y.total ∨ y.rounds ≥ y.doneRounds x + 2 then done s h
      else
        let h := (h.bufferWrite x y.recs y.rounds (r.bad.map (·.val))).modEpoch e fun z => z.setExp ent { y with rounds := y.rounds + 1 }
        done s (((h.expCores x).foldl (fun h c => h.drlSignal (ent / 128) c x.ready 1) h).count (TEL_HUB.SPILL_RD (ent / 128)) 1)

end Sys2Proof.Machine
end

