-- ==== Sys2Proof/Machine/Signal.lean ====
section
/-!
DEFINITION. Signals that a core's streams send (R244 to R246, R292, R296 to R298): own objects, signal routes, and deferral by fences. Streams are numbered 0 execute, 1 access, 2 scalar.
-/
namespace Sys2Proof.Machine

/-! ## Sending (R244, R245) -/

/-- A signal through route word `r`: 0, or the halt code of the signaller. A fused group's objects are its leader's (R230). -/
def Hw.routeSignal (h : Hw) (r c st pc amt : Nat) : Nat × Hw :=
  let kind := bitsOf r 1 2
  let target := bitsOf r 8 8
  let obj := bitsOf r 16 6
  if ¬ bitAt r 0 ∨ kind = 3 ∨ bitsOf r 3 5 ≠ 0 ∨ bitsOf r 22 42 ≠ 0 then (0x02, h)
  else if kind = 0 then
    if target > 63 ∨ obj > 47 then (0x02, h) else h.objAdd (h.leader target) obj amt ⟨st + 1, c, h.node, pc⟩
  else if obj ≠ 0 then (0x02, h)
  else if kind = 1 then (if target > 63 ∨ amt ≠ 1 then (0x02, h) else h.coreArrive (h.leader c) target)
  else (0, h.consume target amt)

/-- A signal sent at once (R244): 0, or the halt code of the signaller. -/
def Hw.sendSignal (h : Hw) (c st pc kind idx amt : Nat) : Nat × Hw :=
  if kind = 0 then (0, h)
  else if kind = 1 then h.objAdd (h.leader c) idx amt ⟨st + 1, c, h.node, pc⟩
  else if kind = 3 then h.objSub (h.leader c) idx amt ⟨st + 1, c, h.node, pc⟩
  else h.routeSignal (h.route c idx) c st pc amt

/-! ## Deferral (R280, R296, R297) -/

/-- An entry is complete: no position pending or late (R210). -/
def QEnt.complete (e : QEnt) : Bool := e.slots.all fun s => s.pending == 0 && s.late == 0

/-- Every entry that an access word allocated and that is still queued is complete. -/
def CoreSt.entsComplete (s : CoreSt) (id : Nat) : Bool :=
  (List.range 6).all fun q => (s.queue q).all fun e => e.word != some id || e.complete

/-- The work of an access word is done as a fenced signal needs it (R280). -/
def CoreSt.workDone (s : CoreSt) (id : Nat) : Bool :=
  (match s.armedOf id with
    | some a => a.done && a.carry.isNone && a.acks == 0 && (a.drain || s.entsComplete id)
    | none => true) &&
  (match s.dmas.find? fun d => d.id == id with
    | some d => d.ended
    | none => true)

/-- Every write of every earlier DRAIN and DMA word is acknowledged (R280); where `batches`, every earlier batch has completed too (R279). -/
def CoreSt.beforeDone (s : CoreSt) (id : Nat) (batches : Bool) : Bool :=
  (s.armed.all fun a => !a.drain || decide (a.id ≥ id) || (a.done && a.carry.isNone && a.acks == 0)) &&
    s.dmas.all fun d => decide (d.id ≥ id) || d.ended || (!batches && d.written)

/-- Whether a deferred signal of a stream of core `c` may be sent. -/
def Hw.condMet (h : Hw) (c : Nat) : DefCond → Bool
  | .now => true
  | .atCycle n => decide (h.get (CORE_CYCLE.CYCLE (h.leader c)) ≥ n)
  | .ofWord id => (h.core c).workDone id
  | .before id => (h.core c).beforeDone id false
  | .accepted id => match (h.core c).dmas.find? fun d => d.id == id with
    | some d => d.accepted
    | none => true

def CoreSt.deferred (s : CoreSt) (st : Nat) : List DefSig := if st = 0 then s.xdef else s.adef
def CoreSt.setDeferred (s : CoreSt) (st : Nat) (l : List DefSig) : CoreSt := if st = 0 then { s with xdef := l } else { s with adef := l }

/-- The signal of a word that issues: none, sent, or deferred behind its condition and the stream's earlier signals. -/
def Hw.wordSignal (h : Hw) (c st pc kind idx amt : Nat) (cond : DefCond) (tag : Option Nat) : Nat × Hw :=
  if kind = 0 then (0, h)
  else if ((h.core c).deferred st).isEmpty ∧ h.condMet c cond then h.sendSignal c st pc kind idx amt
  else (0, h.modCore c fun s => s.setDeferred st (s.deferred st ++ [⟨kind, idx, amt, pc, cond, tag⟩]))

/-- The oldest deferred signal of a stream sent where its condition holds and the core's clocks run or it has faulted (R235). -/
def Hw.deferredSend (h : Hw) (c st : Nat) : Hw :=
  if h.flag (CORE_STAT.BROKEN (h.leader c)) ∨ h.flag (CORE_STAT.HOLD (h.leader c)) then h
  else match (h.core c).deferred st with
    | [] => h
    | d :: rest =>
      if ¬ h.condMet c d.cond then h
      else
        let (code, h) := (h.modCore c fun s => s.setDeferred st rest).sendSignal c st d.pc d.kind d.idx d.amt
        if code = 0 then h else h.halt c code { stream := st, pc := d.pc, tag := d.tag }

/-- DEFERRED_SIGNAL_SEND (R297). -/
def execDeferredSignalSend (c : Fin 64) (stream : Fin 2) (s : State) : Host.Outcome State Fault Refusal := done s (s.hw.deferredSend c stream)

/-! ## SIGNAL_ARRIVE (R293) -/

/-- A signal from outside the core applied to its object, or what its failure does to its source (R292, R300, R310). -/
def Hw.signalArrive (h : Hw) (c obj amt : Nat) (src : SigSource) : Hw :=
  let l := h.leader c
  let (code, h') := h.objAdd l obj amt src
  if code = 0 then h'
  else match src.src with
    | 1 => h.halt src.core code { stream := 0, pc := src.addr }
    | 2 => h.halt src.core code { stream := 1, pc := src.addr }
    | 3 => h.halt src.core code { stream := 2, pc := src.addr }
    | 4 => h.chanStop src.core code
    | 5 => h.drlSignal (c / 32) l obj amt
    | _ => h.ev 0x402 1 3 c (obj + code * 2 ^ 8) src.node

/-- SIGNAL_ARRIVE: from another core's stream, a DMA channel, the derailleur or a remote module. -/
def execSignalArrive (c : Fin 64) (obj : Fin 48) (amount : BitVec 32) (src : SigSource) (s : State) : Host.Outcome State Fault Refusal :=
  if src.src = 0 ∨ src.src > 6 then done s s.hw else done s (s.hw.signalArrive c obj amount.toNat src)

/-- CREDIT_DEADLOCK (R309): the unit's head request has been refused for DL_PERIOD, or its core has been held that long. -/
def execCreditDeadlock (unit : CreditUnit) (target : BitVec 16) (s : State) : Host.Outcome State Fault Refusal :=
  let h := s.hw
  match unit with
  | .core c =>
    let l := h.leader c
    if ¬ h.flag (CORE_STAT.RUN l) ∨ h.flag (CORE_STAT.BROKEN l) ∨ ¬ ((h.core c).portWait ∨ (h.core l).hold.isSome ∨ (h.core l).imgHold) then done s h
    else
      let h := h.ev 0x403 2 3 c target.toNat 0
      done s (if ¬ (h.core c).portWait then h.halt c 0x10 { stream := 0, pc := (h.core l).xpc } else h.halt c 0x10 { stream := 1, pc := (h.core c).apc })
  | .chan k => if (h.chan k).run.isNone then done s h else done s ((h.ev 0x403 2 10 k target.toNat 0).chanStop k 0x10)

end Sys2Proof.Machine
end

