-- ==== Sys2Proof/Machine/Desc.lean ====
section
/-!
DEFINITION. Tensor descriptors (R187 to R207): fields, structural checks, element addresses, bounds, translation and protection of engine-view
accesses.
-/
namespace Sys2Proof.Machine

abbrev Desc := BitVec 512

/-! ## Fields (R190) -/

def Desc.valid (d : Desc) : Bool := bitAt d.toNat 0
def Desc.rank (d : Desc) : Nat := bitsOf d.toNat 1 3
def Desc.type (d : Desc) : Nat := bitsOf d.toNat 4 4
def Desc.sparse (d : Desc) : Nat := bitsOf d.toNat 8 3
def Desc.block (d : Desc) : Nat := bitsOf d.toNat 11 2
def Desc.skips (d : Desc) : Bool := bitAt d.toNat 13
def Desc.propagate (d : Desc) : Bool := bitAt d.toNat 14
def Desc.space (d : Desc) : Nat := bitsOf d.toNat 15 3
def Desc.region (d : Desc) : Nat := bitsOf d.toNat 18 4
def Desc.rchk (d : Desc) : Bool := bitAt d.toNat 22
/-- The region that every device address must lie in, if any (R196). -/
def Desc.askRegion (d : Desc) : Option Nat := if d.rchk then some d.region else none
def Desc.side (d : Desc) : Nat := bitsOf d.toNat 23 8
def Desc.vbase (d : Desc) : Nat := bitsOf d.toNat 32 48
def Desc.sbase (d : Desc) : Nat := bitsOf d.toNat 80 48
def Desc.limit (d : Desc) : Nat := bitsOf d.toNat 128 36
/-- Size of dimension `k`: 1 at or above RANK. -/
def Desc.size (d : Desc) (k : Nat) : Nat := if k < d.rank then bitsOf d.toNat (164 + 26 * k) 26 else 1
/-- Stride of dimension `k`. -/
def Desc.stride (d : Desc) (k : Nat) : Nat :=
  if k ≥ d.rank then 0 else if k = 0 then bitsOf d.toNat 320 12 else bitsOf d.toNat (332 + 34 * (k - 1)) 34
def Desc.bits (d : Desc) : Nat := typeBits d.type
def Desc.elems (d : Desc) : Nat := (List.range 6).foldl (fun n k => n * d.size k) 1

/-- A type with a block scale (R124). -/
def isMx (t : Nat) : Bool := decide (6 ≤ t) && decide (t ≤ 0xB)
/-- An integer type of the tensor unit. -/
def isInt8 (t : Nat) : Bool := t == 5 || t == 0xB

/-- Types and formats the sparse front end admits together (R151). -/
def sparseAdmits (t s : Nat) : Bool :=
  if s = 0 then true
  else if t = 0 ∨ t = 0xC ∨ t = 0xD then false
  else if t = 1 ∨ t = 2 then s == 4
  else decide (s ≤ 4)

/-- Packed strides of the same sizes (R193). -/
def Desc.packedStride (d : Desc) (k : Nat) : Nat := (List.range k).foldl (fun n j => n * d.size j) 1

/-- The structural checks of R193: 0, or the first code that applies. `accept` are the types the operation takes, `written` whether the
descriptor is written through. -/
def Desc.check (d : Desc) (accept : Nat → Bool) (written : Bool) : Nat :=
  let t := d.type
  let s := d.sparse
  let dims := List.range d.rank
  let narrow := isMx t || decide (d.bits < 8) || s != 0
  if ¬ d.valid then 0x03
  else if d.rank = 0 ∨ d.rank = 7 ∨ d.space ≥ 5 ∨ dims.any fun k => d.size k == 0 then 0x03
  else if t ≥ 0xE ∨ s ≥ 5 ∨ ¬ sparseAdmits t s ∨ ¬ accept t then 0x14
  else if d.block ≠ (if s = 4 then 2 else if isMx t then 1 else 0) then 0x14
  else if d.vbase % (if narrow then 32 else d.bits / 8) ≠ 0 then 0x03
  else if narrow ∧ (d.stride 0 ≠ 1 ∨ d.size 0 % 32 ≠ 0 ∨ dims.any fun k => k != 0 && d.stride k % 32 != 0) then 0x03
  else if s ≠ 0 ∧ (dims.any fun k => d.stride k != d.packedStride k) then 0x03
  else if s = 4 ∧ (d.rank < 2 ∨ d.size 1 % 32 ≠ 0) then 0x03
  else if written ∧ dims.any fun k => decide (d.size k > 1) && d.stride k == 0 then 0x03
  else 0

/-- Descriptor `n` of core `c` (R187), as a latch of the present cycle sees it: before a scalar store of this cycle (R188). -/
def Hw.descOf (h : Hw) (c n : Nat) : Desc :=
  let d : Desc := BitVec.ofNat 512 (h.sread (sramScalar c + 0xC000 + 64 * n) 64)
  match (h.core c).sold with
  | some (at', sub, x, old) =>
    if at' = h.get (CORE_CYCLE.CYCLE c) ∧ (h.core c).sub ≤ sub + 1 ∧ x / 64 = 0xC000 / 64 + n then
      let m : Desc := BitVec.ofNat 512 ((2 ^ 32 - 1) * 2 ^ (x % 64 * 8))
      (d &&& ~~~ m) ||| BitVec.ofNat 512 (old.toNat * 2 ^ (x % 64 * 8))
    else d
  | none => d

/-- Bits set among the low `n` of `v`. -/
def popCount (v n : Nat) : Nat := ((List.range n).filter fun i => bitAt v i).length

/-- Tile `no` of a transposing copy in its staging area (R201): `whole` bytes make a full tile, `bytes` this one. -/
def Hw.stageTile (h : Hw) (base no whole bytes : Nat) : Hw :=
  h.free.2.swrite (base + (if whole ≤ 0x4000 then no % 2 * 0x4000 else 0)) bytes h.free.1

/-! ## Addresses and bounds (R191, R192, R195) -/

/-- Bytes of an address space; device memory has no end here. -/
def spaceEnd (space : Nat) : Nat :=
  if space = 0 then 2 ^ 48 else if space = 1 then 0x100000 else if space = 2 then 0x1000000 else if space = 3 then 0x8000000 else 0x30000

/-- SRAM address of a byte of spaces 1 to 4, as core `c` sees it, in engine `e`. -/
def spaceBase (c e space : Nat) : Nat :=
  if space = 1 then sramCore c else if space = 2 then sramCluster (c / 4) else if space = 3 then sramHub else sramEng (8 * c + e)

/-- Bit address of the element with indices `i`, from base `b`. -/
def Desc.bitAddr (d : Desc) (b : Nat) (i : List Nat) : Nat :=
  b * 8 + (List.range d.rank).foldl (fun e k => e + i.getD k 0 * d.stride k) 0 * d.bits

/-- Why an element is out of bounds, with DIM (R207): the first dimension whose index is not below its size, or 7 for the window. -/
def Desc.bounds (d : Desc) (b : Nat) (i : List Int) : Option Nat :=
  match (List.range 6).find? fun k => decide (i.getD k 0 < 0) || decide (i.getD k 0 ≥ d.size k) with
  | some k => some k
  | none =>
    let a := d.bitAddr b (i.map Int.toNat)
    let e := (a + d.bits + 7) / 8
    if e ≤ b + d.limit * 32 ∧ (d.space = 0 ∨ e ≤ spaceEnd d.space) then none else some 7

/-! ## Scale plane (R194) -/

/-- Offset of the scale of an element from SBASE. -/
def Desc.scaleOff (d : Desc) (i : List Nat) : Nat :=
  let m := d.size 0 / 32
  ((List.range d.rank).foldl (fun (a : Nat × Nat) k =>
    if k = 0 then a else (a.1 + i.getD k 0 * a.2, a.2 * d.size k)) (i.getD 0 0 / 32, m)).1

/-! ## Translation and protection (R37 to R39, R196) -/

/-- Where an access goes: a miss of the translation cache, a failure with its code and what the map logs, SRAM, a column, host memory. -/
inductive Where where
  | miss (page : Nat)
  | fail (code : Nat) (res : MapRes) (dpa : Nat)
  | sram (a : Nat)
  | dram (col off dpa : Nat)
  | host (addr : Nat)
  deriving DecidableEq, Repr

/-- A level-2 entry's outcome for byte `a`. -/
def Hw.protect (h : Hw) (e : W64) (d : Desc) (a : Nat) (write : Bool) : Where :=
  if ¬ e.getLsbD 0 then .fail 0x05 .hole 0
  else
    let dpa := bitsOf e.toNat 21 19 * 2 ^ 21 + a % 2 ^ 21
    match h.mapAccess dpa (if write then .ew else .er) true with
    | .hole => .fail 0x06 .hole dpa
    | .perm => .fail 0x06 .perm dpa
    | r =>
      if (write ∧ e.getLsbD 1) ∨ (d.rchk ∧ h.regionOf dpa ≠ some d.region) then .fail 0x06 .perm dpa
      else match r with
        | .hostMem x => .host x
        | .at' c o => .dram c o dpa
        | _ => .fail 0x06 .hole dpa

/-- Where byte `a` of a descriptor's space lies for core `c`, engine `e`, under a translation cache. -/
def Hw.locate (h : Hw) (tlb : Tab (Option W64)) (c e : Nat) (d : Desc) (a : Nat) (write : Bool) : Where :=
  if d.space ≠ 0 then .sram (spaceBase c e d.space + a)
  else match tget (fun _ => none) tlb (a / 2 ^ 21) with
    | none => .miss (a / 2 ^ 21)
    | some w => h.protect w d a write

/-- A double word of the device reserve, read for requester `req`. -/
def Hw.rsvRead64 (h : Hw) (dpa req : Nat) : Nat × Hw :=
  match h.placeOf dpa with
  | none => (0, h)
  | some (c, o) =>
    let (w, _, h) := h.fread c (o / 32) req
    (bitsOf w.toNat (dpa % 32 * 8) 64, h)

/-- Both levels walked for virtual page `p` (R37, R39): the level-2 entry, or 0 where a level is not valid. -/
def Hw.walk (h : Hw) (p req : Nat) : W64 × Hw :=
  if ¬ h.flag MAP_PTROOT.PTV then (0, h)
  else
    let (e1, h) := h.rsvRead64 (h.get MAP_PTROOT.ROOT * 2 ^ 12 + p / 2 ^ 15 % 4096 * 8) req
    if ¬ bitAt e1 0 then (0, h)
    else
      let (e2, h) := h.rsvRead64 (bitsOf e1 12 28 * 2 ^ 12 + p % 2 ^ 15 * 8) req
      (if bitAt e2 0 then BitVec.ofNat 64 e2 else 0, h)

/-- What a failed access logs (R39, R196). -/
def Hw.logFail (h : Hw) (w : Where) (req : Nat) : Hw :=
  match w with
  | .fail 0x06 r dpa => h.mapEvent r dpa req
  | _ => h

end Sys2Proof.Machine
end

