-- ==== Sys2Proof/Machine/Scalar.lean ====
section
/-!
DEFINITION. The scalar processor (R224 to R226, R263 to R265): one command per operation. A command runs the instruction at the core's scalar
pc where it is that operation; an illegal word halts the core whichever operation is named, and another operation leaves the state as it is.
-/
namespace Sys2Proof.Machine

/-! ## Fields (R263) -/

def scOp (w : W32) : Nat := bitsOf w.toNat 0 6
def scD (w : W32) : Nat := bitsOf w.toNat 6 5
def scA (w : W32) : Nat := bitsOf w.toNat 11 5
def scB (w : W32) : Nat := bitsOf w.toNat 16 5
def scFunc (w : W32) : Nat := bitsOf w.toNat 21 11
def scImm (w : W32) : Nat := bitsOf w.toNat 16 16
/-- IMM16 sign-extended. -/
def scSimm (w : W32) : W32 := BitVec.ofInt 32 (signed 16 (scImm w))

/-- Whether a word is a legal instruction (R264): a listed operation whose unused fields and bits are 0. -/
def scLegal (w : W32) : Bool :=
  let d := scD w == 0
  let a := scA w == 0
  let b := scB w == 0
  let i := scImm w
  match scOp w with
  | 0x01 => decide (scFunc w ≤ 13)
  | 0x02 => decide (scFunc w ≤ 11) && (b || !(scFunc w == 4 || scFunc w == 10 || scFunc w == 11))
  | 0x08 => true | 0x09 => true | 0x0A => true | 0x0B => true
  | 0x0C => a
  | 0x10 => true | 0x11 => true
  | 0x18 => true | 0x19 => true | 0x1A => true | 0x1B => true | 0x1C => true | 0x1D => true
  | 0x1E => a
  | 0x1F => d && b && scFunc w == 0
  | 0x20 => a && decide (i < 32)
  | 0x21 => d && decide (i < 32)
  | 0x22 => d && decide (i < 256) && (if i % 4 = 0 then a && i == 0 else if i % 4 = 2 then true else decide (i / 4 < 48))
  | 0x23 => d && decide (i < 256) && (if i % 4 = 0 then a && i == 0 else if i % 4 = 3 then a else decide (i / 4 < 48))
  | 0x24 => d && decide (i < 2)
  | 0x25 => decide (i < 8)
  | 0x26 => a && decide (i < 2)
  | 0x27 => a && i == 0
  | 0x28 => d && a && i == 0
  | _ => false

/-- Registers an instruction reads (R264). -/
def scReads (w : W32) : List Nat :=
  match scOp w with
  | 0x01 => [scA w, scB w]
  | 0x02 => if scFunc w = 4 ∨ scFunc w = 10 ∨ scFunc w = 11 then [scA w] else [scA w, scB w]
  | 0x08 => [scA w] | 0x09 => [scA w] | 0x0A => [scA w] | 0x0B => [scA w] | 0x10 => [scA w]
  | 0x11 => [scD w, scA w]
  | 0x18 => [scD w, scA w] | 0x19 => [scD w, scA w] | 0x1A => [scD w, scA w] | 0x1B => [scD w, scA w] | 0x1C => [scD w, scA w] | 0x1D => [scD w, scA w]
  | 0x1F => [scA w] | 0x21 => [scA w]
  | 0x22 => if scImm w % 4 = 0 then [] else [scA w]
  | 0x23 => if scImm w % 4 = 1 ∨ scImm w % 4 = 2 then [scA w] else []
  | 0x24 => [scA w]
  | 0x25 => [scD w, scA w]
  | _ => []

/-! ## Registers and the pc -/

def Hw.sreg (h : Hw) (c i : Nat) : W32 := tget (fun _ => 0#32) (h.core c).s i
/-- A scalar write of an s register; an S-slot write of the same cycle stands against it (R225). -/
def Hw.setSreg (h : Hw) (c i : Nat) (v : W32) : Hw :=
  let s := h.core c
  if tget (fun _ => none) s.sLast i = some (h.get (CORE_CYCLE.CYCLE c), s.sub) then h
  else h.setCore c { s with s := tset (fun _ => 0#32) s.s i v }
def Hw.setSpc (h : Hw) (c pc : Nat) : Hw := h.modCore c fun s => { s with spc := pc }
/-- The pc moved past the instruction. -/
def Hw.scNext (h : Hw) (c : Nat) : Hw := h.setSpc c ((h.core c).spc + 4)

/-- The end of the scalar area (R208). -/
def Hw.scEnd (h : Hw) (c : Nat) : Nat := h.get (CORE_IMEM.EXEC_BASE c) * 64

def Hw.scHalt (h : Hw) (c code : Nat) : Hw := h.halt c code { stream := 2, pc := (h.core c).spc }

/-- The instruction at the scalar pc. -/
def Hw.scWord (h : Hw) (c : Nat) : W32 := BitVec.ofNat 32 (h.sread (sramImem c + (h.core c).spc) 4)

/-- The core's clocks run: it is running, and neither held, broken nor without a clock. -/
def Hw.clocked (h : Hw) (c : Nat) : Bool :=
  h.flag (CORE_STAT.RUN c) && !h.flag (CORE_STAT.HOLD c) && !h.flag (CORE_STAT.BROKEN c) && !(h.core c).faulted && !h.pllOff

/-- A result of the S slot is on its way to an s or p register the instruction reads (R224, R225). -/
def Hw.scStalls (h : Hw) (c : Nat) (w : W32) : Bool :=
  (h.core c).lands.any fun x => match x.dest with
    | .sreg i => (scReads w).contains i
    | .preg i => scOp w == 0x20 && scImm w == i
    | _ => false

/-- The instruction at the scalar pc run where it is the wanted one: `want` tells it, `f` is its effect. It ends its core's part of the cycle (log 56). -/
def Hw.scalar (h : Hw) (c : Nat) (want : W32 → Bool) (f : W32 → Hw → Hw) : Hw :=
  if ¬ h.clocked c ∨ (h.core c).sst ≠ .running then h
  else if (h.core c).spc + 4 > h.scEnd c then h.scHalt c 0x02
  else
    let w := h.scWord c
    if ¬ scLegal w then h.scHalt c 0x01
    else if ¬ want w ∨ h.scStalls c w then h
    else (f w h).modCore c fun s => { s with sub := s.sub + 1 }

def isOp (op : Nat) (w : W32) : Bool := scOp w == op
def isFunc (op func : Nat) (w : W32) : Bool := scOp w == op && scFunc w == func

/-- s[D] = f (s[A]) (s[B]). -/
def Hw.scAlu (h : Hw) (c op func : Nat) (f : W32 → W32 → W32) : Hw :=
  h.scalar c (isFunc op func) fun w h => (h.setSreg c (scD w) (f (h.sreg c (scA w)) (h.sreg c (scB w)))).scNext c

/-- s[D] = f (s[A]) (instruction). -/
def Hw.scImmOp (h : Hw) (c op : Nat) (f : W32 → W32 → W32) : Hw :=
  h.scalar c (isOp op) fun w h => (h.setSreg c (scD w) (f (h.sreg c (scA w)) w)).scNext c

/-- The shift amount: the low 5 bits of B. -/
def shamt (b : W32) : Nat := b.toNat % 32

/-- What a compare writes: 1 or 0. -/
def b32 (b : Bool) : W32 := if b then 1 else 0
/-- A jump to an offset: outside the scalar area it halts with 0x02 (R265). -/
def Hw.scJump (h : Hw) (c : Nat) (t : Int) (f : Hw → Hw) : Hw :=
  if t < 0 ∨ t ≥ (h.scEnd c : Int) then h.scHalt c 0x02 else (f h).setSpc c t.toNat

/-- A branch: A is in bits [10:6], B in [15:11]. -/
def Hw.scBranch (h : Hw) (c op : Nat) (p : W32 → W32 → Bool) : Hw :=
  h.scalar c (isOp op) fun w h =>
    if p (h.sreg c (scD w)) (h.sreg c (scA w)) then h.scJump c ((h.core c).spc + 4 * signed 16 (scImm w)) id else h.scNext c

/-- The address of a load or store; none where it faults (R265). -/
def scAddr (a w : W32) : Option Nat :=
  let x := (a + scSimm w).toNat
  if x % 4 ≠ 0 ∨ x > 0xFFFF then none else some x

/-! ## Register form -/

/-- ADD. -/
def execAdd (c : Fin 64) (s : State) : Host.Outcome State Fault Refusal := done s (s.hw.scAlu c 1 0 fun a b => a + b)

/-- SUB. -/
def execSub (c : Fin 64) (s : State) : Host.Outcome State Fault Refusal := done s (s.hw.scAlu c 1 1 fun a b => a - b)

/-- AND. -/
def execAnd (c : Fin 64) (s : State) : Host.Outcome State Fault Refusal := done s (s.hw.scAlu c 1 2 fun a b => a &&& b)

/-- OR. -/
def execOr (c : Fin 64) (s : State) : Host.Outcome State Fault Refusal := done s (s.hw.scAlu c 1 3 fun a b => a ||| b)

/-- XOR. -/
def execXor (c : Fin 64) (s : State) : Host.Outcome State Fault Refusal := done s (s.hw.scAlu c 1 4 fun a b => a ^^^ b)

/-- SLL. -/
def execSll (c : Fin 64) (s : State) : Host.Outcome State Fault Refusal := done s (s.hw.scAlu c 1 5 fun a b => a <<< shamt b)

/-- SRL. -/
def execSrl (c : Fin 64) (s : State) : Host.Outcome State Fault Refusal := done s (s.hw.scAlu c 1 6 fun a b => a >>> shamt b)

/-- SRA. -/
def execSra (c : Fin 64) (s : State) : Host.Outcome State Fault Refusal := done s (s.hw.scAlu c 1 7 fun a b => a.sshiftRight (shamt b))

/-- SLT. -/
def execSlt (c : Fin 64) (s : State) : Host.Outcome State Fault Refusal := done s (s.hw.scAlu c 1 8 fun a b => b32 (a.slt b))

/-- SLTU. -/
def execSltu (c : Fin 64) (s : State) : Host.Outcome State Fault Refusal := done s (s.hw.scAlu c 1 9 fun a b => b32 (a.ult b))

/-- MUL. -/
def execMul (c : Fin 64) (s : State) : Host.Outcome State Fault Refusal := done s (s.hw.scAlu c 1 10 fun a b => a * b)

/-- MULH. -/
def execMulh (c : Fin 64) (s : State) : Host.Outcome State Fault Refusal := done s (s.hw.scAlu c 1 11 fun a b => BitVec.ofInt 32 (a.toInt * b.toInt / 2 ^ 32))

/-- DIVU. -/
def execDivu (c : Fin 64) (s : State) : Host.Outcome State Fault Refusal := done s (s.hw.scAlu c 1 12 fun a b => if b = 0 then 0xFFFFFFFF#32 else a / b)

/-- REMU. -/
def execRemu (c : Fin 64) (s : State) : Host.Outcome State Fault Refusal := done s (s.hw.scAlu c 1 13 fun a b => if b = 0 then a else a % b)

/-- FADD. -/
def execFadd (c : Fin 64) (s : State) : Host.Outcome State Fault Refusal := done s (s.hw.scAlu c 2 0 fun a b => f32add a b)

/-- FSUB. -/
def execFsub (c : Fin 64) (s : State) : Host.Outcome State Fault Refusal := done s (s.hw.scAlu c 2 1 fun a b => f32sub a b)

/-- FMUL. -/
def execFmul (c : Fin 64) (s : State) : Host.Outcome State Fault Refusal := done s (s.hw.scAlu c 2 2 fun a b => f32mul a b)

/-- FDIV. -/
def execFdiv (c : Fin 64) (s : State) : Host.Outcome State Fault Refusal := done s (s.hw.scAlu c 2 3 fun a b => f32div a b)

/-- FSQRT. -/
def execFsqrt (c : Fin 64) (s : State) : Host.Outcome State Fault Refusal := done s (s.hw.scAlu c 2 4 fun a _ => f32sqrt a)

/-- FMIN. -/
def execFmin (c : Fin 64) (s : State) : Host.Outcome State Fault Refusal := done s (s.hw.scAlu c 2 5 fun a b => f32min a b)

/-- FMAX. -/
def execFmax (c : Fin 64) (s : State) : Host.Outcome State Fault Refusal := done s (s.hw.scAlu c 2 6 fun a b => f32max a b)

/-- FEQ. -/
def execFeq (c : Fin 64) (s : State) : Host.Outcome State Fault Refusal := done s (s.hw.scAlu c 2 7 fun a b => b32 (f32eq a b))

/-- FLT. -/
def execFlt (c : Fin 64) (s : State) : Host.Outcome State Fault Refusal := done s (s.hw.scAlu c 2 8 fun a b => b32 (f32lt a b))

/-- FLE. -/
def execFle (c : Fin 64) (s : State) : Host.Outcome State Fault Refusal := done s (s.hw.scAlu c 2 9 fun a b => b32 (f32le a b))

/-- FCVTWS. -/
def execFcvtws (c : Fin 64) (s : State) : Host.Outcome State Fault Refusal := done s (s.hw.scAlu c 2 10 fun a _ => f32toInt a)

/-- FCVTSW. -/
def execFcvtsw (c : Fin 64) (s : State) : Host.Outcome State Fault Refusal := done s (s.hw.scAlu c 2 11 fun a _ => intToF32 a)

/-! ## Immediate form -/

/-- ADDI. -/
def execAddi (c : Fin 64) (s : State) : Host.Outcome State Fault Refusal := done s (s.hw.scImmOp c 8 fun a w => a + scSimm w)

/-- ANDI. -/
def execAndi (c : Fin 64) (s : State) : Host.Outcome State Fault Refusal := done s (s.hw.scImmOp c 9 fun a w => a &&& BitVec.ofNat 32 (scImm w))

/-- ORI. -/
def execOri (c : Fin 64) (s : State) : Host.Outcome State Fault Refusal := done s (s.hw.scImmOp c 10 fun a w => a ||| BitVec.ofNat 32 (scImm w))

/-- XORI. -/
def execXori (c : Fin 64) (s : State) : Host.Outcome State Fault Refusal := done s (s.hw.scImmOp c 11 fun a w => a ^^^ BitVec.ofNat 32 (scImm w))

/-- LUI. -/
def execLui (c : Fin 64) (s : State) : Host.Outcome State Fault Refusal := done s (s.hw.scImmOp c 12 fun _ w => BitVec.ofNat 32 (scImm w) <<< 16)

/-- LW. -/
def execLw (c : Fin 64) (s : State) : Host.Outcome State Fault Refusal :=
  done s (s.hw.scalar c (isOp 0x10) fun w h => match scAddr (h.sreg c (scA w)) w with
    | none => h.scHalt c 0x02
    | some x => (h.setSreg c (scD w) (BitVec.ofNat 32 (h.sread (sramScalar c + x) 4))).scNext c)

/-- What a store to the descriptor table replaces, for a latch of the same cycle (R188). -/
def Hw.soldAt (h : Hw) (c x : Nat) : Hw :=
  if x < 0xC000 then h
  else h.modCore c fun s => { s with sold := some (h.get (CORE_CYCLE.CYCLE c), s.sub, x, BitVec.ofNat 32 (h.sread (sramScalar c + x) 4)) }

/-- SW: the word at A + IMM16 becomes s[D]. -/
def execSw (c : Fin 64) (s : State) : Host.Outcome State Fault Refusal :=
  done s (s.hw.scalar c (isOp 0x11) fun w h => match scAddr (h.sreg c (scA w)) w with
    | none => h.scHalt c 0x02
    | some x => ((h.soldAt c x).swrite (sramScalar c + x) 4 (h.sreg c (scD w)).toNat).scNext c)

/-! ## Branches and jumps -/

/-- BEQ. -/
def execBeq (c : Fin 64) (s : State) : Host.Outcome State Fault Refusal := done s (s.hw.scBranch c 24 fun a b => a == b)

/-- BNE. -/
def execBne (c : Fin 64) (s : State) : Host.Outcome State Fault Refusal := done s (s.hw.scBranch c 25 fun a b => a != b)

/-- BLT. -/
def execBlt (c : Fin 64) (s : State) : Host.Outcome State Fault Refusal := done s (s.hw.scBranch c 26 fun a b => a.slt b)

/-- BGE. -/
def execBge (c : Fin 64) (s : State) : Host.Outcome State Fault Refusal := done s (s.hw.scBranch c 27 fun a b => !a.slt b)

/-- BLTU. -/
def execBltu (c : Fin 64) (s : State) : Host.Outcome State Fault Refusal := done s (s.hw.scBranch c 28 fun a b => a.ult b)

/-- BGEU. -/
def execBgeu (c : Fin 64) (s : State) : Host.Outcome State Fault Refusal := done s (s.hw.scBranch c 29 fun a b => !a.ult b)

/-- JAL: s[D] takes the return offset. -/
def execJal (c : Fin 64) (s : State) : Host.Outcome State Fault Refusal :=
  done s (s.hw.scalar c (isOp 0x1E) fun w h =>
    h.scJump c ((h.core c).spc + 4 * signed 16 (scImm w)) fun h => h.setSreg c (scD w) (BitVec.ofNat 32 ((h.core c).spc + 4)))

/-- JR. -/
def execJr (c : Fin 64) (s : State) : Host.Outcome State Fault Refusal :=
  done s (s.hw.scalar c (isOp 0x1F) fun w h => h.scJump c (h.sreg c (scA w)).toNat id)

/-! ## Parameter registers, streams and slots -/

/-- PRD. -/
def execPrd (c : Fin 64) (s : State) : Host.Outcome State Fault Refusal :=
  done s (s.hw.scalar c (isOp 0x20) fun w h => (h.setSreg c (scD w) (BitVec.ofNat 32 (h.get (CORE_PARAM.VALUE c (scImm w))))).scNext c)

/-- PWR, at priority 4 (R226). -/
def execPwr (c : Fin 64) (s : State) : Host.Outcome State Fault Refusal :=
  done s (s.hw.scalar c (isOp 0x21) fun w h => (h.pWrite c (scImm w) 4 (h.sreg c (scA w))).scNext c)

/-- CYC. -/
def execCyc (c : Fin 64) (s : State) : Host.Outcome State Fault Refusal :=
  done s (s.hw.scalar c (isOp 0x26) fun w h => (h.setSreg c (scD w) (BitVec.ofNat 32 (h.get (CORE_CYCLE.CYCLE c) / 2 ^ (32 * scImm w)))).scNext c)

/-- The execute stream starts at an offset. -/
def Hw.launchExec (h : Hw) (c pc : Nat) : Hw :=
  (h.modCore c fun s => { s with xst := .running, xpc := pc, xloops := [], xwait := none, legacy := none }).put (CORE_STAT.RUN c) 1

/-- A member's access stream starts at an offset. -/
def Hw.launchAccess (h : Hw) (m pc : Nat) : Hw :=
  (h.modCore m fun s => { s with ast := .running, apc := pc, aloops := [], await := none }).put (CORE_STAT.RUN m) 1

/-- LAUNCH: the execute stream, or the access stream of every member of the group (R230). -/
def execLaunch (c : Fin 64) (s : State) : Host.Outcome State Fault Refusal :=
  done s (s.hw.scalar c (isOp 0x24) fun w h =>
    let a := (h.sreg c (scA w)).toNat
    (if scImm w = 0 then h.launchExec c a else (h.members c).foldl (fun h m => h.launchAccess m a) h).scNext c)

/-- REARM (R281): the low 48 bits of s[D] : s[A], in the slot of every member's access stream. -/
def execRearm (c : Fin 64) (s : State) : Host.Outcome State Fault Refusal :=
  done s (s.hw.scalar c (isOp 0x25) fun w h =>
    let v := (h.sreg c (scA w)).toNat + (h.sreg c (scD w)).toNat % 2 ^ 16 * 2 ^ 32
    ((h.members c).foldl (fun h m => h.put (STR_PBASE.BASE m (scImm w)) v) h).scNext c)

/-! ## Signals and waits -/

/-- SIG (R264, R297): stores and PWRs before it have landed. -/
def execSig (c : Fin 64) (s : State) : Host.Outcome State Fault Refusal :=
  done s (s.hw.scalar c (isOp 0x22) fun w h =>
    let kind := scImm w % 4
    let amt := (h.sreg c (scA w)).toNat
    if kind = 0 then h.scNext c
    else if amt = 0 ∨ amt > 256 then h.scHalt c 0x02
    else
      let (code, h) := h.sendSignal c 2 (h.core c).spc kind (scImm w / 4) amt
      if code = 0 then h.scNext c else h.scHalt c code)

/-- What a wait of a group meets before it is decided: 0x0B void, 0x11 aborted, 0x02 no recorded generation, 0 none (R285, R305, R310, R312). -/
def Hw.waitCode (h : Hw) (l kind idx : Nat) : Nat :=
  if kind = 1 ∨ kind = 2 then (if h.flag (SYNC_VAL.VOID l idx) then 0x0B else if h.flag (SYNC_VAL.ABORTED l idx) then 0x11 else 0)
  else if kind = 3 ∧ (tget (fun _ => none) (h.core l).gens idx).isNone then 0x02
  else 0

/-- A wait decided in the cycle in which it is first met (R295). -/
def Hw.decideWait (h : Hw) (l kind idx : Nat) : Hw := if kind = 3 then h.decideBar l idx else h.decideObj l idx

/-- WAIT: it completes at once, or the scalar processor stands. -/
def execWait (c : Fin 64) (s : State) : Host.Outcome State Fault Refusal :=
  done s (s.hw.scalar c (isOp 0x23) fun w h =>
    let kind := scImm w % 4
    let idx := scImm w / 4
    let code := h.waitCode c kind idx
    if kind = 0 then h.scNext c
    else if code ≠ 0 then h.scHalt c code
    else
      let amt := if kind = 3 then 0 else (h.sreg c (scA w)).toNat
      let h := h.modCore c fun s => { s with sst := .waiting, swait := some ⟨kind, idx, amt, h.get (CORE_CYCLE.CYCLE c), false, false⟩ }
      let h := h.decideWait c kind idx
      if (h.core c).swait.isSome then h.count (TEL_CORE.WAITS c) 1 else h)

/-! ## The end of a lap and of the code -/

/-- LAP (R329): the core's part of the lap is complete; the boundary follows where every lap core's is. -/
def execLap (c : Fin 64) (s : State) : Host.Outcome State Fault Refusal :=
  done s (s.hw.scalar c (isOp 0x27) fun w h =>
    if (h.core c).lapDone then h.scHalt c 0x02
    else
      let h := h.trace c 6 0 0 (h.core c).spc
      let h := (h.scNext c).modCore c fun s => { s with lapD := scD w, sst := .lapWait, lapDone := true, lapLate := h.img.relWait }
      if h.lapReady then h.lapBoundary else h)

/-- Nothing of a core is left: no stream, no armed word, no result in flight, no deferred signal. -/
def CoreSt.spent (s : CoreSt) : Bool :=
  s.xst != .running && s.ast != .running && s.lands.isEmpty && s.xdef.isEmpty && s.adef.isEmpty && s.port.isEmpty &&
    s.armed.all fun a => a.done && a.carry.isNone && a.acks == 0

/-- A group of which nothing runs any more is not running (log 57). -/
def Hw.runCheck (h : Hw) (l : Nat) : Hw :=
  if (h.core l).sst = .stopped ∧ (h.members l).all fun m => (h.core m).spent then
    (h.members l).foldl (fun h m => h.put (CORE_STAT.RUN m) 0) h
  else h

/-- STOPS. -/
def execStops (c : Fin 64) (s : State) : Host.Outcome State Fault Refusal :=
  done s (s.hw.scalar c (isOp 0x28) fun _ h => ((h.scNext c).modCore c fun s => { s with sst := .stopped }).runCheck c)

end Sys2Proof.Machine
end

