-- ==== Sys2Proof/Machine/Walk.lean ====
section
/-!
DEFINITION. Stream program records and the walk of an access stream over a tensor (R268 to R275, R156, R200): which elements come next, where
each lies, and where a tile closes.
-/
namespace Sys2Proof.Machine

/-! ## The record (R269) -/

def Rcd.ndim (r : Rcd) : Nat := bitsOf r.toNat 0 3
def Rcd.plane (r : Rcd) : Bool := bitAt r.toNat 3
def Rcd.dep (r : Rcd) : Bool := bitAt r.toNat 4
def Rcd.persist (r : Rcd) : Bool := bitAt r.toNat 5
def Rcd.pslot (r : Rcd) : Nat := bitsOf r.toNat 6 3
def Rcd.dest (r : Rcd) : Nat := bitsOf r.toNat 9 2
def Rcd.indir (r : Rcd) : Bool := bitAt r.toNat 11
def Rcd.indir2 (r : Rcd) : Bool := bitAt r.toNat 12
def Rcd.indk (r : Rcd) : Nat := bitsOf r.toNat 13 3
def Rcd.i2handle (r : Rcd) : Nat := bitsOf r.toNat 16 8
def Rcd.gatek (r : Rcd) : Nat := bitsOf r.toNat 25 3
def Rcd.tclose (r : Rcd) : Nat := bitsOf r.toNat 28 3
def Rcd.count (r : Rcd) (k : Nat) : Nat := bitsOf r.toNat (32 + 48 * k) 26
def Rcd.tdim (r : Rcd) (k : Nat) : Nat := bitsOf r.toNat (58 + 48 * k) 3
def Rcd.step (r : Rcd) (k : Nat) : Int := signed 19 (bitsOf r.toNat (61 + 48 * k) 19)
def Rcd.start (r : Rcd) (d : Nat) : Nat := bitsOf r.toNat (320 + 26 * d) 26
def Rcd.paDim (r : Rcd) : Nat := bitsOf r.toNat 476 3
def Rcd.pbDim (r : Rcd) : Nat := bitsOf r.toNat 479 3

/-- Program dimensions in use. -/
def Rcd.dims (r : Rcd) : List Nat := List.range r.ndim

/-- The record's own faults: 0x03 for NDIM, 0x01 for reserved values and bits, then the first conditions of R269's table. -/
def Rcd.check (r : Rcd) (drain : Bool) : Nat :=
  if r.ndim = 0 ∨ r.ndim = 7 then 0x03
  else if bitAt r.toNat 31 ∨ bitsOf r.toNat 482 30 ≠ 0 ∨ r.dest ≥ 2 ∨ r.dims.any (fun k => r.count k == 0 || decide (r.tdim k ≥ 6)) ∨ r.paDim ≥ 6 ∨ r.pbDim ≥ 6 then 0x01
  else if (r.dest = 1 ∧ ¬ drain) ∨ (r.indir2 ∧ ¬ r.indir) ∨ (r.indir ∧ r.indk ≥ r.ndim) then 0x03
  else if r.gate ∧ r.gatek ≥ r.ndim then 0x14
  else 0

/-- Start indices after the offsets of R270. -/
def Rcd.starts (r : Rcd) (pa pb : Option Int) : List Int :=
  (List.range 6).map fun d => (r.start d : Int) + (if d = r.paDim then pa.getD 0 else 0) + (if d = r.pbDim then pb.getD 0 else 0)

/-- Why an index descriptor is refused (R193, R273): 0, or a code. -/
def Desc.indexCheck (d : Desc) : Nat :=
  let c := d.check (fun _ => true) false
  if c ≠ 0 then c else if d.type = 0xC ∨ d.type = 0xD then 0 else 0x03

/-- The layout that a gated stream needs (R158, R163, R274): bands outermost, rows, then one block of 32 elements; under N:M whole packets. -/
def Desc.bandMajor (d : Desc) : Bool :=
  d.rank == 3 && d.size 0 == 32 && d.sparse != 4 && (d.sparse == 0 || d.size 1 % packetBlocks d.bits d.sparse == 0)

/-- The record against its descriptors (R269, R273 to R275, R158): 0, or a code; and whose descriptor is at fault: 0 the data's, 1 and 2 the
index tensors'. -/
def Rcd.against (r : Rcd) (d id i2 : Desc) (start : List Int) (xpose staged : Bool) : Nat × Nat :=
  let st := fun k => start.getD k 0
  if r.plane ∧ ¬ isMx d.type then (0x14, 0)
  else if r.indir ∧ (st (r.tdim r.indk) ≠ 0 ∨ r.dims.any (fun k => k != r.indk && r.tdim k == r.tdim r.indk)) then (0x03, 0)
  else if r.indir ∧ id.indexCheck ≠ 0 then (id.indexCheck, 1)
  else if r.indir2 ∧ i2.indexCheck ≠ 0 then (i2.indexCheck, 2)
  else if r.gate ∧ (r.step r.gatek ≠ 1 ∨ r.tdim r.gatek ≠ 2 ∨ ¬ d.bandMajor ∨ st 2 % 2048 + r.count r.gatek > 2048) then (0x14, 0)
  else if xpose ∧ (r.ndim < 2 ∨ d.rank < 2 ∨ [0, 1].any fun k =>
      r.tdim k != k || r.step k != 1 || st k != 0 || r.count k != d.size k) then (0x03, 0)
  else if xpose ∧ (isMx d.type ∨ d.bits < 8 ∨ d.sparse ≠ 0 ∨ ¬ staged) then (0x14, 0)
  else (0, 0)

/-! ## The walk -/

/-- A fault of the walk: code, DIM, address, scale or side table, and whose descriptor it is. -/
structure WFault where
  code : Nat
  dim : Nat := 0
  va : Nat := 0
  scale : Bool := false
  /-- 0 the data descriptor, 1 and 2 the index tensors', 3 the side table's -/
  ofIndex : Nat := 0
  log : Option Where := none
  deriving DecidableEq, Repr

/-- A part of a tile: its bits and where they lie, in words of the space: byte address of the word, location, bits; the indirect position or staging
tile it is of; whether an earlier read of the word may serve it (R168, R200, R272); and whether it is of the tensor's last packet (R155). -/
structure Part where
  word : Nat
  loc : Where
  place : Place
  pos : Nat
  share : Bool
  tail : Bool := false
  /-- index vector of its element -/
  idx : List Int := []
  deriving DecidableEq, Repr

/-- A word of an index tensor or a side table: its column, or none for host memory, and its number in the column, or its address. -/
abbrev IdxKey := Option Nat × Nat

/-- How a tile's walk stands: it goes on, has closed, waits for a translation, for a mask tile or for a word of an index tensor or side table, or has
failed. -/
inductive WStat where
  | go
  | closed
  | miss (page : Nat)
  | index (k : IdxKey)
  | mask
  | bad (f : WFault)
  deriving DecidableEq, Repr

/-- A tile in the making; `mark` tells that a poisoned side table was read under the propagate policy (R198), `tail` that the present element is of
the tensor's last packet; `used` are the index and side-table words last read, with the tensor each is of. -/
structure Gen where
  a : Armed
  bits : Nat
  parts : List Part
  gate : List Tile
  stat : WStat
  h : Hw
  mark : Bool := false
  tail : Bool := false
  used : List (Nat × IdxKey) := []
  /-- index vector of the present element -/
  idx : List Int := []

def Gen.stop (g : Gen) (s : WStat) : Gen := { g with stat := s }

/-- Where byte `va` of a descriptor lies for the stream's core. -/
def Gen.loc (g : Gen) (c : Nat) (d : Desc) (va : Nat) : Where := g.h.locate (g.h.core c).tlb c 0 d va g.a.drain

/-- `n` bytes of an index tensor (`which` 1 or 2) or a side table (3): their value and poison mark; or why not. A word of device or host memory is
asked for through the near port and kept by the access word (R29, R192, R278). -/
def Gen.peek (g : Gen) (c : Nat) (d : Desc) (which va n : Nat) : Except WStat (Nat × Bool × Gen) :=
  let got := fun (k : IdxKey) (o : Nat) => match g.a.idxGot.find? fun y => y.1 == k with
    | some y => Except.ok (bitsOf y.2.1.toNat (o % 32 * 8) (8 * n), y.2.2, { g with used := g.used ++ [(which, k)] })
    | none => .error (.index k)
  match g.h.locate (g.h.core c).tlb c 0 d va false with
  | .miss p => .error (.miss p)
  | .fail k r x => .error (.bad { code := k, va := va, log := some (.fail k r x) })
  | .sram a => .ok (g.h.sread a n, g.h.smark a, g)
  | .host x => got (none, x / 32 * 32) x
  | .dram col o _ => got (some col, o / 32) o

/-- Indices of element `j` in element order; the last dimension's goes on past its size where `j` does. -/
def Desc.unrank (d : Desc) (j : Nat) : List Int :=
  ((List.range 6).foldl (fun (a : List Int × Nat) k =>
    if k + 1 = d.rank then (a.1 ++ [(a.2 : Int)], 0) else (a.1 ++ [((a.2 % d.size k : Nat) : Int)], a.2 / d.size k)) ([], j)).1

/-- Element `j` of an index tensor, signed, with its address (R166, R271). -/
def Gen.index (g : Gen) (c : Nat) (d : Desc) (which j : Nat) : Except WStat (Int × Nat × Gen) :=
  let fault := fun (f : WFault) => WStat.bad { f with ofIndex := which }
  let i := d.unrank j
  let va := d.bitAddr d.vbase (i.map Int.toNat) / 8
  match d.bounds d.vbase i with
  | some k => .error (fault { code := 0x04, dim := k, va := va % 2 ^ 48 })
  | none => match ({ g with used := g.used.filter fun x => x.1 != which } : Gen).peek c d which va (d.bits / 8) with
    | .error (.bad f) => .error (fault f)
    | .error s => .error s
    | .ok (v, m, g) => if m then .error (fault { code := 0x0D, va := va }) else .ok (signed d.bits v, va, g)

/-- Whether an index value is in range under a mode (R167); one below 0 skips. -/
def indexUse (v : Int) (n : Nat) (skips : Bool) : Bool := decide (v < n) && (decide (0 ≤ v) || skips)

/-- The value that selects a slice of the indirect dimension, below 0 for a skipped one (R271, R273). -/
def Gen.slice (g : Gen) (c : Nat) : Except WStat (Int × Gen) :=
  let r : Rcd := g.a.rcd
  let d : Desc := g.a.desc
  let id : Desc := g.a.idesc
  let i2 : Desc := g.a.i2desc
  match g.index c id 1 (g.a.cnt.getD r.indk 0) with
  | .error s => .error s
  | .ok (v, va, g) =>
    let n := if r.plane ∧ r.tdim r.indk = 0 then d.size 0 / 32 else d.size (r.tdim r.indk)
    if ¬ indexUse v (if r.indir2 then i2.elems else n) (if r.indir2 then i2.skips else d.skips) then
      .error (.bad { code := 0x13, va := va, ofIndex := 1 })
    else if v < 0 ∨ ¬ r.indir2 then .ok (v, g)
    else match g.index c i2 2 v.toNat with
      | .error s => .error s
      | .ok (v, va, g) => if indexUse v n d.skips then .ok (v, g) else .error (.bad { code := 0x13, va := va, ofIndex := 2 })

/-- The walk reaches a slice: where a gather's is the one of the position before, its words are shared, in every tile that the slice fills (R168). -/
def Gen.at' (g : Gen) (v : Int) : Gen :=
  let j := g.a.cnt.getD (Rcd.indk g.a.rcd) 0
  match g.a.ipos with
  | some (j', v') =>
    if j = j' then g else { g with a := { g.a with ipos := some (j, v), ishare := !g.a.drain && decide (j = j' + 1) && decide (v = v') } }
  | none => { g with a := { g.a with ipos := some (j, v), ishare := false } }

/-- Indices of the current element: the walk's own counters, the selected slice, R271. -/
def Gen.indices (g : Gen) (slice : Int) : List Int :=
  let r : Rcd := g.a.rcd
  r.dims.foldl (fun i k =>
    let t := r.tdim k
    if r.indir ∧ k = r.indk then i.set t slice else i.set t (i.getD t 0 + r.step k * (g.a.cnt.getD k 0 : Int))) g.a.start

/-- Number of the staging tile that the walk of a transposition is in (R200). -/
def Gen.stageNo (g : Gen) : Nat :=
  let r : Rcd := g.a.rcd
  let x := g.a.cnt.getD 0 0
  let y := g.a.cnt.getD 1 0
  let across := (r.count 0 + g.a.tw - 1) / g.a.tw
  let outer := (List.range 4).foldl (fun n k => n * (if 5 - k < r.ndim then r.count (5 - k) else 1) + g.a.cnt.getD (5 - k) 0) 0
  outer * (across * ((r.count 1 + g.a.th - 1) / g.a.th)) + y / g.a.th * across + x / g.a.tw

/-- The position whose reads the present element may share: the staging tile, an indirect position, or 0. -/
def Gen.posNow (g : Gen) : Nat := if g.a.xpose then 2 * g.stageNo else (g.a.ipos.map (·.1)).getD 0

/-- Whether an earlier read of word `va` may serve the present element: it lies in staging (R200), its slice is that of the position before (R168), or
its word is that of the tile before and no other has been asked for since (R272). -/
def Gen.mayShare (g : Gen) (va : Nat) : Bool :=
  !g.a.drain && (g.a.xpose || g.a.ishare || (g.parts.all fun p => p.word == va) && g.a.lastWord == some va)

/-- `n` bits at bit address `ba` appended to the tile. Bits past the end of the tile wait for the next one (R272). -/
def Gen.put (g : Gen) (c : Nat) (d : Desc) (ba n : Nat) : Gen :=
  let room := 2048 - g.bits
  let take := min n room
  let step := fun (x : Gen × Nat × Nat) (_ : Nat) =>
    let (g, ba, left) := x
    if left = 0 ∨ g.stat ≠ .go then x
    else
      let va := ba / 256 * 32
      let k := min left (256 - ba % 256)
      match g.loc c d va with
      | .miss p => (g.stop (.miss p), ba, left)
      | .fail k' r y => (g.stop (.bad { code := k', va := ba / 8, scale := Rcd.plane g.a.rcd, log := some (.fail k' r y) }), ba, left)
      | w => ({ g with parts := g.parts ++ [⟨va, w, ⟨ba % 256, g.bits, k⟩, g.posNow, g.mayShare va, g.tail, g.idx⟩], bits := g.bits + k }, ba + k, left - k)
  let (g, ba, _) := (List.range (n / 256 + 2)).foldl step (g, ba, take)
  if g.stat = .go ∧ n > take then { g with a := { g.a with carry := some (ba, n - take), carryIdx := g.idx } } else g

/-- Zeros in place of an element, or a place passed over in a DRAIN (R167, R273). -/
def Gen.pass (g : Gen) (n : Nat) : Gen :=
  let room := 2048 - g.bits
  if n > room then { g with bits := 2048, a := { g.a with carry := some (0, n - room) } } else { g with bits := g.bits + n }

/-! ### Block-sparse tensors (R156) -/

/-- `n` bytes of the side table, read and checked like data (R195, R196, R198): a poisoned word halts, or marks the tile. -/
def Gen.sideWord (g : Gen) (c off n : Nat) : Except WStat (Nat × Gen) :=
  let side : Desc := g.a.sdesc
  let va := side.vbase + off
  if off + n > side.limit * 32 ∨ (side.space ≠ 0 ∧ va + n > spaceEnd side.space) then .error (.bad { code := 0x04, dim := 7, va := va, scale := true, ofIndex := 3 })
  else match g.peek c side 3 va n with
    | .error (.bad f) => .error (.bad { f with scale := true, ofIndex := 3 })
    | .error s => .error s
    | .ok (v, m, g) =>
      if m ∧ ¬ side.propagate then .error (.bad { code := 0x0D, va := va, scale := true, ofIndex := 3 }) else .ok (v, { g with mark := g.mark || m })

/-- Place of block (nb, kb) among the present ones; none where it is absent. The 32-byte boundary at which the bitmap begins is counted from the start
of the side table, whatever its VBASE (DESIGN CHOICE, log 61: R156 does not say from where). -/
def Gen.present (g : Gen) (c : Nat) (nBlocks kBlocks nb kb : Nat) : Except WStat (Option Nat × Gen) :=
  let g := { g with used := g.used.filter fun x => x.1 != 3 }
  let map := alignUp ((nBlocks + 1) * 4) 32 + nb * ((kBlocks + 63) / 64) * 8
  match g.sideWord c (nb * 4) 4 with
  | .error s => .error s
  | .ok (n0, g) =>
    (List.range (kb / 64 + 1)).foldl (fun acc w => match acc with
      | .error s => .error s
      | .ok (n, g) => match g.sideWord c (map + 8 * w) 8 with
        | .error s => .error s
        | .ok (v, g) =>
          let below := popCount v (if w = kb / 64 then kb % 64 else 64)
          .ok (if w < kb / 64 ∨ bitAt v (kb % 64) then some (n.getD 0 + below) else none, g)) (.ok (some n0, g))

/-- Linear number of a row of blocks: dimension 1 and the outer dimensions in their order. -/
def Desc.rowOf (d : Desc) (i : List Nat) : Nat :=
  ((List.range 6).foldl (fun (a : Nat × Nat) k => if k = 0 then a else (a.1 + i.getD k 0 * a.2, a.2 * d.size k)) (0, 1)).1

/-- Where the formula of R191, or of the scale plane, puts an element whatever its indices: what a failed index check records (R207). -/
def Desc.wildAddr (d : Desc) (b : Nat) (i : List Int) (plane : Bool) : Nat :=
  let dims := List.range d.rank
  let x : Int := if plane then
      (dims.foldl (fun (a : Int × Nat) k => (a.1 + i.getD k 0 * a.2, a.2 * (if k = 0 then d.size 0 / 32 else d.size k))) ((d.sbase : Int), 1)).1
    else ((b * 8 : Nat) + dims.foldl (fun (e : Int) k => e + i.getD k 0 * d.stride k) 0 * d.bits) / 8
  (x % 2 ^ 48).toNat

/-- Bits that an element takes in a tile where its slice is skipped (R167, R273): a scale, an element, or at its first element a packet. -/
def Gen.width (g : Gen) (i : List Int) : Nat :=
  let r : Rcd := g.a.rcd
  let d : Desc := g.a.desc
  let n := i.map Int.toNat
  if r.plane then 8
  else if d.sparse = 0 ∨ d.sparse = 4 then d.bits
  else if (n.getD 0 0 + d.size 0 * d.rowOf n) % (32 * packetBlocks d.bits d.sparse) = 0 then 256 * packetWords d.bits d.sparse else 0

/-- The current element appended: dense data, a whole packet at its first element, present blocks, or the scale plane (R194, R272). -/
def Gen.emit (g : Gen) (c : Nat) (i : List Int) : Gen :=
  let r : Rcd := g.a.rcd
  let d : Desc := g.a.desc
  let n := i.map Int.toNat
  let m := d.size 0 / 32
  let inside := fun (k : Nat) => if k = 0 ∧ r.plane then m else d.size k
  let rows := (List.range 6).foldl (fun a k => if k = 0 then a else a * d.size k) 1
  let past := fun (a n : Nat) => decide (d.space ≠ 0) && decide (a + n > spaceEnd d.space)
  let far := fun (a : Nat) => g.stop (.bad { code := 0x04, dim := 7, va := a, scale := r.plane })
  let plane := fun (g : Gen) (q : Nat) =>
    if q ≥ m * rows ∨ past (d.sbase + q) 1 then far (d.sbase + q) else g.put c d ((d.sbase + q) * 8) 8
  match (List.range 6).find? fun k => decide (i.getD k 0 < 0) || decide (i.getD k 0 ≥ inside k) with
  | some k => g.stop (.bad { code := 0x04, dim := k, va := d.wildAddr g.a.base i r.plane, scale := r.plane })
  | none =>
    if d.sparse = 4 then
      let row := d.rowOf n
      match g.present c (rows / 32) m (row / 32) (if r.plane then n.getD 0 0 else n.getD 0 0 / 32) with
      | .error s => g.stop s
      | .ok (none, g) => g
      | .ok (some q, g) =>
        if r.plane then plane g (q * 32 + row % 32)
        else
          let off := q * 1024 * d.bits + row % 32 * 32 * d.bits + n.getD 0 0 % 32 * d.bits
          let upto := (off + d.bits + 7) / 8
          if upto > d.limit * 32 ∨ past g.a.base upto then far (g.a.base + off / 8) else g.put c d (g.a.base * 8 + off) d.bits
    else if r.plane then plane g (n.getD 0 0 + m * d.rowOf n)
    else if d.sparse ≠ 0 then
      let e := n.getD 0 0 + d.size 0 * d.rowOf n
      let span := 32 * packetBlocks d.bits d.sparse
      let bytes := 32 * packetWords d.bits d.sparse
      let off := e / span * bytes
      if e % span ≠ 0 then g
      else if off + bytes > d.limit * 32 ∨ past g.a.base (off + bytes) then far (g.a.base + off)
      else ({ g with tail := decide (e / span = (d.elems - 1) / span) } : Gen).put c d ((g.a.base + off) * 8) (bytes * 8)
    else match d.bounds g.a.base i with
      | some k => g.stop (.bad { code := 0x04, dim := k, va := d.bitAddr g.a.base n / 8 })
      | none => g.put c d (d.bitAddr g.a.base n) d.bits

/-! ### Advancing (R271, R200) -/

/-- A pass of dimension `k` ends: at or above TCLOSE it closes the tile, the next one too where an element runs into it; a gated pass frees its mask. -/
def Gen.passEnd (g : Gen) (r : Rcd) (k : Nat) : Gen :=
  let closes := decide (r.tclose ≤ k)
  { g with a := { g.a with cnt := g.a.cnt.set k 0, mask := if r.gate ∧ r.gatek = k then none else g.a.mask,
                           ipos := if r.indir ∧ r.indk = k then none else g.a.ipos, closing := g.a.closing || (closes && g.a.carry.isSome) },
           stat := if closes ∧ g.bits > 0 then .closed else g.stat }

/-- Counters `k` on stepped, with the carry of R271. -/
def Gen.carryFrom (g : Gen) (r : Rcd) : Nat → Nat → Gen
  | 0, _ => g
  | f + 1, k =>
    if k ≥ r.ndim then { g with a := { g.a with done := true }, stat := .closed }
    else
      let c := g.a.cnt.getD k 0 + 1
      if c < r.count k then { g with a := { g.a with cnt := g.a.cnt.set k c } }
      else
        (g.passEnd r k).carryFrom r f (k + 1)

/-- The next element in the order of R200: rows of a tile fastest, then its elements, then tiles; none where both dimensions end. -/
def xposeNext (n0 n1 th tw c0 c1 : Nat) : Option (Nat × Nat) :=
  let o0 := c0 / tw * tw
  let o1 := c1 / th * th
  if c1 + 1 < min n1 (o1 + th) then some (c0, c1 + 1)
  else if c0 + 1 < min n0 (o0 + tw) then some (c0 + 1, o1)
  else if o0 + tw < n0 then some (o0 + tw, o1)
  else if o1 + th < n1 then some (0, o1 + th)
  else none

/-- The walk moved on by one element. -/
def Gen.next (g : Gen) : Gen :=
  let r : Rcd := g.a.rcd
  if g.a.xpose then
    match xposeNext (r.count 0) (r.count 1) g.a.th g.a.tw (g.a.cnt.getD 0 0) (g.a.cnt.getD 1 0) with
    | some (x, y) => { g with a := { g.a with cnt := (g.a.cnt.set 0 x).set 1 y } }
    | none => ((g.passEnd r 0).passEnd r 1).carryFrom r 7 2
  else g.carryFrom r 7 0

/-- The words of the rows `y` to `y + h - 1`, elements `x` to `x + w - 1` of a staging tile asked for in the order in which R200 reads them, each
element checked; the entry under way awaits them, and their bits follow as the tile is written out. -/
def Gen.readRows (g : Gen) (c x y w h : Nat) : Gen :=
  let r : Rcd := g.a.rcd
  let d : Desc := g.a.desc
  (List.range (w * h)).foldl (fun g n =>
    if g.stat ≠ .go then g
    else
      let i := ({ g with a := { g.a with cnt := (g.a.cnt.set 0 (x + n % w)).set 1 (y + n / w) } } : Gen).indices 0
      match d.bounds g.a.base i with
      | some k => g.stop (.bad { code := 0x04, dim := k, va := d.wildAddr g.a.base i r.plane })
      | none =>
        let ba := d.bitAddr g.a.base (i.map Int.toNat)
        let va := ba / 256 * 32
        match g.loc c d va with
        | .miss p => g.stop (.miss p)
        | .fail k' r y => g.stop (.bad { code := k', va := ba / 8, log := some (.fail k' r y) })
        | l => if g.parts.any fun p => p.word == va && p.pos == g.posNow then g
          else { g with parts := g.parts ++ [⟨va, l, ⟨va, g.bits % 2048, 0⟩, g.posNow, false, false, i⟩] }) g

/-- A transposing stream begins a tile (R200, R201): it passes through the core's staging area, a tile of at most 16 KiB through one half of it, by
turns. A FETCH reads the tile before it delivers any of it. How a tile lies there is not stated: its bytes there are free values. -/
def Gen.stage (g : Gen) (c : Nat) : Gen :=
  let r : Rcd := g.a.rcd
  let d : Desc := g.a.desc
  let x := g.a.cnt.getD 0 0
  let y := g.a.cnt.getD 1 0
  match (g.h.core c).staging with
  | some s =>
    if ¬ g.a.xpose ∨ x % g.a.tw ≠ 0 ∨ y % g.a.th ≠ 0 then g
    else
      let w := min g.a.tw (r.count 0 - x)
      let n := min g.a.th (r.count 1 - y)
      let g := if g.a.drain then g else g.readRows c x y w n
      { g with h := g.h.stageTile (sramCore c + s) g.stageNo (g.a.tw * g.a.th * d.bits / 8) (w * n * d.bits / 8) }
  | none => g

/-- One element of the walk: gated, skipped or emitted (R271). -/
def Gen.one (g : Gen) (c : Nat) : Gen :=
  let r : Rcd := g.a.rcd
  let g := if r.gate ∧ g.a.mask.isNone then (match g.gate with
      | [] => g.stop .mask
      | t :: rest => { g with gate := rest, a := { g.a with mask := some t } }) else g
  let g := if g.stat = .go then g.stage c else g
  if g.stat ≠ .go then g
  else
    let go := fun (g : Gen) (slice : Int) =>
      let i := g.indices slice
      let on := !r.gate || (g.a.mask.getD 0).getLsbD (i.getD (r.tdim r.gatek) 0 % 2048).toNat
      let g := { g with idx := i }
      if ¬ on then g else if slice < 0 then g.pass (g.width i) else g.emit c i
    let g :=
      if r.indir then match g.slice c with
        | .error s => g.stop s
        | .ok (v, g) => go (g.at' v) v
      else go g 0
    match g.stat with
    | .go => let g := g.next; if g.bits ≥ 2048 ∧ g.stat = .go then g.stop .closed else g
    | _ => g

/-- Elements taken until the tile closes or something stops the walk. -/
def Gen.run (c : Nat) : Nat → Gen → Gen
  | 0, g => g
  | n + 1, g => if g.stat ≠ .go then g else Gen.run c n (g.one c)

/-- Elements a record walks in all. -/
def Rcd.total (r : Rcd) : Nat := r.dims.foldl (fun n k => n * r.count k) 1

/-- The rest of a split element opens the tile (R272). -/
def Gen.resume (g : Gen) (c : Nat) : Gen :=
  match g.a.carry with
  | none => g
  | some (ba, n) =>
    let g := { g with a := { g.a with carry := none }, idx := g.a.carryIdx }
    if ba = 0 then g.pass n else g.put c g.a.desc ba n

/-- The next tile of an armed word. Masks of passes that have ended in it are still at hand (R274). -/
def Hw.nextTile (h : Hw) (c : Nat) (a : Armed) : Gen :=
  let g : Gen := { a := { a with closing := false }, bits := 0, parts := [], gate := a.past ++ h.gateSeen c, stat := .go, h := h }
  let g := g.resume c
  let g := if a.closing ∧ g.a.carry.isSome then { g with a := { g.a with closing := true } } else g
  Gen.run c (Rcd.total a.rcd + 1) (if (g.bits ≥ 2048 ∨ g.a.done ∨ (a.closing ∧ g.bits > 0)) ∧ g.stat = .go then g.stop .closed else g)

end Sys2Proof.Machine
end

