-- ==== Sys2Proof/Machine/Access.lean ====
section
/-!
DEFINITION. The access stream (R208, R212, R213, R227 to R229, R261, R262, R268 to R281): word fields shared by both streams, holds and breaks,
issue, tiles and their requests, host-memory requests, the watchdog.
-/
namespace Sys2Proof.Machine

/-- The wait amount, a p register latched as the word first stands (R243). -/
def Hw.waitAmt (h : Hw) (l w : Nat) : Nat := if wSrc w then h.pLatch l (wAmt w % 32) else wAmt w

/-! ## Loops (R227, R228, R247) -/

/-- Open bodies whose last word is at `pc`. -/
def lendOf (loops : List Loop) (pc : Nat) : Nat := (loops.filter fun x => x.last == pc).length

/-- Passes ended at `pc`, innermost first: the loops left open, and where execution goes on (none where it falls through). -/
def closeLoops (pc : Nat) : List Loop → List Loop × Option Nat
  | [] => ([], none)
  | x :: t =>
    if x.last ≠ pc then (x :: t, none)
    else if x.left > 1 then ({ x with left := x.left - 1 } :: t, some x.beg)
    else closeLoops pc t

/-- A loop begun at `pc` over the body from `beg` to `last`: 0 or its halt code, the loops, and the next word (R227, R228). -/
def beginLoop (loops : List Loop) (pc beg last after count lo hi : Nat) : Nat × List Loop × Nat :=
  let past : Bool := match loops with
    | x :: _ => decide (last > x.last)
    | [] => false
  if count ≥ 2 ^ 24 then (0x02, loops, beg)
  else if loops.length ≥ 4 ∨ last ≤ pc ∨ last < lo ∨ last ≥ hi ∨ past then (0x15, loops, beg)
  else if count = 0 then
    let (l, b) := closeLoops last loops
    (0, l, b.getD after)
  else (0, ⟨beg, last, count⟩ :: loops, beg)

/-! ## Holds and breaks (R222, R231, R236) -/

/-- HOLD of a group's members as its causes stand. -/
def Hw.showHold (h : Hw) (l : Nat) : Hw :=
  let on := (h.core l).hold.isSome || (h.core l).gearHold || (h.core l).imgHold
  (h.members l).foldl (fun h m => h.put (CORE_STAT.HOLD m) (bnat on)) h

def holdCode : HoldCause → Nat
  | .late => 0 | .depend => 1 | .arrival => 2

/-- A hold begins: it is counted by cause. -/
def Hw.beginHold (h : Hw) (l : Nat) (x : Hold) : Hw :=
  let h := (h.modCore l fun s => { s with hold := some x }).trace l 2 (holdCode x.cause) 0 (h.core l).xpc
  (h.count (match x.cause with
    | .late => CORE_HOLDS.LATE l
    | .depend => CORE_HOLDS.DEPEND l
    | .arrival => CORE_HOLDS.ARRIVAL l) 1).showHold l

/-- The hold of a group ends once every entry it waits for is complete; a break asked for meanwhile takes effect (R108, R236). -/
def Hw.holdEnd (h : Hw) (l : Nat) : Hw :=
  match (h.core l).hold with
  | none => h
  | some x =>
    let ready := x.ents.all fun e => match ((h.core (e.1 / 8)).queue (e.1 % 8)).find? fun (y : QEnt) => y.id == e.2 with
      | some y => y.complete
      | none => true
    if ¬ ready ∨ h.pllOff then h
    else
      let h := ((h.modCore l fun s => { s with hold := none }).trace l 3 (holdCode x.cause) 0 (h.core l).xpc).showHold l
      h.breakPending l

/-- CORE_HOLD_END (R108, R222). -/
def execCoreHoldEnd (c : Fin 64) (s : State) : Host.Outcome State Fault Refusal := done s (s.hw.holdEnd (s.hw.leader c))

/-! ## Requests of a tile -/

/-- One request of a tile: word of the space, where it lies, its positions, the indirect position or staging tile it is of, whether an earlier read may
serve it, and whether it is of the tensor's last packet. -/
structure Read where
  word : Nat
  loc : Where
  places : List Place
  pos : Nat
  share : Bool
  tail : Bool := false
  /-- index vector of the first element that lies in it -/
  idx : List Int := []
  deriving DecidableEq, Repr

/-- The requests of a tile, newest first, with one more part: parts of one word in succession share one (R272), a part of a repeated index that of
the position before (R168), and one that lies in staging that of its tile (R200). -/
def joinRead (acc : List Read) (p : Part) : List Read :=
  let new : List Read := ⟨p.word, p.loc, [p.place], p.pos, p.share, p.tail, p.idx⟩ :: acc
  match acc with
  | r :: t =>
    let more := fun (x : Read) => { x with places := x.places ++ [p.place], pos := p.pos, tail := x.tail || p.tail }
    if r.word = p.word then more r :: t
    else match (if p.share then acc.findIdx? (fun x => x.word == p.word) else none) with
      | some i => acc.modify i more
      | none => new
  | [] => new

/-- The requests of a tile in order. -/
def groupParts (l : List Part) : List Read := (l.foldl joinRead []).reverse

/-- A column request of an access stream. -/
def streamReq (c col off : Nat) (op : ColOp) (src : ReqSrc) : ColReq := ⟨⟨col % 512, by omega⟩, off / 32, .paced, op, src, reqArg 2 c 0⟩

/-- A fetched tile's entry, with the words it awaits; every word of a tile that a poisoned side table gave is poisoned (R198). -/
def tileSlots (gs : List Read) (mark : Bool) : List Slot :=
  (List.range 8).map fun j =>
    let here := gs.filter fun g => g.places.any fun p => p.dst / 256 == j
    { pending := here.length, mark := mark, tail := here.any (·.tail) }

/-- A request of word `id` for host memory leaves the core: its first element may become the restart point (R288). -/
def Hw.goesOut (h : Hw) (c id addr : Nat) (idx : List Int) : Hw := h.modCore c fun s => s.modArmed id fun a => { a with away := a.away ++ [(addr, idx)] }

/-- A read of a fetched tile: served from an earlier one, or a request of the near port. -/
def Hw.tileRead (h : Hw) (c q ent id : Nat) (g : Read) : Hw :=
  match (if g.share then ((h.core c).armedOf id).bind fun a => a.kept.reverse.find? fun k => k.word == g.word && (k.pos == g.pos || k.pos + 1 == g.pos)
    else none) with
  | some k =>
    let mine := fun (f : KeptRead → KeptRead) (h : Hw) => h.modCore c fun s => s.modArmed id fun a =>
      { a with kept := a.kept.map fun x => if x.word = g.word ∧ x.ent = k.ent ∧ x.places = k.places then f { x with pos := g.pos } else x }
    match k.val with
    | some v => mine (fun x => x) (h.modEnt c q ent fun e => e.update g.places fun here s => s.take v.1 v.2 false here)
    | none =>
      let h := if k.late then h.modEnt c q ent fun e => e.update g.places fun _ s => { s with late := s.late + 1 } else h
      mine (fun x => { x with next := x.next ++ [(ent, g.places)] }) h
  | none =>
    let h := h.modCore c fun s => s.modArmed id fun a => { a with kept := a.kept ++ [{ word := g.word, ent := ent, places := g.places, pos := g.pos }] }
    match g.loc with
    | .dram col off _ => h.portPut c (.col (streamReq c col off .read (.queue c q ent g.places)))
    | .sram a => h.portPut c (.load q ent g.places a)
    | .host x => (h.goesOut c id x g.idx).portPut c (.io x 32 false [] (.fetch c q ent g.places))
    | _ => h

/-- What an armed FETCH keeps of its reads for the tiles that follow: those of the present and the last indirect position (R168), of the staging tile
(R200), the tile's last one (R272), and those that an entry still awaits. -/
def Armed.keepReads (a : Armed) (pos : Nat) (last : Option Nat) : Armed :=
  let r : Rcd := a.rcd
  { a with lastWord := last, kept := a.kept.filter fun k =>
      (if a.xpose then k.pos == pos else r.indir && decide (k.pos + 1 ≥ pos)) || some k.word == last || !k.next.isEmpty }

/-- The entry of a fetched tile allocated, and its words requested in order (R210, R272, R278). -/
def Hw.fetchTile (h : Hw) (c q : Nat) (id : Nat) (parts : List Part) (mark : Bool) : Hw :=
  let gs := groupParts parts
  let ent := (h.core c).entId
  let last := (parts.getLast?.map (·.pos)).getD 0
  let h := h.modCore c fun s =>
    { s.setQueue q (s.queue q ++ [{ id := ent, slots := tileSlots gs mark, word := some id, seen := 0 }]) with entId := ent + 1 }
  (gs.foldl (fun h g => h.tileRead c q ent id g) h).modCore c fun s => s.modArmed id fun a => a.keepReads last (parts.getLast?.map (·.word))

/-- Bits of byte `i` of a word that a place covers, as a mask of 8. -/
def placeByte (p : Place) (i : Nat) : Nat :=
  let lo := max p.src (8 * i)
  let hi := min (p.src + p.len) (8 * i + 8)
  if lo < hi then (2 ^ (hi - lo) - 1) * 2 ^ (lo - 8 * i) else 0

/-- The bytes a word of an output tile writes: data, byte mask, poison mark, and the bytes of which the DRAIN has then written a part; of two positions
for one element the later stands whole (R169). Bits that the DRAIN has put into a byte before stand; those of no element of it are 0 (R272). -/
def drainWord (tile : Nat) (marks : List Bool) (old : List (Nat × Nat × Nat)) (word : Nat) (ps : List Place) :
    Word × BitVec 32 × Bool × List (Nat × Nat × Nat) :=
  let bytes := (List.range 32).filter fun i => ps.any fun p => placeByte p i != 0
  let had := fun (i : Nat) => ((old.find? fun x => x.1 == word + i).map (·.2)).getD (0, 0)
  let v : Word := bytes.foldl (fun v i => setWordBits v (8 * i) 8 (had i).1) 0
  let v := ps.foldl (fun a p => setWordBits a p.src p.len (bitsOf tile p.dst p.len)) v
  let mask := bytes.foldl (fun a i => a + 2 ^ i) 0
  let now := bytes.filterMap fun i =>
    let m := ps.foldl (fun m p => m ||| placeByte p i) (had i).2
    if m = 255 then none else some (word + i, bitsOf v.toNat (8 * i) 8, m)
  (v, BitVec.ofNat 32 mask, ps.any fun p => marks.getD (p.dst / 256) false, (old.filter fun x => !bytes.any fun i => x.1 == word + i) ++ now)

/-- Contiguous runs of a rising list of numbers: first, length. -/
def runsOf (l : List Nat) : List (Nat × Nat) :=
  (l.foldl (fun (acc : List (Nat × Nat)) i => match acc with
    | (a, n) :: t => if a + n = i then (a, n + 1) :: t else (i, 1) :: acc
    | [] => [(i, 1)]) []).reverse

/-- A write of an output tile leaves by the near port; one of host memory in a request for each run of bytes (R29). -/
def Hw.drainWrite (h : Hw) (c id space : Nat) (loc : Where) (idx : List Int) (d : Word) (m : BitVec 32) (p : Bool) : Hw :=
  let ack := fun (h : Hw) => h.modCore c fun s => s.modArmed id fun a => { a with acks := a.acks + 1 }
  match loc with
  | .dram col off _ => (ack h).portPut c (.col (streamReq c col off (.write d m p) (.drain c id)))
  | .sram a => (ack h).portPut c (.store id space a m d p)
  | .host x => (runsOf ((List.range 32).filter fun i => m.getLsbD i)).foldl (fun h r =>
      ((ack h).goesOut c id (x + r.1) idx).portPut c (.io (x + r.1) r.2 true ((List.range r.2).map fun i => BitVec.ofNat 8 (bitsOf d.toNat (8 * (r.1 + i)) 8)) (.drain c id) p)) h
  | _ => h

/-- The writes of an output tile leave by the near port, in order (R272, R278, R280); all are poisoned where a poisoned side table placed the tile
(R198). -/
def Hw.drainTile (h : Hw) (c id space tile : Nat) (marks : List Bool) (mark : Bool) (parts : List Part) : Hw :=
  (groupParts parts).foldl (fun h g =>
    let (d, m, p, held) := drainWord tile marks ((((h.core c).armedOf id).map (·.parts)).getD []) g.word g.places
    (h.modCore c fun s => s.modArmed id fun a => { a with parts := held }).drainWrite c id space g.loc g.idx d m (p || mark)) h

/-! ## Armed words (R213, R277, R279) -/

/-- Armed words whose work has ended leave the core's list. -/
def Hw.sweep (h : Hw) (c : Nat) : Hw :=
  h.modCore c fun s =>
    { s with armed := s.armed.filter fun a => !(a.done && a.acks == 0 && a.carry.isNone &&
        (a.drain || (List.range 6).all fun q => (s.queue q).all fun e => e.word != some a.id)) }

/-- A fault of an access stream (R197): what the map logs, the descriptor side, and the halt. The address of an index element that is out of range or
poisoned (R171, R172) stands in DSC_FAULT_VA where no descriptor fault does (DESIGN CHOICE, log 61: R207 lists no code for it). -/
def Hw.streamFault (h : Hw) (c : Nat) (a : Armed) (f : WFault) : Hw :=
  let handle := if f.ofIndex = 1 then a.ihandle else if f.ofIndex = 2 then Rcd.i2handle a.rcd else if f.ofIndex = 3 then Desc.side a.desc else a.handle
  let h := match f.log with
    | some w => h.logFail w (reqArg 2 c 0)
    | none => h
  let h := h.dscFault c handle f.code f.dim 1 0 f.scale f.va
  let h := if (f.code = 0x13 ∨ (f.code = 0x0D ∧ (f.ofIndex = 1 ∨ f.ofIndex = 2))) ∧ ¬ h.flag (DSC_FAULT_INFO.VALID c) then h.put (DSC_FAULT_VA.VA c) f.va else h
  h.halt c f.code { stream := 1, pc := a.pc, tag := a.tag, queue := a.queue }

/-- Mask tiles that take up the gate input: a gated word holds its tile there until GATEK's pass ends (R274). -/
def CoreSt.gateUsed (s : CoreSt) : Nat := s.gate.length + (s.armed.filter fun a => a.gateHeld).length

/-- Mask tiles that a walk has taken from the gate input, those of earlier walks of the same tile aside. -/
def Gen.taken (g : Gen) (c : Nat) (a : Armed) : List Tile :=
  let all := a.past ++ g.h.gateSeen c
  all.take (all.length - g.gate.length)

/-- What a tile's walk leaves: the armed word after it, its mask tiles out of the gate input, and of the index and side-table words the last of each
tensor. -/
def Hw.tileDone (g : Gen) (c : Nat) (a : Armed) : Hw :=
  let a' := { g.a with past := [], gateHeld := g.a.mask.isSome, idxAsk := g.a.idxAsk.filter fun k => g.used.any fun u => u.2 == k,
                       idxGot := g.a.idxGot.filter fun y => g.used.any fun u => u.2 == y.1 }
  g.h.modCore c fun s => { (s.modArmed g.a.id fun _ => a') with gate := s.gate.drop ((g.taken c a).length - a.past.length) }

/-- What a walk that waits leaves: the masks of the passes that have ended free their places all the same (R274); nothing else of the tile is done. -/
def Hw.tileWaits (h : Hw) (g : Gen) (c : Nat) (a : Armed) : Hw :=
  let t := g.taken c a
  if t.length ≤ a.past.length ∧ a.gateHeld = g.a.mask.isSome then h
  else h.modCore c fun s => { (s.modArmed a.id fun a => { a with past := t, gateHeld := g.a.mask.isSome }) with gate := s.gate.drop (t.length - a.past.length) }

/-- A word of an index tensor or a side table asked for, once (R29, R192, R278). -/
def Hw.askIndex (h : Hw) (c : Nat) (a : Armed) (k : IdxKey) : Hw :=
  if a.idxAsk.contains k then h
  else
    let h := h.modCore c fun s => s.modArmed a.id fun a => { a with idxAsk := a.idxAsk ++ [k] }
    match k.1 with
    | some col => h.portPut c (.col (streamReq c col (32 * k.2) .read (.index c a.id)))
    | none => h.portPut c (.io k.2 32 false [] (.index c a.id))

/-- What a tile's walk comes to: whether the tile is made (or the word fails), and the core after. `commit` is the tile itself. -/
def Gen.outcome (g : Gen) (h : Hw) (c : Nat) (a : Armed) (commit : Unit → Hw) : Bool × Hw :=
  match g.stat with
  | .miss _ | .mask => (false, h.tileWaits g c a)
  | .index k => (false, (h.tileWaits g c a).askIndex c a k)
  | .bad f => (true, (commit ()).streamFault c a f)
  | _ => (true, (commit ()).sweep c)

/-- A FETCH's next tile. -/
def Hw.genFetch (h : Hw) (c : Nat) (a : Armed) : Bool × Hw :=
  if ((h.core c).queue a.queue).length ≥ 64 then (false, h)
  else
    let g := h.nextTile c a
    g.outcome h c a fun _ => let h := Hw.tileDone g c a; if g.bits = 0 then h else h.fetchTile c a.queue a.id g.parts g.mark

/-- A DRAIN's next tile; a late entry holds the core (R108). -/
def Hw.genDrain (h : Hw) (c : Nat) (a : Armed) : Bool × Hw :=
  let now := h.get (CORE_CYCLE.CYCLE (h.leader c))
  match (h.core c).queue a.queue with
  | [] => (false, h)
  | e :: rest =>
    if e.seen > now then (false, h)
    else if e.late then (true, h.beginHold (h.leader c) ⟨.late, [(8 * c + a.queue, e.id)]⟩)
    else if ¬ e.complete then (false, h)
    else
      let tile := (List.range 8).foldl (fun v j => v + (e.slots.getD j {}).data.toNat * 2 ^ (256 * j)) 0
      let marks := e.slots.map (·.mark)
      let pop := fun (h : Hw) => h.modCore c fun s => s.setQueue a.queue rest
      if Rcd.dest a.rcd = 1 then
        let n := a.cnt.getD 0 0 + 1
        match h.drlOffer c ((List.range 16).map fun i => recAt tile i (marks.getD (i / 2) false)) with
        | (true, h) => (true, (pop h).modCore c fun s => { (s.modArmed a.id fun a =>
            { a with cnt := [n], done := decide (n ≥ Rcd.count a.rcd 0), acks := a.acks + 16 }) with passed := s.passed + 8 })
        | (false, h) => (false, h)
      else
        let g := h.nextTile c a
        g.outcome h c a fun _ =>
          let h := Hw.tileDone g c a
          if g.bits = 0 then h else (pop h).drainTile c a.id (Desc.space a.desc) tile marks g.mark g.parts

/-- The access stream of core `c` may issue or generate: its group's clocks and its own run. -/
def Hw.streamOn (h : Hw) (c : Nat) : Bool := h.clocked c && h.clocked (h.leader c)

/-- The armed words that may generate into or from a queue: the oldest FETCH and the oldest DRAIN with tiles left (R277), where a DEP record's
earlier writes have ended (R279) and no page is outstanding. -/
def CoreSt.turn (s : CoreSt) (q : Nat) : List Armed :=
  let first := fun (drain : Bool) => s.armed.find? fun a => a.queue == q && a.drain == drain && (!a.done || a.carry.isSome)
  let both := match first false, first true with
    | some a, some b => if a.id ≤ b.id then [a, b] else [b, a]
    | some a, none => [a]
    | none, some b => [b]
    | none, none => []
  both.filter fun a => (!Rcd.dep a.rcd || s.beforeDone a.id true) && !a.paged

/-- Tiles made in one arithmetic cycle, `n` at most: each time by the oldest armed word that can, so that the oldest takes what it can use of the near
port's cycle and the next oldest what remains (R277, R278). -/
def Hw.makeTiles (h : Hw) (c : Nat) : Nat → Hw
  | 0 => h
  | n + 1 =>
    if ¬ h.streamOn c ∨ (h.core c).portFull then h
    else
      let (made, h) := (h.core c).armed.foldl (fun (r : Bool × Hw) a =>
        if r.1 ∨ ¬ ((r.2.core c).turn a.queue).any (fun x => x.id == a.id) then r
        else match (r.2.core c).armedOf a.id with
          | some a => if a.drain then r.2.genDrain c a else r.2.genFetch c a
          | none => r) (false, h)
      if made then h.makeTiles c n else h

/-- One arithmetic cycle of core `c`'s tile generation, in which a word of queue `q` has its turn: the requests that stand at the near port pass first,
none while its head lacks credit; every armed word then takes part (R277, R278). -/
def Hw.tileGen (h : Hw) (c q : Nat) : Hw :=
  if ¬ h.streamOn c ∨ (h.core c).portWait then h
  else
    let h := h.portGo c
    if ((h.core c).turn q).isEmpty then h else h.makeTiles c (64 * 7)

/-- TILE_GENERATE. -/
def execTileGenerate (c : Fin 64) (queue : Fin 6) (flt : List SramFault) (s : State) : Host.Outcome State Fault Refusal :=
  done s ((s.hw.sramFaults flt).tileGen c queue)

/-- TRANSLATION_WALK_DONE (R39): the page of `va` is walked and cached; an access that waited for an invalid entry then halts. -/
def execTranslationWalkDone (c : Fin 64) (va : BitVec 48) (s : State) : Host.Outcome State Fault Refusal :=
  let p := va.toNat / 2 ^ 21
  let h := s.hw
  if (tget (fun _ => none) (h.core c).tlb p).isSome ∨ ¬ h.flag MAP_PTROOT.PTV then done s h
  else
    let (e, h) := h.walk p (reqArg 2 c 0)
    let h := h.modCore c fun s => { s with tlb := tset (fun _ => none) s.tlb p (some e) }
    done s (if e = 0 then foldUp 6 (fun q h =>
      if ((h.core c).turn q).any fun a => (match (h.nextTile c a).stat with
        | .bad f => f.code == 0x05
        | _ => false) then h.tileGen c q else h) h else h)

/-! ## Access words (R261, R262) -/

/-- A reserved value or bit of an access word (R261, R262). -/
def accBad (w : Nat) : Bool :=
  headBad w || wFmt w != 0 || (match w % 256 with
    | 0x01 => decide (bitsOf w 64 3 > 5) || decide (bitsOf w 116 12 ≠ 0)
    | 0x02 => decide (bitsOf w 64 3 < 4) || decide (bitsOf w 64 3 > 5) || decide (bitsOf w 116 12 ≠ 0)
    | 0x04 => decide (bitsOf w 80 48 ≠ 0)
    | 0x06 => decide (bitsOf w 64 64 ≠ 0)
    | 0x07 => decide (bitsOf w 82 46 ≠ 0)
    | 0x08 => decide (bitsOf w 64 64 ≠ 0)
    | _ => true)

/-- A FETCH or DRAIN armed (R188, R193, R268 to R276), every descriptor latched: its code, the handle at fault, and the core after. -/
def Hw.arm (h : Hw) (c pc w : Nat) : Nat × Nat × Hw :=
  let l := h.leader c
  let drain := w % 256 == 2
  let handle := bitsOf w 67 8
  let ih := bitsOf w 75 8
  let r : Rcd := h.recordOf c (bitsOf w 83 8)
  let d := h.descOf c handle
  let id := h.descOf c ih
  let i2 := h.descOf c r.i2handle
  let p := fun (on reg : Nat) => if bitAt w on then some (signed 32 (h.pLatch l (bitsOf w reg 5))) else none
  let start := r.starts (p 101 91) (p 102 96)
  let base := if r.persist then h.get (STR_PBASE.BASE c r.pslot) else d.vbase
  let xpose := bitAt w 103
  let port := drain && r.dest == 1
  let compat := h.flag (CORE_STAT.COMPAT c)
  let sd := h.descOf c d.side
  let at' := fun (code n : Nat) => (code, n)
  let (code, bad) :=
    if r.check drain ≠ 0 then at' (r.check drain) handle
    else if port then at' (if handle ≠ 0 ∨ r.ndim ≠ 1 ∨ r.tdim 0 ≠ 0 ∨ r.indir ∨ r.gate ∨ r.persist ∨ xpose then 0x03 else 0) handle
    else if d.check (fun _ => true) drain ≠ 0 then at' (d.check (fun _ => true) drain) handle
    else if d.sparse = 4 ∧ sd.check (fun _ => true) false ≠ 0 then at' (sd.check (fun _ => true) false) d.side
    else if r.persist ∧ base % 32 ≠ 0 then at' 0x03 handle
    else if compat ∧ (d.sparse ≠ 0 ∨ r.gate) then at' 0x14 handle
    else
      let x := r.against d id i2 start xpose (h.core c).staging.isSome
      at' x.1 (if x.2 = 1 then ih else if x.2 = 2 then r.i2handle else handle)
  if code ≠ 0 then (code, bad, h)
  else
    let a : Armed := {
      id := (h.core c).wordId, pc := pc, tag := wTag w, drain := drain, queue := bitsOf w 64 3, handle := handle, ihandle := ih, desc := d,
      rcd := r, idesc := id, i2desc := i2, sdesc := sd, base := base, start := start, cnt := List.replicate 6 0, xpose := xpose, th := bitsOf w 104 6 + 1,
      tw := bitsOf w 110 6 + 1, carry := none, mask := none, done := false, acks := 0, paged := false }
    (0, handle, h.modCore c fun s => { s with armed := s.armed ++ [a] })

/-- A DMA word's batch handed to its channel (R262, R282). -/
def Hw.dmaWord (h : Hw) (c pc w : Nat) : Nat × Hw :=
  let k := bitsOf w 64 5
  let n := bitsOf w 69 6 + 1
  let off := h.pLatch (h.leader c) (bitsOf w 75 5)
  if off % 64 ≠ 0 ∨ off + 16 * n > 0x100000 then (0x02, h)
  else
    let id := (h.core c).wordId
    let h := h.modCore c fun s => { s with dmas := (s.dmas.filter fun d => !d.ended) ++ [⟨id, k, pc, wTag w, false, false, false⟩] }
    let h := h.modChan k fun x => { x with next := x.next ++ [(c, id, n, off)] }
    (0, h.put (DMA_STAT.WAITING k) (bnat ((h.chan k).run.isSome && decide ((h.chan k).next.length ≥ 1))))

/-- The point at which a word's signal is sent (R280). -/
def accCond (w id : Nat) : DefCond :=
  let op := w % 256
  if op = 4 then (if wFence w then .ofWord id else .accepted id)
  else if ¬ wFence w then .now
  else if op = 1 ∨ op = 2 then .ofWord id
  else .before id

/-- A word's own effect: its code, the handle at fault, and the core after, its pc moved on. -/
def Hw.accEffect (h : Hw) (c pc w : Nat) : Nat × Nat × Hw :=
  let op := w % 256
  let s := h.core c
  let (loops, back) := closeLoops pc s.aloops
  let on := fun (h : Hw) => h.modCore c fun s => { s with aloops := loops, apc := back.getD (pc + 16) }
  if lendOf s.aloops pc ≠ wLend w then (0x02, 0, h)
  else if op = 1 ∨ op = 2 then
    let (code, handle, h) := h.arm c pc w
    (code, handle, on h)
  else if op = 4 then
    let (code, h) := h.dmaWord c pc w
    (code, 0, on h)
  else if op = 7 ∧ back.isNone then
    let last := bitsOf w 64 13 * 16
    let (code, loops, next) := beginLoop loops pc (pc + 16) last (last + 16) (h.pLatch (h.leader c) (bitsOf w 77 5)) (accBase h c) 0x20000
    (code, 0, h.modCore c fun s => { s with aloops := loops, apc := next })
  else if op = 8 then (0, 0, (h.modCore c fun s => { s with ast := .ended }).runCheck (h.leader c))
  else (0, 0, on h)

/-- A word's own signal has left the range of the object that the word has taken from: the take stands, as the cycle's takes do (R246). -/
def Hw.ownRange (h : Hw) (c code kind idx : Nat) (w : Option Wait) : Bool :=
  (code == 0x09 || code == 0x0A) && (match w with
    | some x => x.kind == 2 && x.released && (if kind = 2 then
        let r := h.route c idx
        decide (h.leader (bitsOf r 8 8) = h.leader c) && bitsOf r 16 6 == x.idx
      else x.idx == idx)
    | none => false)

/-- The word issues: effect, then signal; a fault of either stops it with no effect of the other. -/
def Hw.accIssueNow (h : Hw) (c pc w : Nat) : Hw :=
  let id := (h.core c).wordId
  let at' : HaltAt := { stream := 1, pc := pc }
  let wait := (h.core c).await
  let arrived := match wait with
    | some x => x.arrived
    | none => false
  let h := h.modCore c fun s => { s with await := none }
  let h0 := h
  let none' := h.untake (h.leader c) wait
  let stands := fun (code : Nat) => h.ownRange c code (sKind w) (sIdx w) wait
  let (code, handle, h') := h.accEffect c pc w
  if code ≠ 0 then (if w % 256 = 1 ∨ w % 256 = 2 then none'.dscFault c handle code 0 1 0 false 0 else none').halt c code at'
  else
    let h := (h'.modCore c fun s => { s with wordId := id + 1, acount := s.acount + 1, passA := false }).count (TEL_CORE.AWORDS c) 1
    let (code, h) := h.wordSignal c 1 pc (if arrived then 0 else sKind w) (sIdx w) (sAmt w) (accCond w id) (some (wTag w))
    if code = 0 then h else (if stands code then h0 else none').halt c code at'

/-- A word whose signal arrives at the barrier on which it waits: the arrival is made first (R305). -/
def Hw.arrivesFirst (h : Hw) (c w : Nat) : Bool :=
  let r := h.route c (sIdx w)
  wKind w == 3 && sKind w == 2 && bitAt r 0 && bitsOf r 1 2 == 1 && bitsOf r 8 8 == wIdx w

/-- A word's wait met and decided in this cycle (R295). Where R305 has the word's own arrival first, that is made at the point `cond` gives its signal,
behind the stream's deferred signals (R296, R297), and the wait stands once it is. A code other than 0 halts. `put` holds the stream's wait. -/
def Hw.standAt (h : Hw) (l c st pc w : Nat) (x : Waiter) (cond : DefCond) (put : Option Wait → Hw → Hw) : Nat × Hw :=
  if wKind w = 0 then (0, h)
  else match h.waitOf l x with
    | some y => (0, if y.released then h else h.decideWait l (wKind w) (wIdx w))
    | none =>
      let first := h.arrivesFirst c w
      if first ∧ ¬ (((h.core c).deferred st).isEmpty ∧ h.condMet c cond) then (0, h)
      else
        let (code, h) := if first then h.sendSignal c st pc 2 (sIdx w) (sAmt w) else (0, h)
        if code ≠ 0 then (code, h)
        else if h.waitCode l (wKind w) (wIdx w) ≠ 0 then (h.waitCode l (wKind w) (wIdx w), h)
        else
          let h := put (some ⟨wKind w, wIdx w, h.waitAmt l w, h.get (CORE_CYCLE.CYCLE l), false, first⟩) h
          let h := h.decideWait l (wKind w) (wIdx w)
          match h.waitOf l x with
          | some y => (0, if y.released then h else h.count (TEL_CORE.WAITS c) 1)
          | none => (0, h)

/-- The point of an access word's arrival that comes before its wait: the word itself has allocated and written nothing, so that a fence looks back at
the writes of earlier words only (R280, R297). -/
def arriveCond (w id : Nat) : DefCond :=
  let op := w % 256
  if ¬ wFence w ∨ op = 1 ∨ op = 2 ∨ op = 4 then .now else .before id

/-- Whether a standing wait has been released. -/
def Hw.waitOver (h : Hw) (l w : Nat) (x : Waiter) : Bool :=
  wKind w == 0 || (match h.waitOf l x with
    | some y => y.released
    | none => false)

/-- The access word at the stream's pc issued where it is the wanted one (R213): once its wait is over and nothing else stops it, a take being
subtracted only then (R242). A stream launched at an offset that is no multiple of 16 runs the words that stand there (DESIGN CHOICE, log 61: R208 aligns
access words and states no outcome). -/
def Hw.accIssue (h : Hw) (c : Nat) (want : Nat → Bool) : Hw := h.orFault (h.leader c) 1 fun h =>
  let s := h.core c
  let l := h.leader c
  let pc := s.apc
  let at' : HaltAt := { stream := 1, pc := pc }
  if ¬ h.streamOn c ∨ s.ast ≠ .running then h
  else if h.flag (CORE_BRK.ACNT_EN c) ∧ s.acount = h.get (CORE_BRK_ACNT.COUNT c) ∧ ¬ s.passA then h.breakCore l c 1 pc
  else if pc < accBase h c ∨ pc + 16 > 0x20000 then h.halt c 0x02 at'
  else
    let w := h.accWord c pc
    if accBad w then h.halt c 0x01 at'
    else if ¬ want (w % 256) then h
    else
      let (code, h) := h.standAt l c 1 pc w (.access c) (arriveCond w s.wordId) fun x h => h.modCore c fun s => { s with await := x }
      if code ≠ 0 then h.halt c code at'
      else if h.waitOver l w (.access c) ∧ ¬ h.accStops c w then h.accIssueNow c pc w
      else h

/-- FETCH (R271). -/
def execFetch (c : Fin 64) (s : State) : Host.Outcome State Fault Refusal := done s (s.hw.accIssue c (· == 1))
/-- DRAIN (R272, R276). -/
def execDrain (c : Fin 64) (s : State) : Host.Outcome State Fault Refusal := done s (s.hw.accIssue c (· == 2))
/-- DMA (R282). -/
def execDma (c : Fin 64) (s : State) : Host.Outcome State Fault Refusal := done s (s.hw.accIssue c (· == 4))
/-- SYNC (R280). -/
def execSync (c : Fin 64) (s : State) : Host.Outcome State Fault Refusal := done s (s.hw.accIssue c (· == 6))
/-- LOOP of the access stream (R227). -/
def execAccessLoop (c : Fin 64) (s : State) : Host.Outcome State Fault Refusal := done s (s.hw.accIssue c (· == 7))
/-- STOP of the access stream. -/
def execAccessStop (c : Fin 64) (s : State) : Host.Outcome State Fault Refusal := done s (s.hw.accIssue c (· == 8))
/-- ACCESS_STREAM_RESUME (R213): the word at which the stream had stopped issues, whichever it is. -/
def execAccessStreamResume (c : Fin 64) (s : State) : Host.Outcome State Fault Refusal := done s (s.hw.accIssue c fun _ => true)

/-! ## The watchdog (R307) -/

/-- The word at which a stream's timed wait stands. -/
def Hw.timedWait (h : Hw) (c st : Nat) : Option Nat :=
  let s := h.core c
  let standing := fun (w : Option Wait) => match w with
    | some w => !w.released
    | none => false
  if st = 0 then (if standing s.xwait then some s.xpc else none)
  else if st = 2 then (if standing s.swait then some s.spc else none)
  else if standing s.await then some s.apc
  else match s.armed.find? fun a => a.paged || (!a.done && Rcd.gate a.rcd && (h.nextTile c a).stat == .mask) with
    | some a => some a.pc
    | none =>
      let w := h.accWord c s.apc
      let gated := (w % 256 = 1 ∨ w % 256 = 2) ∧ Rcd.gate (h.recordOf c (bitsOf w 83 8)) ∧ (h.gateSeen c).isEmpty
      if s.ast = .running ∧ (gated ∨ (w % 256 = 4 ∧ (h.chan (bitsOf w 64 5)).load ≥ 2)) then some s.apc else none

/-- Requests of a core's paused streams to host memory dropped. -/
def Hw.dropPaged (h : Hw) (c : Nat) : Hw :=
  (h.modHost fun x => { x with ioWait := x.ioWait.filter fun r => (match r.dest with
    | .fetch k _ _ _ => k != c
    | .drain k _ => k != c
    | .index k _ => k != c
    | _ => true : Bool) }).modCore c fun s => { s with armed := s.armed.map fun a => { a with paged := false, away := [] } }

/-- The batches of a group that wait on a page request stop as for a failure of the host (R289). -/
def Hw.stopPaged (h : Hw) (l : Nat) : Hw :=
  foldUp 32 (fun k h => match (h.chan k).run with
    | some b => if h.leader b.core = l ∧ h.get (DMA_STAT.STATE k) = 2 then h.chanStop k 0x11 else h
    | none => h) h

/-- WATCHDOG: a wait has stood for WD_MS with the core's clocks running. -/
def execWatchdog (c : Fin 64) (stream : Fin 3) (s : State) : Host.Outcome State Fault Refusal :=
  let h := s.hw
  if ¬ h.streamOn c ∨ ¬ h.flag (SYNC_CTRL.WD_EN c) then done s h
  else match h.timedWait c stream with
    | none => done s h
    | some pc => done s (((h.dropPaged c).halt c 0x0C { stream := stream, pc := pc }).stopPaged (h.leader c))

end Sys2Proof.Machine
end

