-- ==== Sys2Proof/Machine/Tensor.lean ====
section
/-!
DEFINITION. What the engines compute, as functions of values: elements and block products (R124 to R133), conversions (R135 to R139), reductions,
the softmax step, normalisation, top-k and the mask (R142 to R146, R160).
-/
namespace Sys2Proof.Machine

/-! ## Elements (R124 to R127) -/

/-- Floating format of a type code. -/
def fmtOf (t : Nat) : Fmt :=
  match t with
  | 0 => fp32
  | 1 => bf16
  | 2 => fp16
  | 3 | 6 => e4m3
  | 4 | 7 => e5m2
  | 8 => e3m2
  | 9 => e2m3
  | _ => e2m1

/-- Value of an element code. MXINT8 counts 2^-6. -/
def elemVal (t code : Nat) : FV :=
  let int := fun (w : Nat) (e : Int) => FV.fin (decide (signed w code < 0)) (signed w code).natAbs e
  match t with
  | 0x5 => int 8 0
  | 0xB => int 8 (-6)
  | 0xC => int 32 0
  | 0xD => int 64 0
  | _ => (fmtOf t).decode code

/-- Value of an E8M0 scale code (R126). -/
def scaleVal (s : Nat) : FV := if s = 0xFF then .nan else .fin false 1 ((s : Int) - 127)

/-- A block: its element codes and its scale (2^0 where its type has none). -/
structure Blk where
  t : Nat
  codes : List Nat
  scale : FV
  deriving DecidableEq, Repr

def Blk.vals (b : Blk) : List FV := b.codes.map (elemVal b.t)

/-- The exact sum of a list. -/
def FV.sum (l : List FV) : FV := l.foldl FV.add (.fin true 0 0)

/-- A block product with its scales (R131, R133): NaN where a scale is NaN or an element of either block is. -/
def blockProduct (w a : Blk) : FV :=
  if w.vals.any FV.isNan ∨ a.vals.any FV.isNan then .nan
  else ((FV.sum (List.zipWith FV.mul w.vals a.vals)).mul w.scale).mul a.scale

/-- A compressed block product: kept value `j` meets the element its position names (R152, R153). `places` are element indices. -/
def keptProduct (w a : Blk) (places : List Nat) : FV :=
  if w.vals.any FV.isNan ∨ a.vals.any FV.isNan then .nan
  else ((FV.sum (List.zipWith (fun v i => v.mul (a.vals.getD i .nan)) w.vals places)).mul w.scale).mul a.scale

/-- Element index of each kept value of a block, from its metadata (R152). -/
def keptPlaces (s meta' : Nat) : List Nat :=
  if s = 1 then (List.range 16).map fun j => j / 2 * 4 + bitsOf meta' (2 * j) 2
  else if s = 2 then (List.range 8).map fun j => j * 4 + bitsOf meta' (2 * j) 2
  else (List.range 8).map fun j => j / 2 * 8 + bitsOf meta' (3 * j) 3

/-- The two positions of each group rise strictly (R154); under 1:4 every value is valid. -/
def keptLegal (s meta' : Nat) : Bool :=
  if s = 2 then true
  else
    let p := keptPlaces s meta'
    (List.range (p.length / 2)).all fun g => decide (p.getD (2 * g) 0 < p.getD (2 * g + 1) 0)

/-- Cycles of a tensor operation (R129); 0 where the types are not admitted together. -/
def tensorRate (b a : Nat) : Nat :=
  let narrow := fun (t : Nat) => t == 3 || t == 4 || (decide (6 ≤ t) && decide (t ≤ 0xA))
  if b = 0xA ∧ narrow a then 1
  else if narrow b ∧ narrow a then 2
  else if (b = 5 ∨ b = 0xB) ∧ (a = 5 ∨ a = 0xB) then 2
  else if narrow b ∧ (a = 1 ∨ a = 2) then 4
  else if (b = 1 ∨ b = 2) ∧ (a = 1 ∨ a = 2 ∨ narrow a) then 4
  else 0

/-- A contribution added into an accumulator element, one rounding (R131, R132, R134). -/
def accumulate (clear : Bool) (acc : W32) (x : FV) : W32 := toF32 ((if clear then .fin true 0 0 else ofF32 acc).add x)

/-! ## Conversions (R135 to R139) -/

/-- A lane generator's next state (R139). -/
def genStep (x : W32) : W32 :=
  let x := x ^^^ (x <<< 13)
  let x := x ^^^ (x >>> 17)
  x ^^^ (x <<< 5)

/-- The draw of a state. -/
def genDraw (x : W32) : Nat := x.toNat % 65536

/-- A magnitude rounded to an integer. -/
def roundInt (mag : Nat) (exp : Int) (r : Rnd) : Nat :=
  if exp ≥ 0 then mag * 2 ^ exp.toNat
  else
    let k := (-exp).toNat
    let n := mag / 2 ^ k
    let rem := mag % 2 ^ k
    match r with
    | .rne => if 2 * rem > 2 ^ k ∨ (2 * rem = 2 ^ k ∧ n % 2 = 1) then n + 1 else n
    | .stoch d => if rem * 65536 / 2 ^ k + d ≥ 65536 then n + 1 else n

/-- Conversion to INT8 (R135, R137). -/
def toInt8 (v : FV) : Nat :=
  match v with
  | .nan => 0
  | .inf s => if s then 0x80 else 0x7F
  | .fin s m e =>
    let n := roundInt m e .rne
    if s then (256 - min n 128) % 256 else min n 127

/-- Conversion to a type without a block scale. FP32 keeps its bits. -/
def convElem (t : Nat) (x : W32) (r : Rnd) (sat : Bool) : Nat :=
  if t = 0 then x.toNat else if t = 5 then toInt8 (ofF32 x) else (fmtOf t).convert (ofF32 x) r sat

/-- emax of R136. -/
def emaxOf (t : Nat) : Int :=
  match t with
  | 0x6 => 8
  | 0x7 => 15
  | 0x8 => 4
  | 0x9 | 0xA => 2
  | _ => 0

/-- The magnitude of a value, 0 where it is not finite. -/
def FV.finMag : FV → FV
  | .fin _ m e => .fin false m e
  | _ => .fin false 0 0

/-- The largest of a list of magnitudes. -/
def FV.maxOf (l : List FV) : FV := l.foldl (fun a b => if a.lt b then b else a) (.fin false 0 0)

/-- Scale code of a block whose largest magnitude is `amax` (R136). -/
def mxScale (t : Nat) (amax : FV) : Nat :=
  match amax with
  | .fin _ m e =>
    if m = 0 then 0
    else
      let x := e + (bitLen m : Int) - 1 - emaxOf t
      (max (-127) (min 127 x) + 127).toNat
  | _ => 0

/-- An element code of an MX block: the exact quotient by the scale, rounded, held at the largest finite value (R136, R137). -/
def mxElem (t scale : Nat) (v : FV) (r : Rnd) : Nat :=
  match v with
  | .nan => 0
  | .inf s => if t = 7 then (if s then 0xFC else 0x7C) else 0
  | .fin s m e =>
    let q := e - ((scale : Int) - 127)
    if t = 0xB then
      let n := min (roundInt m (q + 6) r) 127
      if s then (256 - n) % 256 else n
    else
      let f := fmtOf t
      f.sign s + min (f.roundMag m q r) f.maxCode

/-- A block of 32 values converted to an MX type: scale code and element codes (R136, R137). `rs` are the lanes' roundings. -/
def convMx (t : Nat) (xs : List W32) (rs : List Rnd) (sat : Bool) : Nat × List Nat :=
  let max32 := fun (s : Bool) => FV.fin s 0xFFFFFF 104
  let vs := xs.map fun x => match ofF32 x with
    | .inf s => if sat then max32 s else .inf s
    | v => v
  let inf : Bool := vs.any fun v => match v with
    | .inf _ => true
    | _ => false
  if vs.any FV.isNan ∨ (inf ∧ t ≠ 7) then (0xFF, xs.map fun _ => 0)
  else
    let s := mxScale t (FV.maxOf (vs.map FV.finMag))
    (s, List.zipWith (fun v r => mxElem t s v r) vs rs)

/-- Codes of one width packed little-endian (R127). -/
def packCodes (w : Nat) (l : List Nat) : Nat := l.foldr (fun c a => c % 2 ^ w + a * 2 ^ w) 0

/-- Rounding of a lane: nearest even, or the draw of its generator's next state. -/
def laneRnd (sr : Bool) (g : W32) : Rnd := if sr then .stoch (genDraw (genStep g)) else .rne

/-- A 32-bit integer's bits as lanes, and back. -/
def lanesOf (v n : Nat) : List W32 := (List.range n).map fun i => BitVec.ofNat 32 (bitsOf v (32 * i) 32)
def packLanes (l : List W32) : Nat := packCodes 32 (l.map BitVec.toNat)

/-! ## Register-form operations (R140, R254) -/

/-- Pairs added until one value is left (R146). -/
def pairSums : Nat → List W32 → W32
  | 0, l => l.headD 0
  | n + 1, l => pairSums n ((List.range (l.length / 2)).map fun j => f32add (l.getD (2 * j) 0) (l.getD (2 * j + 1) 0))

/-- The fixed-order sum of R146. -/
def treeSum (xs : List W32) : W32 :=
  let start : List W32 := List.replicate 32 0x80000000#32
  pairSums 5 ((xs.foldl (fun (a : List W32 × Nat) x => (a.1.set (a.2 % 32) (f32add (a.1.getD (a.2 % 32) 0) x), a.2 + 1)) (start, 0)).1)

/-- BF16 or FP16 rounding, widened again. -/
def round16 (f : Fmt) (x : W32) : W32 := toF32 (f.decode (f.convert (ofF32 x) .rne false))

/-- 1.0 where true. -/
def flag32 (b : Bool) : W32 := if b then 0x3F800000#32 else 0

/-- One lane of a register-form operation other than SMAX and SUM: opcode, MOD, a, b, d. -/
def laneOp (op mod : Nat) (a b d : W32) : W32 :=
  match op with
  | 0x01 => f32add a b
  | 0x02 => f32sub a b
  | 0x03 => f32mul a b
  | 0x04 => f32fma a b d
  | 0x05 => f32mul a a
  | 0x06 => f32min a b
  | 0x07 => f32max a b
  | 0x08 => flag32 (match mod with
    | 0 => f32eq a b
    | 1 => !f32eq a b
    | 2 => f32lt a b
    | _ => f32le a b)
  | 0x09 => a
  | 0x0A => round16 (if mod = 0 then bf16 else fp16) a
  | _ => vecFn (op - 0x10) a

/-- The softmax step (R142): m, l, c and the p. -/
def softmax (m l : W32) (xs : List W32) : W32 × W32 × W32 × List W32 :=
  let mn := xs.foldl f32max m
  if mn = 0xFF800000#32 then (mn, f32add (f32mul l 0x3F800000#32) (treeSum (xs.map fun _ => 0#32)), 0x3F800000#32, xs.map fun _ => 0#32)
  else
    let c := vecFn 0 (f32sub m mn)
    let ps := xs.map fun x => vecFn 0 (f32sub x mn)
    (mn, f32add (f32mul l c) (treeSum ps), c, ps)

/-! ## Descriptor-form operations (R143, R144, R160) -/

/-- RMS normalisation of a row. -/
def rmsNorm (xs gs : List W32) (eps : W32) : List W32 :=
  let s := treeSum (xs.map fun x => f32mul x x)
  let inv := f32div 0x3F800000#32 (intToF32 (BitVec.ofNat 32 xs.length))
  let q := vecFn 2 (f32fma s inv eps)
  List.zipWith (fun x g => f32mul (f32mul x q) g) xs gs

/-- Whether `a` ranks above `b` in top-k: NaN below every number, zeros of both signs equal. -/
def ranksAbove (a b : W32) : Bool := if isNan32 a then false else if isNan32 b then true else f32lt b a

/-- An element put into a list in descending order, behind its equals. -/
def rankInsert (x : W32 × Nat) : List (W32 × Nat) → List (W32 × Nat)
  | [] => [x]
  | y :: t => if ranksAbove x.1 y.1 then x :: y :: t else y :: rankInsert x t

/-- Top-k: values and positions, padded with -infinity and -1 (R144). A NaN among them keeps its bits: it is selected and not produced (R134; DESIGN
CHOICE, log 55). -/
def topK (xs : List W32) (k : Nat) : List W32 × List W32 :=
  let best := (xs.foldl (fun (a : List (W32 × Nat) × Nat) x => ((rankInsert (x, a.2) a.1).take k, a.2 + 1)) ([], 0)).1
  let pad := k - best.length
  (best.map (·.1) ++ List.replicate pad 0xFF800000#32, best.map (fun x => BitVec.ofNat 32 x.2) ++ List.replicate pad 0xFFFFFFFF#32)

/-- Whether an element sets its block's bit under threshold `tau` (R160). -/
def overThreshold (v tau : FV) : Bool :=
  match v with
  | .nan => true
  | .inf _ => true
  | .fin _ m e => tau.lt (.fin false m e)

/-- The threshold in force: negative and NaN count as 0. -/
def maskTau (x : W32) : FV :=
  match ofF32 x with
  | .nan => .fin false 0 0
  | v => if v.lt (.fin false 0 0) then .fin false 0 0 else v

/-! ## The reduction network (R147, R258) -/

/-- Vectors combined pair by pair in an order that `seed` picks, until one is left: the order of additions is not fixed. -/
def combineAny (f : W32 → W32 → W32) : Nat → Nat → List (List W32) → List W32
  | 0, _, l => l.headD []
  | n + 1, seed, l =>
    if l.length ≤ 1 then l.headD []
    else
      let i := seed % l.length
      let a := l.getD i []
      let l := l.eraseIdx i
      let j := seed / 64 % l.length
      combineAny f n (seed / 4096) (List.zipWith f a (l.getD j []) :: l.eraseIdx j)

end Sys2Proof.Machine
end

