-- ==== Sys2Proof/Machine/Slots.lean ====
section
/-!
DEFINITION. The slots of the long word (R239, R248 to R260): their fields, the checks that refuse each, and what they read.
-/
namespace Sys2Proof.Machine

/-! ## The long word (R239) -/

/-- A fault of a word: code, slot and queue where one is at fault, the member that caused it, and the descriptor side (handle, DIM, VA, SCALE). -/
structure XFault where
  code : Nat
  who : Nat
  slot : Option Nat := none
  queue : Nat := 7
  dsc : Option (Nat × Nat × Nat × Bool) := none
  /-- the word's take stands all the same (R246) -/
  keeps : Bool := false
  deriving DecidableEq, Repr

/-- A long word: header, slots by SLOT code (T, V, P0, P1, O, X, S, L), length in bytes. -/
structure XWord where
  hdr : Nat
  slots : List (Option Nat)
  len : Nat
  deriving DecidableEq, Repr

def XWord.slot (w : XWord) (i : Nat) : Option Nat := w.slots.getD i none

/-- Length of the word whose header is `hdr`. -/
def wordLen (hdr : Nat) : Nat := 8 + 4 * popCount hdr 8

/-- The long word at an offset of instruction memory. -/
def Hw.longWord (h : Hw) (l pc : Nat) : XWord :=
  let hdr := h.sread (sramImem l + pc) 8
  { hdr := hdr, len := wordLen hdr,
    slots := (List.range 8).map fun i => if bitAt hdr i then some (h.sread (sramImem l + pc + 8 + 4 * popCount hdr i) 4) else none }

def execBase (h : Hw) (l : Nat) : Nat := h.get (CORE_IMEM.EXEC_BASE l) * 64
def execEnd (h : Hw) (l : Nat) : Nat := h.get (CORE_IMEM.ACC_BASE l) * 64

/-- Engines that a group's words drive. -/
def Hw.engsOf (h : Hw) (l : Nat) : List Nat := (h.members l).flatMap fun m => (List.range 8).map (8 * m + ·)

/-! ## Fields -/

def tOp (s : Nat) : Nat := s % 4
def tBh (s : Nat) : Nat := bitsOf s 2 8
def tAh (s : Nat) : Nat := bitsOf s 10 8
def tTok (s : Nat) : Nat := bitsOf s 18 3
def tAbase (s : Nat) : Nat := bitsOf s 21 11
def tClear (s : Nat) : Bool := bitAt s 2
def tAcc (s : Nat) : Nat := bitsOf s 3 6
def tBreg (s : Nat) : Nat := bitsOf s 9 6
def tSidx (s : Nat) : Nat := bitsOf s 15 8
def tAblk (s : Nat) : Nat := bitsOf s 23 9

def pQueue (s : Nat) : Nat := bitsOf s 0 3
def pMode (s : Nat) : Nat := bitsOf s 3 2
def pDst (s : Nat) : Nat := bitsOf s 5 6
def pHandle (s : Nat) : Nat := bitsOf s 11 8
def pFirst (s : Nat) : Bool := bitAt s 19

def vOp (s : Nat) : Nat := bitsOf s 0 6
def vDst (s : Nat) : Nat := bitsOf s 6 8
def vA (s : Nat) : Nat := bitsOf s 14 8
def vB (s : Nat) : Nat := bitsOf s 22 8
def vMod (s : Nat) : Nat := bitsOf s 30 2

def oQueue (s : Nat) : Nat := bitsOf s 0 3
def oSr (s : Nat) : Bool := bitAt s 3
def oSat (s : Nat) : Bool := bitAt s 4
def oHandle (s : Nat) : Nat := bitsOf s 5 8
def oSrc (s : Nat) : Nat := bitsOf s 13 8
def oPart (s : Nat) : Nat := bitsOf s 21 2

def xMode (s : Nat) : Nat := bitsOf s 0 2
def xSrc (s : Nat) : Nat := bitsOf s 2 8
def xDst (s : Nat) : Nat := bitsOf s 10 8
def xChan (s : Nat) : Nat := bitsOf s 18 4

def sOp (s : Nat) : Nat := bitsOf s 0 3
def sReg (s : Nat) : Nat := bitsOf s 3 5
def sSrc (s : Nat) : Nat := bitsOf s 8 8
def sLane (s : Nat) : Nat := bitsOf s 16 5
def sEng (s : Nat) : Nat := bitsOf s 21 3
def sSel (s : Nat) : Bool := bitAt s 24

def lOp (s : Nat) : Nat := bitsOf s 0 4
def lReg (s : Nat) : Nat := bitsOf s 4 5
def lOff (s : Nat) : Nat := bitsOf s 9 15 * 4

/-! ## Operands (R249) -/

def srcSpec (x : Nat) : Bool := decide (x ≤ 0xE3)
def dstSpec (x : Nat) : Bool := decide (x ≤ 0xBF)

/-- Engine-buffer vector of a window specifier. -/
def Eng.vec (g : Eng) (x : Nat) : Nat := (if x < 0x80 then g.w0 else g.w1) + x % 64

/-- A window vector lies beyond the engine buffer. -/
def Hw.vecOut (h : Hw) (e x : Nat) : Bool := decide (0x40 ≤ x) && decide (x ≤ 0xBF) && decide ((h.eng e).vec x ≥ 1536)

/-- A vector operand of engine `e`: lanes and poison mark. -/
def Hw.operand (h : Hw) (e x : Nat) : List W32 × Bool :=
  let g := h.eng e
  if x < 0x40 then ((List.range 32).map fun i => tget (fun _ => 0#32) g.acc (32 * x + i), tget (fun _ => false) g.accMark x)
  else if x ≤ 0xBF then
    let a := sramEng e + 128 * g.vec x
    (lanesOf (h.sread a 128) 32, (List.range 4).any fun i => h.smark (a + 32 * i))
  else
    let v : W32 := if x ≤ 0xDF then tget (fun _ => 0#32) g.bc (x - 0xC0) else if x = 0xE0 then 0 else if x = 0xE1 then 0x3F800000#32
      else if x = 0xE2 then 0xFF800000#32 else 0x7F800000#32
    (List.replicate 32 v, false)

/-- Where lanes 0 to n - 1 of a destination specifier land. -/
def Hw.vecDest (h : Hw) (e x n : Nat) (mark : Bool) : Dest :=
  if x < 0x40 then .row e x n mark else .ebuf e (128 * (h.eng e).vec x) (4 * n) 0 1 mark

/-! ## Reserved values (R241, R250 to R260) -/

def tBad (s : Nat) : Bool := decide (tOp s ≥ 2) || (tOp s == 1 && decide (tTok s ≥ 6))

def pBad (s : Nat) : Bool :=
  decide (pQueue s ≥ 4) || decide (pMode s = 3) || (pMode s == 1 && decide (bitsOf s 8 3 ≠ 0)) || (pMode s != 2 && pFirst s) || decide (bitsOf s 20 12 ≠ 0)

/-- Register-form opcodes, and those that use b. -/
def vReg (op : Nat) : Bool := (decide (1 ≤ op) && decide (op ≤ 0xA)) || (decide (0x10 ≤ op) && decide (op ≤ 0x19))
def vUsesB (op : Nat) : Bool := [1, 2, 3, 4, 6, 7, 8, 0x18].contains op

def vBad (s : Nat) : Bool :=
  let op := vOp s
  if op = 0x1A then decide (bitsOf s 17 13 ≠ 0) || bitAt s 31
  else if vReg op then
    !dstSpec (vDst s) || !srcSpec (vA s) ||
    (if op = 0x18 then !dstSpec (vB s) else if vUsesB op then !srcSpec (vB s) else vB s != 0) ||
    (if op = 8 then false else if op = 0xA then decide (vMod s ≥ 2) else vMod s != 0)
  else if op = 0x20 then bitsOf s 27 5 != 0
  else if 0x21 ≤ op ∧ op ≤ 0x23 then bitsOf s 28 4 != 0
  else true

/-- A PART outside the table of R256, for a type. -/
def partBad (t part : Nat) : Bool :=
  if t = 0 then false else if t = 1 ∨ t = 2 then decide (part > 1) else if isMx t then !(part == 0 || part == 3) else if t ≤ 5 then part != 0 else false

def oBad (t s : Nat) : Bool :=
  decide (oQueue s < 4) || decide (oQueue s > 6) || decide (bitsOf s 23 9 ≠ 0) ||
  (if oQueue s = 6 then bitsOf s 3 20 != 0 else !srcSpec (oSrc s) || partBad t (oPart s))

def xBad (s : Nat) : Bool := decide (xMode s = 3) || !srcSpec (xSrc s) || !dstSpec (xDst s) || decide (bitsOf s 22 10 ≠ 0)

def sBad (s : Nat) : Bool :=
  decide (sOp s ≥ 4) || decide (bitsOf s 25 7 ≠ 0) ||
  (if sOp s = 3 then bitsOf s 8 17 != 0 else if sSel s then bitsOf s 8 13 != 0 else !srcSpec (sSrc s))

def lBad (fmt s : Nat) : Bool :=
  match lOp s with
  | 1 => bitsOf s 24 8 != 0
  | 2 | 3 => bitsOf s 4 28 != 0
  | 0xF => fmt != 1 || bitsOf s 24 8 != 0
  | _ => true

/-- A reserved value or bit of slot `i`. -/
def Hw.slotBad (h : Hw) (l fmt i s : Nat) : Bool :=
  match i with
  | 0 => tBad s
  | 1 => vBad s
  | 2 | 3 => pBad s
  | 4 => oBad (h.descOf l (oHandle s)).type s
  | 5 => xBad s
  | 6 => sBad s
  | _ => lBad fmt s

/-! ## Weight blocks and activations (R250 to R253) -/

/-- Bytes of a stored block of 32 logical elements (R127, R253). -/
def blockBytes (d : Desc) : Nat := keptOf d.sparse * d.bits / 8

/-- Weight blocks that one operation takes: 32 / T, or twice as many under N:M. -/
def blocksTaken (d : Desc) (tok : Nat) : Nat := (if 1 ≤ d.sparse ∧ d.sparse ≤ 3 then 2 else 1) * (32 / tok)

/-- Descriptors of the latched tensor configuration (R252). -/
def TCfg.bd (x : TCfg) : Desc := x.b
def TCfg.ad (x : TCfg) : Desc := x.a

/-- Bytes of the B registers. -/
def Eng.bRead (g : Eng) (off n : Nat) : Nat :=
  let r := off / 32
  let v := (List.range ((off % 32 + n + 31) / 32)).foldl (fun v i => v + (tget (fun _ => (0, 0)) g.b (r + i)).1.toNat * 2 ^ (256 * i)) 0
  bitsOf v (off % 32 * 8) (8 * n)

/-- Stored block `q` from B[breg], with its metadata. -/
def Eng.weight (g : Eng) (d : Desc) (breg sidx q : Nat) : Blk × Nat :=
  let size := blockBytes d
  let off := 32 * breg + q * size
  let v := g.bRead off size
  let mb := keptOf d.sparse * posBits d.sparse
  let r := q * size / 32
  let first := (32 * r + size - 1) / size
  let shadow := (tget (fun _ => (0, 0)) g.b (breg + r)).2.toNat
  (⟨d.type, (List.range (keptOf d.sparse)).map fun i => bitsOf v (i * d.bits) d.bits,
    if isMx d.type then scaleVal (tget (fun _ => 0#8) g.scale (sidx + q)).toNat else scaleVal 127⟩, bitsOf shadow ((q - first) * mb) mb)

/-- The bits at bit address `ba` of engine `e`'s buffer. -/
def Hw.ebits (h : Hw) (e ba n : Nat) : Nat := bitsOf (h.sread (sramEng e + ba / 8) ((ba % 8 + n + 7) / 8)) (ba % 8) n

/-- Activation block `blk` of token `t`. -/
def Hw.activation (h : Hw) (e : Nat) (d : Desc) (blk t : Nat) : Blk :=
  ⟨d.type, (List.range 32).map fun i => h.ebits e (d.bitAddr d.vbase [32 * blk + i, t]) d.bits,
    if isMx d.type then scaleVal (h.sread (sramEng e + d.sbase + d.scaleOff [32 * blk, t]) 1) else scaleVal 127⟩

/-- Activation blocks of an MMA: one of each token, or two under N:M (R253). -/
def TCfg.actBlocks (x : TCfg) (s : Nat) : List Nat :=
  let b := x.abase + tAblk s
  if 1 ≤ x.bd.sparse ∧ x.bd.sparse ≤ 3 then [b, b + 1] else [b]

/-- The 32 contributions of an MMA in engine `e` (R128, R130, R253). -/
def Hw.products (h : Hw) (e : Nat) (x : TCfg) (s : Nat) : List FV :=
  let d := x.bd
  let nm := decide (1 ≤ d.sparse) && decide (d.sparse ≤ 3)
  let ws := (List.range (blocksTaken d x.tok)).map fun q => (h.eng e).weight d (tBreg s) (tSidx s) q
  let acts := (List.range x.tok).map fun t => (x.actBlocks s).map fun b => h.activation e x.ad b t
  let none' : Blk := ⟨0, [], .nan⟩
  (List.range 32).map fun l =>
    let r := l / x.tok
    let a := acts.getD (l % x.tok) []
    if nm then
      let one := fun (k : Nat) =>
        let w := ws.getD (2 * r + k) (none', 0)
        keptProduct w.1 (a.getD k none') (keptPlaces d.sparse w.2)
      (one 0).add (one 1)
    else blockProduct (ws.getD r (none', 0)).1 (a.getD 0 none')

/-- SRAM words of engine `e` that hold the first `n` elements of a block of a row, and its scale. -/
def Desc.blockWords (d : Desc) (e blk t : Nat) (n : Nat := 32) : List Nat :=
  let w := (List.range n).flatMap fun i =>
    let a := d.bitAddr d.vbase [32 * blk + i, t]
    [(sramEng e + a / 8) / 32, (sramEng e + (a + d.bits - 1) / 8) / 32]
  (w ++ if isMx d.type then [(sramEng e + d.sbase + d.scaleOff [32 * blk, t]) / 32] else []).eraseDups

/-- The poison policies of the marked words that an MMA reads in engine `e`: true for propagate (R198, R522). -/
def Hw.mmaMarks (h : Hw) (e : Nat) (x : TCfg) (s : Nat) : List Bool :=
  let g := h.eng e
  let d := x.bd
  let n := blocksTaken d x.tok
  let regs := (List.range ((n * blockBytes d + 31) / 32)).map (tBreg s + ·)
  let parts := if isMx d.type then ((List.range n).map fun q => (tSidx s + q) / 32).eraseDups else []
  let held := (regs.map fun r => tget (fun _ => 0) g.bMark r) ++ parts.map fun p => tget (fun _ => 0) g.scaleMark p
  let words := ((x.actBlocks s).flatMap fun b => (List.range x.tok).flatMap fun t => Desc.blockWords x.ad e b t).eraseDups
  ((held.filter (· != 0)).map (· == 2)) ++ ((words.filter fun w => h.smark (32 * w)).map fun _ => x.ad.propagate)

/-! ## Packets (R153, R154, R251) -/

/-- Values of a packet as one string of bits, and the metadata of its blocks. -/
def packetParts (d : Desc) (words : List Word) : Nat × List Nat :=
  let v := packCodes 256 (words.map BitVec.toNat)
  let bits := packetBlocks d.bits d.sparse * keptOf d.sparse * d.bits
  let mb := keptOf d.sparse * posBits d.sparse
  (v % 2 ^ bits, (List.range (packetBlocks d.bits d.sparse)).map fun i => bitsOf v (bits + i * mb) mb)

/-- Bytes of a packet's values. -/
def packetBytes (d : Desc) : Nat := packetBlocks d.bits d.sparse * keptOf d.sparse * d.bits / 8

/-- Blocks that begin in register `r` of a packet, in order. -/
def beginning (d : Desc) (r : Nat) : List Nat := (List.range (packetBlocks d.bits d.sparse)).filter fun q => q * blockBytes d / 32 == r

end Sys2Proof.Machine
end

