-- ==== Sys2Proof/Machine/Checks.lean ====
section
/-!
DEFINITION. The checks of a long word at issue, in the order of R234: encoding, loops, descriptors, pops, unit occupancy, pushes, latency.
-/
namespace Sys2Proof.Machine

/-! ## Check 2: encoding (R241, R251, R253, R254, R256, R258, R266, R296) -/

/-- SLOT codes in the order of check 4: P0, P1, T, V, X, S, O, L. -/
def slotOrder : List Nat := [2, 3, 0, 1, 5, 6, 4, 7]

def XWord.present (w : XWord) : List (Nat × Nat) := slotOrder.filterMap fun i => (w.slot i).map fun s => (i, s)

/-- A packet of a P slot in assembly. -/
def Hw.packet (h : Hw) (l i : Nat) : Option Packet := tget (fun _ => none) (h.core l).pk i

/-- Whether a type-3 value of SPARSE is N:M. -/
def nmSparse (s : Nat) : Bool := decide (1 ≤ s) && decide (s ≤ 3)

/-- Operation 0xF of a word. -/
def XWord.branch (w : XWord) : Option Nat :=
  match w.slot 7 with
  | some s => if lOp s = 0xF then some s else none
  | none => none

def XWord.loop (w : XWord) : Option Nat :=
  match w.slot 7 with
  | some s => if lOp s = 1 then some s else none
  | none => none

def XWord.stops (w : XWord) : Bool :=
  match w.slot 7 with
  | some s => lOp s == 2
  | none => false

/-- A combination of legal values of slot `i` that cannot be carried out. -/
def Hw.slotStuck (h : Hw) (l i s : Nat) : Bool :=
  match i with
  | 0 => if tOp s = 1 then false else match (h.eng (8 * l)).tcfg with
    | none => true
    | some x =>
      let n := blocksTaken x.bd x.tok
      decide (32 * tBreg s + n * blockBytes x.bd > 2048) || (isMx x.bd.type && decide (tSidx s + n > 256))
  | 1 => vOp s == 0x1A && decide (bitsOf s 6 11 + 63 ≥ 1536)
  | 2 | 3 =>
    if pMode s ≠ 2 then false
    else
      let d := h.descOf l (pHandle s)
      if pFirst s then (h.packet l i).isSome || (nmSparse d.sparse && decide (32 * pDst s + packetBytes d > 2048)) else (h.packet l i).isNone
  | 4 => isMx (h.descOf l (oHandle s)).type && oQueue s != 6 && oPart s == 0 && (h.engsOf l).any fun e => decide ((h.eng e).stage.length ≥ 32)
  | 5 => match h.img.conf with
    | some k => k.red.all fun r => !(r.cluster == l / 4 && r.chan == xChan s)
    | none => true
  | _ => false

/-- The word's signal would be the thirty-third deferred one: behind 32 every signal is held back, fenced or not (R296). -/
def Hw.deferFull (h : Hw) (l w : Nat) : Bool := sKind w != 0 && decide ((h.core l).xdef.length ≥ 32)

/-- Check 2: 0x17, then 0x01, then 0x02 (R234, R266). -/
def Hw.encodingFault (h : Hw) (l : Nat) (w : XWord) : Option XFault :=
  let fmt := wFmt w.hdr
  let fault := fun (c : Nat) (i : Option Nat) => some ({ code := c, who := l, slot := i } : XFault)
  let bad := w.present.find? fun x => h.slotBad l fmt x.1 x.2
  let stuck := w.present.find? fun x => h.slotStuck l x.1 x.2
  let outside : Bool := match w.branch with
    | some s => decide (lOff s < execBase h l) || decide (lOff s ≥ execEnd h l)
    | none => fmt == 1
  let delay := (h.core l).legacy.isSome && (fmt == 1 || w.loop.isSome || wLend w.hdr != 0)
  if fmt = 1 ∧ ¬ h.flag (CORE_STAT.COMPAT l) then fault 0x17 none
  else if fmt ≥ 2 ∨ headBad w.hdr then fault 0x01 none
  else match bad, stuck with
    | some x, _ => fault 0x01 (some x.1)
    | none, some x => fault 0x02 (some x.1)
    | none, none => if outside ∨ delay ∨ h.deferFull l w.hdr then fault 0x02 (if outside then some 7 else none) else none

/-! ## Check 3: loops (R227, R228, R247, R260, R266) -/

/-- The loops after the word, where execution goes on, or a code. -/
def Hw.loopOutcome (h : Hw) (l pc : Nat) (w : XWord) : Nat × List Loop × Nat :=
  let loops := (h.core l).xloops
  let (left, back) := closeLoops pc loops
  let next := back.getD (pc + w.len)
  let inner := match w.branch, loops with
    | some s, x :: _ => decide (lOff s < x.beg) || decide (lOff s > x.last)
    | _, _ => false
  if lendOf loops pc ≠ wLend w.hdr then (0x02, loops, next)
  else if inner then (0x15, loops, next)
  else match w.loop, back with
    | some s, none =>
      let last := lOff s
      let (code, lp, nx) := beginLoop left pc (pc + w.len) last (last + wordLen (h.sread (sramImem l + last) 1)) (h.pLatch l (lReg s))
        (execBase h l) (execEnd h l)
      (if last < execBase h l ∨ last ≥ execEnd h l then 0x15 else code, lp, nx)
    | _, _ => (0, left, next)

/-! ## Check 4: descriptors (R193, R249, R252 to R256) -/

/-- A fault at descriptor `n`; one at its latch has no address (R207). -/
def descAt (l slot n code dim va : Nat) (scale : Bool) : Option XFault :=
  some { code := code, who := l, slot := some slot, dsc := some (n, dim, va, scale) }

/-- Descriptor `n` latched by slot `slot`: R193, then what the operation asks of its SPACE, then compatibility mode. -/
def Hw.latchFault (h : Hw) (l slot n : Nat) (accept : Nat → Bool) (written : Bool) (inEngine : Nat) : Option XFault :=
  let d := h.descOf l n
  let c := d.check accept written
  if c ≠ 0 then descAt l slot n c 0 0 false
  else if inEngine ≠ 0 ∧ d.space ≠ 4 then descAt l slot n inEngine 0 0 false
  else if h.flag (CORE_STAT.COMPAT l) ∧ d.sparse ≠ 0 then descAt l slot n 0x14 0 0 false
  else none

/-- Bounds of the element with indices `i` of a descriptor (R195). -/
def boundsFault (l slot n : Nat) (d : Desc) (i : List Nat) : Option XFault :=
  match d.bounds d.vbase (i.map Int.ofNat) with
  | some k => descAt l slot n 0x04 k (d.bitAddr d.vbase i / 8) false
  | none => none

/-- Bounds of the scale of an element. -/
def scaleFault (l slot n : Nat) (d : Desc) (i : List Nat) : Option XFault :=
  if isMx d.type ∧ d.sbase + d.scaleOff i ≥ spaceEnd 4 then descAt l slot n 0x04 7 (d.sbase + d.scaleOff i) true else none

/-- The first of a list of faults. -/
def firstFault (l : List (Option XFault)) : Option XFault := l.findSome? id

/-- A window operand beyond the engine buffer in some engine (R249). -/
def Hw.windowFault (h : Hw) (l slot x : Nat) : Option XFault :=
  if (h.engsOf l).any fun e => h.vecOut e x then some { code := 0x04, who := l, slot := some slot } else none

def isF32 (t : Nat) : Bool := t == 0
def notIndex (t : Nat) : Bool := !(t == 0xC || t == 0xD)

/-- TCFG (R252, R129). -/
def Hw.tcfgFault (h : Hw) (l s : Nat) : Option XFault :=
  let b := h.descOf l (tBh s)
  let a := h.descOf l (tAh s)
  firstFault [
    h.latchFault l 0 (tBh s) (fun t => !(t == 0) && notIndex t) false 0,
    h.latchFault l 0 (tAh s) (fun t => tensorRate b.type t != 0) false 0x03,
    (if a.sparse ≠ 0 then descAt l 0 (tAh s) 0x14 0 0 false else none),
    (if 2 ^ tTok s > a.size 1 then descAt l 0 (tAh s) 0x04 1 (a.bitAddr a.vbase [0, a.size 1] / 8) false else none)]

/-- MMA: activation blocks and the rate in compatibility mode (R253, R232). -/
def Hw.mmaFault (h : Hw) (l s : Nat) : Option XFault :=
  match (h.eng (8 * l)).tcfg with
  | none => none
  | some x =>
    let a := x.ad
    if h.flag (CORE_STAT.COMPAT l) ∧ tensorRate x.bd.type a.type = 1 then some { code := 0x14, who := l, slot := some 0 }
    else (x.actBlocks s).findSome? fun b =>
      if b ≥ a.size 0 / 32 then descAt l 0 x.ah 0x04 0 (a.bitAddr a.vbase [32 * b] / 8) false
      else (List.range x.tok).findSome? fun t =>
        firstFault [boundsFault l 0 x.ah a [32 * b, t], boundsFault l 0 x.ah a [32 * b + 31, t], scaleFault l 0 x.ah a [32 * b, t]]

/-- A row in the engine buffer, its first and last elements in bounds. -/
def Hw.rowFault (h : Hw) (l n : Nat) (accept : Nat → Bool) (written : Bool) (len : Nat) (tok : Nat) : Option XFault :=
  let d := h.descOf l n
  firstFault [h.latchFault l 1 n accept written 0x14, boundsFault l 1 n d [0, 0], boundsFault l 1 n d [len - 1, tok - 1], scaleFault l 1 n d [len - 1, tok - 1]]

/-- Row length of a descriptor form: 1 to 65,536. -/
def Hw.lengthFault (h : Hw) (l n : Nat) : Option XFault :=
  let d := h.descOf l n
  if d.size 0 > 65536 then descAt l 1 n 0x14 0 0 false else none

/-- First byte of tile TILE of a CRC. -/
def crcTile (d : Desc) (s : Nat) : Nat := d.vbase + 256 * (bitsOf s 14 8 + bitsOf s 22 5 * 256)

/-- Value of element `i` of row `t` in engine `e`'s buffer, its block scale included. -/
def Hw.rowElem (h : Hw) (e : Nat) (d : Desc) (i t : Nat) : FV :=
  let v := elemVal d.type (h.ebits e (d.bitAddr d.vbase [i, t]) d.bits)
  if isMx d.type then v.mul (scaleVal (h.sread (sramEng e + d.sbase + d.scaleOff [i, t]) 1)) else v

/-- The bands that a MASK keeps in engine `e` (R160). -/
def Hw.keptBands (h : Hw) (l e s : Nat) : List Nat :=
  let d := h.descOf l (vDst s)
  let tau := maskTau (h.sreg l (bitsOf s 23 5))
  (List.range ((d.size 0 + 31) / 32)).filter fun k => (List.range (d.size 1)).any fun t => (List.range 32).any fun i =>
    decide (32 * k + i < d.size 0) && overThreshold (h.rowElem e d (32 * k + i) t) tau

/-- Bytes that a MASK compacts in engine `e` (R161). -/
def Hw.compactBytes (h : Hw) (l e s : Nat) : Nat :=
  let d := h.descOf l (vDst s)
  (h.keptBands l e s).length * d.size 1 * 4 * d.bits

/-- Output elements that a TOPK writes: values from 0 on, positions from 64 on. -/
def topOuts (k : Nat) : List Nat := (List.range k) ++ (List.range k).map (64 + ·)

/-- The V slot's windows or descriptors. -/
def Hw.vFault (h : Hw) (l s : Nat) : Option XFault :=
  let op := vOp s
  let hx := vDst s
  let hy := vA s
  let x := h.descOf l hx
  let y := h.descOf l hy
  if op = 0x1A then none
  else if vReg op then firstFault [h.windowFault l 1 (vDst s), h.windowFault l 1 (vA s), if vUsesB op then h.windowFault l 1 (vB s) else none]
  else if op = 0x20 then
    firstFault [h.latchFault l 1 hx isF32 true 0x14, h.lengthFault l hx, h.rowFault l hx isF32 true (x.size 0) 1, h.rowFault l hy isF32 false (x.size 0) 1]
  else if op = 0x21 then
    firstFault [h.latchFault l 1 hx isF32 false 0x14, h.lengthFault l hx, h.rowFault l hx isF32 false (x.size 0) 1, h.latchFault l 1 hy isF32 true 0x14,
      (if y.elems < 128 then descAt l 1 hy 0x14 0 0 false else none),
      (topOuts (bitsOf s 22 6 + 1)).findSome? fun j => boundsFault l 1 hy y ((y.unrank j).map Int.toNat)]
  else if op = 0x22 then
    firstFault [h.latchFault l 1 hx notIndex false 0x14, h.lengthFault l hx,
      (if x.size 1 > 32 ∨ x.sparse ≠ 0 then descAt l 1 hx 0x14 0 0 false else none), h.rowFault l hx notIndex false (x.size 0) (x.size 1),
      if bitAt s 22 then firstFault [h.latchFault l 1 hy notIndex true 0x14, if y.type ≠ x.type then descAt l 1 hy 0x14 0 0 false else none,
        if (h.engsOf l).any fun e => decide (y.vbase + h.compactBytes l e s > min (y.vbase + y.limit * 32) (spaceEnd 4)) then descAt l 1 hy 0x04 7 (min (y.vbase + y.limit * 32) (spaceEnd 4)) false
          else none] else none]
  else
    firstFault [h.latchFault l 1 hx (fun _ => true) false 0x14,
      if crcTile x s + 256 > min (x.vbase + x.limit * 32) (spaceEnd 4) then descAt l 1 hx 0x04 7 (max (crcTile x s) (min (x.vbase + x.limit * 32) (spaceEnd 4))) false else none]

/-- Check 4 of slot `i`. -/
def Hw.descFault (h : Hw) (l i s : Nat) : Option XFault :=
  match i with
  | 0 => if tOp s = 1 then h.tcfgFault l s else h.mmaFault l s
  | 1 => h.vFault l s
  | 2 | 3 => firstFault [h.latchFault l i (pHandle s) (fun _ => true) false 0,
      if pMode s = 2 ∧ ¬ nmSparse (h.descOf l (pHandle s)).sparse then descAt l i (pHandle s) 0x14 0 0 false else none]
  | 4 => if oQueue s = 6 then none else firstFault [h.latchFault l 4 (oHandle s) notIndex false 0, h.windowFault l 4 (oSrc s)]
  | 5 => firstFault [h.windowFault l 5 (xSrc s), h.windowFault l 5 (xDst s)]
  | 6 => if sOp s = 3 ∨ sSel s then none else h.windowFault l 6 (sSrc s)
  | _ => none

/-! ## Check 5: pops, unit occupancy, pushes (R217, R221) -/

/-- Place in its queue of the entry that P slot `i` takes: P1 takes the next one where P0 names the same queue. -/
def XWord.popIndex (w : XWord) (i s : Nat) : Nat :=
  match i, w.slot 2 with
  | 3, some p => if pQueue p = pQueue s then 1 else 0
  | _, _ => 0

/-- The entry that a P slot takes of a member's queue. -/
def Hw.popEnt (h : Hw) (w : XWord) (m i s : Nat) : Option QEnt := ((h.core m).queue (pQueue s))[w.popIndex i s]?

/-- The P slots of a word. -/
def XWord.pops (w : XWord) : List (Nat × Nat) := w.present.filter fun x => x.1 == 2 || x.1 == 3


def Hw.popFault (h : Hw) (l : Nat) (w : XWord) : Option XFault :=
  w.pops.findSome? fun x => (h.members l).findSome? fun m =>
    let f : XFault := { code := 0x07, who := m, slot := some x.1, queue := pQueue x.2 }
    match h.popEnt w m x.1 x.2 with
    | none => some f
    | some e => if ¬ e.complete ∧ ¬ e.late ∧ h.flag (CORE_CTRL.ARRIVAL_CHECK l) then some f else none

/-- Cycles for which a vector operation occupies its unit, and its latency (R143, R144, R149, R160, R232). -/
def Hw.vTiming (h : Hw) (l s : Nat) : Nat × Nat :=
  let op := vOp s
  let x := h.descOf l (vDst s)
  let n := x.size 0
  let compat := h.flag (CORE_STAT.COMPAT l)
  if op = 0x1A then (1, 1)
  else if op = 0x18 then (1, 18)
  else if op = 0x19 ∨ op = 0x23 then (1, 6)
  else if 0x10 ≤ op ∧ op ≤ 0x17 then (1, if compat then 14 else if op ≤ 0x12 then 10 else 12)
  else if op = 0x20 then (2 * ((n + 31) / 32) + 8, 2 * ((n + 31) / 32) + 24)
  else if op = 0x21 then ((n + 31) / 32 + bitsOf s 22 6 + 13, (n + 31) / 32 + bitsOf s 22 6 + 17)
  else if op = 0x22 then ((n * x.size 1 + 31) / 32 + 4, (n * x.size 1 + 31) / 32 + 12)
  else (1, if compat then 6 else 4)

/-- Interval and latency of an MMA (R129, R149, R232). -/
def Hw.tTiming (h : Hw) (l : Nat) (x : TCfg) : Nat × Nat :=
  let r := tensorRate x.bd.type x.ad.type
  (r, if h.flag (CORE_STAT.COMPAT l) then 14 else if r = 1 then 8 else if r = 2 then 9 else 11)

def Hw.unitFault (h : Hw) (l : Nat) (w : XWord) : Option XFault :=
  let now := h.get (CORE_CYCLE.CYCLE l)
  firstFault [
    (match w.slot 0 with
      | some s => if tOp s = 0 ∧ now < (h.core l).tFree then some { code := 0x02, who := l, slot := some 0 } else none
      | none => none),
    (if (w.slot 1).isSome ∧ now < (h.core l).vFree then some { code := 0x02, who := l, slot := some 1 } else none)]

def Hw.pushFault (h : Hw) (l : Nat) (w : XWord) : Option XFault :=
  match w.slot 4 with
  | none => none
  | some s => (h.members l).findSome? fun m =>
    if (if oQueue s = 6 then decide ((h.core m).gateUsed ≥ 4) else decide (((h.core m).queue (oQueue s)).length ≥ 64)) then
      some { code := 0x08, who := m, slot := some 4, queue := oQueue s }
    else none

/-! ## Marked operands (R198, R522) -/

/-- SRAM words of row elements. -/
def rowSram (e : Nat) (d : Desc) (n t : Nat) : List Nat :=
  ((List.range ((n + 31) / 32)).flatMap fun b => (List.range t).flatMap fun k => d.blockWords e b k (min 32 (n - 32 * b))).eraseDups

/-- Policies of the marked words that the V slot reads through descriptors in engine `e`: true for propagate. -/
def Hw.vMarks (h : Hw) (l e s : Nat) : List Bool :=
  let x := h.descOf l (vDst s)
  let y := h.descOf l (vA s)
  let marked := fun (d : Desc) (n t : Nat) => ((rowSram e d n t).filter fun w => h.smark (32 * w)).map fun _ => d.propagate
  if vOp s = 0x20 then marked x (x.size 0) 1 ++ marked y (x.size 0) 1
  else if vOp s = 0x21 then marked x (x.size 0) 1
  else []

/-- A marked operand that halts: whatever the policy for SUM, MASK, CRC and GET, by the descriptor's policy elsewhere. -/
def Hw.poisonFault (h : Hw) (l : Nat) (w : XWord) : Option XFault :=
  let es := h.engsOf l
  let at' := fun (i e : Nat) => some ({ code := 0x0D, who := e / 8, slot := some i } : XFault)
  firstFault [
    (match w.slot 0, (h.eng (8 * l)).tcfg with
      | some s, some x => if tOp s = 0 then es.findSome? fun e => if (h.mmaMarks e x s).contains false then at' 0 e else none else none
      | _, _ => none),
    (match w.slot 1 with
      | some s =>
        let x := h.descOf l (vDst s)
        es.findSome? fun e =>
          let bad : Bool :=
            if vOp s = 0x19 then (h.operand e (vA s)).2
            else if vOp s = 0x22 then (rowSram e x (x.size 0) (x.size 1)).any fun w => h.smark (32 * w)
            else if vOp s = 0x23 then (List.range 9).any fun i => h.smark (sramEng e + min (crcTile x s + 32 * i) (crcTile x s + 255))
            else (h.vMarks l e s).contains false
          if bad then at' 1 e else none
      | none => none),
    (match w.slot 6 with
      | some s =>
        let e := 8 * l + sEng s
        if sOp s < 3 ∧ ¬ sSel s ∧ (h.operand e (sSrc s)).2 then at' 6 e else none
      | none => none)]

/-! ## The words that P slots pop (R154, R250, R251) -/

/-- Words that a P slot pops, by engine of the group, with marks. -/
def Hw.popped (h : Hw) (l : Nat) (w : XWord) (i s : Nat) : List (Word × Bool) :=
  (h.members l).flatMap fun m => (List.range 8).map fun j => match h.popEnt w m i s with
    | some e => ((e.slots.getD j {}).data, (e.slots.getD j {}).mark)
    | none => (0, false)

/-- Which of those words are of the last packet of their tensor (R155). -/
def Hw.tailed (h : Hw) (l : Nat) (w : XWord) (i s : Nat) : List Bool :=
  (h.members l).flatMap fun m => (List.range 8).map fun j => match h.popEnt w m i s with
    | some e => (e.slots.getD j {}).tail
    | none => false

/-- The packet of a P slot after this pop; its descriptor is that of the pop that began it. -/
def Hw.packetAfter (h : Hw) (l : Nat) (w : XWord) (i s : Nat) : Packet :=
  let p := h.popped l w i s
  match h.packet l i with
  | some x => { x with words := List.zipWith (fun a b => a ++ [b.1]) x.words p, marks := List.zipWith (fun a b => a || b.2) x.marks p,
                       tails := List.zipWith (fun a b => a || b) x.tails (h.tailed l w i s) }
  | none => { dst := pDst s, desc := h.descOf l (pHandle s), words := p.map fun a => [a.1], marks := p.map (·.2), tails := h.tailed l w i s }

/-- Whether a packet has all its words. -/
def Packet.full (p : Packet) : Bool :=
  let d : Desc := p.desc
  decide ((p.words.headD []).length ≥ packetWords d.bits d.sparse)

/-- Blocks of a packet that hold elements (R155): the last `P - blocks mod P` of a tensor's last packet are missing where their values and metadata
are 0. -/
def realBlocks (d : Desc) (last : Bool) (vals : Nat) (metas : List Nat) : List Nat :=
  let n := metas.length
  let missing := if last then (n - d.elems / 32 % n) % n else 0
  let bits := keptOf d.sparse * d.bits
  if (List.range missing).all fun i => metas.getD (n - 1 - i) 0 == 0 && bitsOf vals ((n - 1 - i) * bits) bits == 0 then metas.take (n - missing) else metas

/-- Positions of a packet out of order: 0x14; a marked word under the halt policy: 0x0D. -/
def Hw.packetFault (h : Hw) (l : Nat) (w : XWord) : Option XFault :=
  w.pops.findSome? fun x =>
    if pMode x.2 ≠ 2 then none
    else
      let p := h.packetAfter l w x.1 x.2
      let d : Desc := p.desc
      let at' := fun (c k : Nat) => some ({ code := c, who := l + k / 8, slot := some x.1, queue := pQueue x.2 } : XFault)
      (List.range p.words.length).findSome? fun k =>
        if p.marks.getD k false ∧ ¬ d.propagate then at' 0x0D k
        else if p.full ∧ ((fun x : Nat × List Nat => realBlocks d (p.tails.getD k false) x.1 x.2) (packetParts d (p.words.getD k []))).any fun m => !keptLegal d.sparse m then at' 0x14 k
        else none

/-! ## Check 6: latency (R237) -/

/-- Locations as kind, engine or 0, number and how many from there: 0 B registers, 1 scale parts, 2 accumulator rows, 3 bytes of the engine buffer,
4 s registers, 5 p registers, 6 BC registers, 7 SRES, 8 mask register, 9 metadata shadows of B registers. -/
abbrev Spot := Nat × Nat × Nat × Nat

/-- Two ranges of locations have one in common. -/
def Spot.meets (a b : Spot) : Bool :=
  a.1 == b.1 && a.2.1 == b.2.1 && decide (a.2.2.1 < b.2.2.1 + b.2.2.2) && decide (b.2.2.1 < a.2.2.1 + a.2.2.2)

/-- Locations that a result lands on. -/
def Dest.spots : Dest → List Spot
  | .breg e off n _ => [(0, e, off / 32, (off % 32 + n + 31) / 32)]
  | .shadow e i _ => [(9, e, i, 1)]
  | .scale e p _ => [(1, e, p, 1)]
  | .acc e r _ _ _ => [(2, e, r, 1)]
  | .row e r _ _ => [(2, e, r, 1)]
  | .ebuf e a w step n _ => if step = w then [(3, e, a, w * n)] else (List.range n).map fun i => (3, e, a + i * step, w)
  | .elems e as _ => as.map fun a => (3, e, a, 4)
  | .sreg i => [(4, 0, i, 1)]
  | .preg i => [(5, 0, i, 1)]
  | .bc e i => [(6, e, i, 1)]
  | .sres e => [(7, e, 0, 1)]
  | .maskReg e => [(8, e, 0, 1)]

/-- The location of an operand specifier. -/
def Hw.specSpot (h : Hw) (e x : Nat) : List Spot :=
  if x < 0x40 then [(2, e, x, 1)] else if x ≤ 0xBF then [(3, e, 128 * (h.eng e).vec x, 128)] else if x ≤ 0xDF then [(6, e, x - 0xC0, 1)] else []

/-- Bytes of the engine buffer that hold the first `n` elements of a block of a row, and its scale. -/
def Desc.blockSpots (d : Desc) (e blk t : Nat) (n : Nat := 32) : List Spot :=
  ((List.range n).map fun i =>
    let a := d.bitAddr d.vbase [32 * blk + i, t]
    ((3, e, a / 8, (a % 8 + d.bits + 7) / 8) : Spot)) ++
  if isMx d.type then [(3, e, d.sbase + d.scaleOff [32 * blk, t], 1)] else []

/-- Bytes of the engine buffer that hold the rows of a tensor, `n` elements of `t` rows. -/
def Desc.rowSpots (d : Desc) (e n t : Nat) : List Spot :=
  (List.range ((n + 31) / 32)).flatMap fun b => (List.range t).flatMap fun k => d.blockSpots e b k (min 32 (n - 32 * b))

/-- Locations that slot `i` reads. An MMA's addition into a row still in work is permitted (R132). -/
def Hw.slotReads (h : Hw) (l i s : Nat) : List Spot :=
  let es := h.engsOf l
  match i with
  | 0 => if tOp s = 1 then [] else match (h.eng (8 * l)).tcfg with
    | none => []
    | some x =>
      let n := blocksTaken x.bd x.tok
      let r := (n * blockBytes x.bd + 31) / 32
      es.flatMap fun e =>
        [(0, e, tBreg s, r)] ++ (if nmSparse x.bd.sparse then [(9, e, tBreg s, r)] else []) ++
        (if isMx x.bd.type then [(1, e, tSidx s / 32, (tSidx s + n - 1) / 32 + 1 - tSidx s / 32)] else []) ++
        (x.actBlocks s).flatMap fun b => (List.range x.tok).flatMap fun t => Desc.blockSpots x.ad e b t
  | 1 =>
    let op := vOp s
    let x := h.descOf l (vDst s)
    if op = 0x1A then []
    else if vReg op then es.flatMap fun e => h.specSpot e (vA s) ++ (if vUsesB op then h.specSpot e (vB s) else []) ++ if op = 4 then h.specSpot e (vDst s) else []
    else if op = 0x20 then (4, 0, bitsOf s 22 5, 1) :: es.flatMap fun e => x.rowSpots e (x.size 0) 1 ++ (h.descOf l (vA s)).rowSpots e (x.size 0) 1
    else if op = 0x21 then es.flatMap fun e => x.rowSpots e (x.size 0) 1
    else if op = 0x22 then (4, 0, bitsOf s 23 5, 1) :: es.flatMap fun e => x.rowSpots e (x.size 0) (x.size 1)
    else es.map fun e => (3, e, crcTile x s, 256)
  | 4 => if oQueue s = 6 then (h.members l).map fun m => (8, 8 * m, 0, 1)
      else if isMx (h.descOf l (oHandle s)).type ∧ oPart s = 3 then [] else es.flatMap fun e => h.specSpot e (oSrc s)
  | 5 => es.flatMap fun e => h.specSpot e (xSrc s)
  | 6 => if sOp s = 3 then [(4, 0, sReg s, 1)] else if sSel s then [(7, 8 * l + sEng s, 0, 1)] else h.specSpot (8 * l + sEng s) (sSrc s)
  | 7 => if lOp s = 1 then [(5, 0, lReg s, 1)] else if lOp s = 0xF then [(4, 0, lReg s, 1)] else []
  | _ => []

/-- A read inside a producer's latency window. -/
def Hw.readEarly (h : Hw) (l : Nat) (w : XWord) : Option XFault :=
  let now := h.get (CORE_CYCLE.CYCLE l)
  let pend := ((h.core l).lands.filter fun x => decide (x.at' > now)).flatMap fun x => x.dest.spots
  w.present.findSome? fun x => if (h.slotReads l x.1 x.2).any (fun a => pend.any a.meets) then some { code := 0x0E, who := l, slot := some x.1 } else none

/-- Two results that would land on one location in one cycle. -/
def landClash (old new : List Land) : Bool :=
  (List.range new.length).any fun k => match new[k]? with
    | some x => ((new.drop (k + 1)) ++ old).any fun y => x.at' == y.at' && x.dest.spots.any fun a => y.dest.spots.any a.meets
    | none => false

end Sys2Proof.Machine
end

