-- ==== Sys2Proof/Machine/Exec.lean ====
section
/-!
DEFINITION. The execute stream (R214 to R222, R231, R233 to R237): results in flight, the effects of the slots, one arithmetic cycle of a group, and
breaks, steps and resumes.
-/
namespace Sys2Proof.Machine

/-! ## Results that land (R215) -/

/-- `n` bytes written to the B registers from byte `off`. -/
def Eng.bWrite (g : Eng) (off n mark v : Nat) : Eng :=
  (List.range ((off % 32 + n + 31) / 32)).foldl (fun g i =>
    let r := off / 32 + i
    let lo := max off (32 * r)
    let hi := min (off + n) (32 * r + 32)
    let (w, sh) := tget (fun _ => (0, 0)) g.b r
    let m := if mark ≠ 0 then mark else if hi - lo = 32 then 0 else tget (fun _ => 0) g.bMark r
    { g with b := tset (fun _ => (0, 0)) g.b r (setWordBits w ((lo - 32 * r) * 8) ((hi - lo) * 8) (v >>> ((lo - off) * 8)), sh),
             bMark := tset (fun _ => 0) g.bMark r m }) g

/-- Lanes of an accumulator row written from lane 0. -/
def Eng.rowWrite (g : Eng) (r : Nat) (lanes : List W32) (mark : Bool) : Eng :=
  let m := mark || (decide (lanes.length < 32) && tget (fun _ => false) g.accMark r)
  { g with acc := (foldUp lanes.length (fun i t => tset (fun _ => 0#32) t (32 * r + i) (lanes.getD i 0)) g.acc), accMark := tset (fun _ => false) g.accMark r m }

/-- Block products added into an accumulator row (R132). -/
def Eng.accAdd (g : Eng) (r : Nat) (clear : Bool) (prods : List FV) (mark : Bool) : Eng :=
  let lanes := (List.range 32).map fun i => accumulate clear (tget (fun _ => 0#32) g.acc (32 * r + i)) (prods.getD i (.fin true 0 0))
  g.rowWrite r lanes (mark || (!clear && tget (fun _ => false) g.accMark r))

/-- 32-bit elements written at bytes `as` from `base`, a word of SRAM at a time: one that they fill whole is marked as they are (R522). -/
def Hw.scatter (h : Hw) (base : Nat) (as : List Nat) (v : Nat) (mark : Bool) : Hw :=
  ((as.map fun a => (base + a) / 32).eraseDups).foldl (fun h w =>
    let here := (List.range as.length).filter fun i => (base + as.getD i 0) / 32 == w
    let put := fun (f : Nat → Nat → Nat) => here.foldl (fun r i => f r i) 0
    h.swriteWord (32 * w) (BitVec.ofNat 32 (put fun m i => m ||| 15 * 2 ^ ((base + as.getD i 0) % 32)))
      (here.foldl (fun d i => setWordBits d ((base + as.getD i 0) % 32 * 8) 32 (bitsOf v (32 * i) 32)) 0) mark) h

/-- One result lands, in the group of leader `l`. -/
def Hw.landOne (h : Hw) (l : Nat) (x : Land) : Hw :=
  match x.dest with
  | .breg e off n mark => h.modEng e fun g => g.bWrite off n mark x.val
  | .shadow e i width => h.modEng e fun g =>
      let (w, sh) := tget (fun _ => (0, 0)) g.b i
      { g with b := tset (fun _ => (0, 0)) g.b i (w, BitVec.ofNat 192 (sh.toNat / 2 ^ width * 2 ^ width + x.val % 2 ^ width)) }
  | .scale e part mark => h.modEng e fun g =>
      { g with scale := foldUp 32 (fun i t => tset (fun _ => 0#8) t (32 * part + i) (BitVec.ofNat 8 (bitsOf x.val (8 * i) 8))) g.scale,
               scaleMark := tset (fun _ => 0) g.scaleMark part mark }
  | .acc e r clear prods mark => h.modEng e fun g => g.accAdd r clear prods mark
  | .row e r n mark => h.modEng e fun g => g.rowWrite r (lanesOf x.val n) mark
  | .ebuf e a w step n mark => if step = w then h.sput (sramEng e + a) (w * n) x.val mark else foldUp n (fun i h => h.sput (sramEng e + a + i * step) w (bitsOf x.val (8 * w * i) (8 * w)) mark) h
  | .elems e as mark => h.scatter (sramEng e) as x.val mark
  | .sreg i => h.modCore l fun s =>
      { s with s := tset (fun _ => 0#32) s.s i (BitVec.ofNat 32 x.val), sLast := tset (fun _ => none) s.sLast i (some (h.get (CORE_CYCLE.CYCLE l), s.sub)) }
  | .preg i => h.pWrite l i 3 (BitVec.ofNat 32 x.val)
  | .bc e i => h.modEng e fun g => { g with bc := tset (fun _ => 0#32) g.bc i (BitVec.ofNat 32 x.val) }
  | .sres e => h.modEng e fun g => { g with sres := BitVec.ofNat 32 x.val }
  | .maskReg e => h.modEng e fun g => { g with maskReg := BitVec.ofNat 2048 x.val }

/-- Results due in the present core cycle land, those of words issued later last. -/
def Hw.landDue (h : Hw) (l : Nat) : Hw :=
  let now := h.get (CORE_CYCLE.CYCLE l)
  let due := (h.core l).lands.filter fun x => decide (x.at' ≤ now)
  if due.isEmpty then h
  else due.foldl (fun h x => h.landOne l x) (h.modCore l fun s => { s with lands := s.lands.filter fun x => decide (x.at' > now) })

/-- A result on its way. -/
def Hw.land (h : Hw) (l at' : Nat) (d : Dest) (v : Nat) : Hw :=
  h.modCore l fun s => { s with lands := s.lands ++ [⟨at', d, v⟩], resAt := max s.resAt at' }

/-! ## Effects of the slots. `h0` is the state that every slot of the word reads -/

/-- A P slot (R250, R251). -/
def Hw.doPop (h0 : Hw) (l now : Nat) (w : XWord) (i s : Nat) (h : Hw) : Hw :=
  let at' := now + if h0.flag (CORE_STAT.COMPAT l) then 6 else 5
  let d := h0.descOf l (pHandle s)
  let p := h0.popped l w i s
  let pol := fun (d : Desc) (m : Bool) => if m then (if d.propagate then 2 else 1) else 0
  let h := (h0.members l).foldl (fun h m => match h0.popEnt w m i s with
    | some e => (h.modCore m fun c => c.setQueue (pQueue s) ((c.queue (pQueue s)).filter fun x => x.id != e.id)).sweep m
    | none => h) h
  if pMode s = 0 then
    foldUp p.length (fun k h => let x := p.getD k (0, false); h.land l at' (.breg (8 * l + k) (32 * pDst s) 32 (pol d x.2)) x.1.toNat) h
  else if pMode s = 1 then
    foldUp p.length (fun k h => let x := p.getD k (0, false); h.land l at' (.scale (8 * l + k) (pDst s % 8) (pol d x.2)) x.1.toNat) h
  else
    let h := foldUp p.length (fun k h => if (p.getD k (0, false)).2 then h.count (TEL_ENG.POISON (l + k / 8) (k % 8)) 1 else h) h
    let x := h0.packetAfter l w i s
    if ¬ x.full then h.modCore l fun c => { c with pk := tset (fun _ => none) c.pk i (some x) }
    else
      let pd : Desc := x.desc
      let mb := keptOf pd.sparse * posBits pd.sparse
      let h := h.modCore l fun c => { c with pk := tset (fun _ => none) c.pk i none }
      foldUp x.words.length (fun k h =>
        let (vals, metas) := packetParts pd (x.words.getD k [])
        let h := h.land l at' (.breg (8 * l + k) (32 * x.dst) (packetBytes pd) (if x.marks.getD k false then 2 else 0)) vals
        foldUp ((packetBytes pd + 31) / 32) (fun r h =>
          let bs := beginning pd r
          h.land l at' (.shadow (8 * l + k) (x.dst + r) (bs.length * mb)) (packCodes mb (bs.map fun q => metas.getD q 0))) h) h

/-- The T slot (R252, R253). -/
def Hw.doTensor (h0 : Hw) (l now s : Nat) (h : Hw) : Hw :=
  if tOp s = 1 then
    let x : TCfg := { b := h0.descOf l (tBh s), a := h0.descOf l (tAh s), tok := 2 ^ tTok s, abase := tAbase s, ah := tAh s }
    (h0.engsOf l).foldl (fun h e => h.modEng e fun g => { g with tcfg := some x }) h
  else match (h0.eng (8 * l)).tcfg with
    | none => h
    | some x =>
      let (busy, lat) := h0.tTiming l x
      let h := h.modCore l fun c => { c with tFree := now + busy }
      (h0.engsOf l).foldl (fun h e =>
        let marks := h0.mmaMarks e x s
        let h := (h.count (TEL_ENG.TOPS (e / 8) (e % 8)) 1).count (TEL_ENG.POISON (e / 8) (e % 8)) marks.length
        h.land l (now + lat) (.acc e (tAcc s) (tClear s) (h0.products e x s) (!marks.isEmpty)) 0) h

/-- Elements of a row in the engine buffer, as bit patterns. -/
def Hw.rowBits (h : Hw) (e : Nat) (d : Desc) (n : Nat) : List W32 := (List.range n).map fun i => BitVec.ofNat 32 (h.ebits e (d.bitAddr d.vbase [i]) 32)

/-- Byte offsets of FP32 elements of a tensor in the engine buffer. -/
def Desc.placesOf (d : Desc) (js : List Nat) : List Nat := js.map fun j => d.bitAddr d.vbase ((d.unrank j).map Int.toNat) / 8

/-- The V slot (R254, R255). -/
def Hw.doVector (h0 : Hw) (l now s : Nat) (h : Hw) : Hw :=
  let op := vOp s
  let (busy, lat) := h0.vTiming l s
  let at' := now + lat
  let es := h0.engsOf l
  let x := h0.descOf l (vDst s)
  let y := h0.descOf l (vA s)
  let h := es.foldl (fun h e => h.count (TEL_ENG.VOPS (e / 8) (e % 8)) 1) (h.modCore l fun c => { c with vFree := now + busy })
  if op = 0x1A then
    es.foldl (fun h e => h.modEng e fun g => if bitAt s 30 then { g with w1 := bitsOf s 6 11 } else { g with w0 := bitsOf s 6 11 }) h
  else if op = 0x18 then
    es.foldl (fun h e =>
      let (a, ma) := h0.operand e (vA s)
      let (b, mb) := h0.operand e (vB s)
      let (m, t, c, ps) := softmax (b.getD 0 0) (b.getD 1 0) a
      (h.land l at' (h0.vecDest e (vDst s) 32 (ma || mb)) (packLanes ps)).land l at' (h0.vecDest e (vB s) 3 (ma || mb)) (packLanes [m, t, c])) h
  else if op = 0x19 then
    es.foldl (fun h e =>
      let t := treeSum (h0.operand e (vA s)).1
      (h.land l at' (h0.vecDest e (vDst s) 1 false) t.toNat).land l at' (.sres e) t.toNat) h
  else if vReg op then
    es.foldl (fun h e =>
      let (a, ma) := h0.operand e (vA s)
      let (b, mb) := if vUsesB op then h0.operand e (vB s) else ([], false)
      let (d, md) := if op = 4 then h0.operand e (vDst s) else ([], false)
      h.land l at' (h0.vecDest e (vDst s) 32 (ma || mb || md))
        (packLanes ((List.range 32).map fun i => laneOp op (vMod s) (a.getD i 0) (b.getD i 0) (d.getD i 0)))) h
  else if op = 0x20 then
    es.foldl (fun h e =>
      let marks := h0.vMarks l e s
      let out := rmsNorm (h0.rowBits e x (x.size 0)) (h0.rowBits e y (x.size 0)) (h0.sreg l (bitsOf s 22 5))
      (h.count (TEL_ENG.POISON (e / 8) (e % 8)) marks.length).land l at' (.ebuf e x.vbase 4 (4 * x.stride 0) (x.size 0) (!marks.isEmpty)) (packLanes out)) h
  else if op = 0x21 then
    let k := bitsOf s 22 6 + 1
    es.foldl (fun h e =>
      let marks := h0.vMarks l e s
      let (vals, pos) := topK (h0.rowBits e x (x.size 0)) k
      (h.count (TEL_ENG.POISON (e / 8) (e % 8)) marks.length).land l at' (.elems e (y.placesOf (topOuts k)) (!marks.isEmpty)) (packLanes (vals ++ pos))) h
  else if op = 0x22 then
    es.foldl (fun h e =>
      let kept := h0.keptBands l e s
      let h := (h.land l at' (.maskReg e) (kept.foldl (fun a k => a + 2 ^ k) 0)).land l at' (.sres e) kept.length
      if ¬ bitAt s 22 ∨ kept.isEmpty then h
      else
        let blocks := (List.range (x.size 1)).flatMap fun t => kept.map fun k => (k, t)
        let data := packCodes (32 * x.bits) (blocks.map fun b => packCodes x.bits ((List.range 32).map fun i =>
          if 32 * b.1 + i < x.size 0 then h0.ebits e (x.bitAddr x.vbase [32 * b.1 + i, b.2]) x.bits else 0))
        let h := h.land l at' (.ebuf e y.vbase (h0.compactBytes l e s) 0 1 false) data
        if isMx x.type then
          h.land l at' (.ebuf e y.sbase blocks.length 0 1 false) (packCodes 8 (blocks.map fun b => h0.sread (sramEng e + x.sbase + x.scaleOff [32 * b.1, b.2]) 1))
        else h) h
  else
    es.foldl (fun h e =>
      let c := crcFold (Memory.readBytes h0.sram (sramEng e + crcTile x s) 256) (if bitAt s 27 then (h0.eng e).crc.toNat else 0xFFFFFFFF)
      (h.modEng e fun g => { g with crc := BitVec.ofNat 32 c }).land l at' (.sres e) (c ^^^ 0xFFFFFFFF)) h

/-- Generator state of a lane. -/
def Eng.gen (g : Eng) (i : Nat) : W32 := tget (fun _ => 0#32) g.gens i

/-- Generators of lanes `lo` to `lo + n - 1` stepped. -/
def Eng.stepGens (g : Eng) (lo n : Nat) : Eng := { g with gens := foldUp n (fun i t => tset (fun _ => 0#32) t (lo + i) (genStep (g.gen (lo + i)))) g.gens }

/-- What engine `e` places in its position of a pushed tile: 32 bytes, their mark, and the engine after (R256). -/
def Hw.placed (h : Hw) (l e s : Nat) : Word × Bool × Eng :=
  let d := h.descOf l (oHandle s)
  let t := d.type
  let g := h.eng e
  let (lanes, m) := h.operand e (oSrc s)
  if isMx t ∧ oPart s = 3 then
    (BitVec.ofNat 256 (packCodes 8 (g.stage.map BitVec.toNat)), g.stageMark, { g with stage := [], stageMark := false })
  else if isMx t then
    let (sc, codes) := convMx t lanes ((List.range 32).map fun i => laneRnd (oSr s) (g.gen i)) (oSat s)
    let g := if oSr s then g.stepGens 0 32 else g
    (BitVec.ofNat 256 (packCodes d.bits codes), m, { g with stage := g.stage ++ [BitVec.ofNat 8 sc], stageMark := g.stageMark || m })
  else
    let n := 256 / d.bits
    let lo := n * oPart s
    let codes := (List.range n).map fun i => convElem t (lanes.getD (lo + i) 0) (laneRnd (oSr s) (g.gen (lo + i))) (oSat s)
    (BitVec.ofNat 256 (packCodes d.bits codes), m, if oSr s ∧ t ≠ 0 ∧ t ≠ 5 then g.stepGens lo n else g)

/-- The O slot: the access stream sees the push three cycles later (R218, R256, R257). A marked operand marks every word of its tile (R115, R522). -/
def Hw.doPush (h0 : Hw) (l now s : Nat) (h : Hw) : Hw :=
  let h := h.modCore l fun c => { c with resAt := max c.resAt (now + 3) }
  (h0.members l).foldl (fun h m =>
    if oQueue s = 6 then h.modCore m fun c => { c with gate := c.gate ++ [((h0.eng (8 * m)).maskReg, now + 3)] }
    else
      let parts := (List.range 8).map fun j => h0.placed l (8 * m + j) s
      let h := foldUp 8 (fun j h => match parts[j]? with
        | some p => h.modEng (8 * m + j) fun g => { g with stage := p.2.2.stage, stageMark := p.2.2.stageMark, gens := p.2.2.gens }
        | none => h) h
      let mark := parts.any fun p => p.2.1
      h.modCore m fun c =>
        { c.setQueue (oQueue s) (c.queue (oQueue s) ++ [{ id := c.entId, slots := parts.map fun p => { data := p.1, mark := mark }, word := none, seen := now + 3 }])
          with entId := c.entId + 1 }) h

/-- The X slot (R258): the vectors of every engine of the word, combined, at each receiver. The order of additions is not fixed (R147). -/
def Hw.doReduce (h0 : Hw) (l now s : Nat) (h : Hw) : Hw :=
  match (h0.img.conf.map fun k => k.red.find? fun (r : RedConf) => r.cluster == l / 4 && r.chan == xChan s).join with
  | none => h
  | some r =>
    let es := h0.engsOf l
    let vs := es.map fun e => h0.operand e (xSrc s)
    let mark := vs.any (·.2)
    let (v, h) :=
      if xMode s = 1 then (combineAny f32max vs.length 0 (vs.map (·.1)), h)
      else if xMode s = 2 then ((h0.operand (r.senders.headD 0) (xSrc s)).1, h)
      else if vs.length ≤ 2 then (combineAny f32add vs.length 0 (vs.map (·.1)), h)
      else (combineAny f32add vs.length h.free.1 (vs.map (·.1)), h.free.2)
    r.receivers.foldl (fun h e => h.land l (now + 6 + 4 * r.stages) (h0.vecDest e (xDst s) 32 mark) (packLanes v)) h

/-- The S slot (R259). -/
def Hw.doScalar (h0 : Hw) (l now s : Nat) (h : Hw) : Hw :=
  if sOp s = 3 then (h0.engsOf l).foldl (fun h e => h.land l (now + 3) (.bc e (sReg s)) (h0.sreg l (sReg s)).toNat) h
  else
    let e := 8 * l + sEng s
    let v := if sSel s then (h0.eng e).sres else (h0.operand e (sSrc s)).1.getD (sLane s) 0
    let h := if sOp s = 1 then h else h.land l (now + 5) (.sreg (sReg s)) v.toNat
    if sOp s = 0 then h else h.land l (now + 5) (.preg (sReg s)) v.toNat

/-- The effect of slot `i`. Loops, STOP and branches are the word's own (below). -/
def Hw.doSlot (h0 : Hw) (l now : Nat) (w : XWord) (i s : Nat) (h : Hw) : Hw :=
  match i with
  | 0 => h0.doTensor l now s h
  | 1 => h0.doVector l now s h
  | 2 | 3 => h0.doPop l now w i s h
  | 4 => h0.doPush l now s h
  | 5 => h0.doReduce l now s h
  | 6 => h0.doScalar l now s h
  | _ => h

/-- Every slot of a word. -/
def Hw.doSlots (h0 : Hw) (l : Nat) (w : XWord) : Hw :=
  w.present.foldl (fun h x => h0.doSlot l (h0.get (CORE_CYCLE.CYCLE l)) w x.1 x.2 h) h0

/-! ## One arithmetic cycle -/

/-- What becomes of the word next to issue. -/
inductive XOut where
  /-- the clocks stand, or another command issues the word -/
  | idle
  /-- the clocks run and the execute stream does not -/
  | pass
  | broke
  | fault (f : XFault) (h : Hw)
  /-- the word's wait is not satisfied -/
  | stand (h : Hw)
  | hold (x : Hold) (h : Hw)
  | issue (h : Hw)

/-- A read for a position of an entry waits on a write of another class in some column (R49, R222). -/
def Hw.dependent (h : Hw) (c q ent : Nat) : Bool :=
  h.cols.any fun x => (x.2.rq ++ x.2.flight).any fun r => r.dependent && (match r.r.src with
    | .queue c' q' e' _ => c' == c && q' == q && e' == ent
    | _ => false : Bool)

/-- Entries that the word's pops must wait for, and the cause (R222). -/
def Hw.holdOf (h : Hw) (l : Nat) (w : XWord) : Option Hold :=
  let ents := w.pops.flatMap fun x => (h.members l).filterMap fun m => match h.popEnt w m x.1 x.2 with
    | some e => if e.complete then none else some (8 * m + pQueue x.2, e)
    | none => none
  if ents.isEmpty then none
  else
    let cause : HoldCause := if ents.any fun e => e.2.late then .late
      else if ents.any fun e => h.dependent (e.1 / 8) (e.1 % 8) e.2.id then .depend else .arrival
    some ⟨cause, ents.map fun e => (e.1, e.2.id)⟩

/-- Checks 3 to 6. -/
def Hw.wordFault (h : Hw) (l pc : Nat) (w : XWord) : Option XFault :=
  let (code, _, _) := h.loopOutcome l pc w
  firstFault [
    (if code ≠ 0 then some { code := code, who := l, slot := some 7 } else none),
    w.present.findSome? fun x => h.descFault l x.1 x.2,
    h.popFault l w, h.unitFault l w, h.pushFault l w, h.poisonFault l w,
    (if ¬ h.flag (CORE_CTRL.LAT_CHECK l) then none
      else match h.readEarly l w with
        | some f => some f
        | none =>
          let old := (h.core l).lands
          if landClash old (((h.doSlots l w).core l).lands.drop old.length) then some { code := 0x0E, who := l } else none)]

/-- Where the stream stands after a word, and what is left of a taken branch (R233). -/
def Hw.xGoOn (h : Hw) (l : Nat) (w : XWord) (loops : List Loop) (next : Nat) : Hw :=
  let s := h.core l
  let taken := match w.branch with
    | some b => if (h.sreg l (lReg b)).getLsbD 0 then some (2, lOff b) else none
    | none => none
  let (pc, leg) := match s.legacy with
    | some (n, t) => if n ≤ 1 then (t, none) else (next, some (n - 1, t))
    | none => (next, taken)
  let h := h.modCore l fun s => { s with xloops := loops, xpc := pc, legacy := leg, xwait := none, passX := false, xcount := s.xcount + 1,
                                         xst := if w.stops then .ended else s.xst }
  if w.stops then h.runCheck l else h

/-- Trace records of a word (R484). -/
def Hw.xTrace (h : Hw) (l pc : Nat) (w : XWord) : Hw :=
  let mark : Bool := match w.slot 7 with
    | some s => lOp s == 3
    | none => false
  let h := if mark then h.trace l 1 0 (wTag w.hdr) pc else h
  if wTag w.hdr ≠ 0 ∧ h.flag (CORE_TRC.ALLTAG l) then h.trace l 7 0 (wTag w.hdr) pc else h

/-- The word's signal: at issue, or where FENCE is set once every result issued so far can be read (R297). -/
def Hw.xSignal (h : Hw) (l pc : Nat) (w : XWord) (arrived : Bool) : Nat × Hw :=
  h.wordSignal l 0 pc (if arrived then 0 else sKind w.hdr) (sIdx w.hdr) (sAmt w.hdr) (if wFence w.hdr then .atCycle (h.core l).resAt else .now)
    (some (wTag w.hdr))

/-- A word whose wait is satisfied: its checks, a hold, or its issue. -/
def Hw.xIssue (h : Hw) (l pc : Nat) (w : XWord) : XOut :=
  match h.wordFault l pc w with
  | some f => .fault f h
  | none => match h.holdOf l w with
    | some x => .hold x h
    | none => match h.packetFault l w with
      | some f => .fault f h
      | none =>
        let arrived : Bool := match (h.core l).xwait with
          | some x => x.arrived
          | none => false
        let (_, loops, next) := h.loopOutcome l pc w
        let (code, h') := (h.doSlots l w).xSignal l pc w arrived
        if code ≠ 0 then .fault { code := code, who := l, keeps := h.ownRange l code (sKind w.hdr) (sIdx w.hdr) (h.core l).xwait } h
        else .issue (((h'.xTrace l pc w).xGoOn l w loops next).count (TEL_CORE.XWORDS l) 1)

/-- The word next to issue, in a group whose due results have landed. `legacy` selects the legacy words of a compatibility core. A header with a reserved
value has no wait to stand at. -/
def Hw.xLook (h : Hw) (l : Nat) (legacy : Bool) : XOut :=
  let s := h.core l
  let pc := s.xpc
  let out := XOut.fault { code := 0x02, who := l } h
  if ¬ h.clocked l then .idle
  else if s.xst ≠ .running then (if legacy then .idle else .pass)
  else if h.flag (CORE_BRK.XCNT_EN l) ∧ s.xcount = h.get (CORE_BRK_XCNT.COUNT l) ∧ ¬ s.passX then .broke
  else if pc % 4 ≠ 0 ∨ pc < execBase h l ∨ pc + 8 > execEnd h l then out
  else
    let w := h.longWord l pc
    if legacy ≠ (wFmt w.hdr == 1 && h.flag (CORE_STAT.COMPAT l)) then .idle
    else if h.flag (CORE_BRK.TAG_EN l) ∧ wTag w.hdr = h.get (CORE_BRK.TAG l) ∧ ¬ s.passX then .broke
    else
      let bad := decide (wFmt w.hdr ≥ 2) || headBad w.hdr || (wFmt w.hdr == 1 && !h.flag (CORE_STAT.COMPAT l))
      if ¬ bad ∧ pc + w.len > execEnd h l then out
      else
      let (code, h) := if bad then (0, h) else h.standAt l l 0 pc w.hdr .exec (if wFence w.hdr then .atCycle s.resAt else .now)
        fun x h => h.modCore l fun s => { s with xwait := x }
      if code ≠ 0 then .fault { code := code, who := l } h
      else if ¬ bad ∧ ¬ h.waitOver l w.hdr .exec then .stand h
      else match h.encodingFault l w with
        | some f => .fault f h
        | none => h.xIssue l pc w

/-- A fault of a word: a take is given back, unless it stands (R246); the descriptor side, then the halt (R207, R235). -/
def Hw.xHalt (h : Hw) (l : Nat) (f : XFault) : Hw :=
  let h := if f.keeps then h else h.untake l (h.core l).xwait
  let h := match f.dsc with
    | some (n, dim, va, sc) => h.dscFault l n f.code dim 0 0 sc va
    | none => h
  h.halt f.who f.code { stream := 0, pc := (h.core l).xpc, slot := f.slot, queue := f.queue }

/-- A core cycle ends; a step ends with it (R236). -/
def Hw.tick (h : Hw) (l : Nat) : Hw :=
  let h := (h.put (CORE_CYCLE.CYCLE l) (h.get (CORE_CYCLE.CYCLE l) + 1)).runCheck l
  if (h.core l).stepping then h.breakCore l l 0 (h.core l).xpc else h

/-- One arithmetic cycle of the group of leader `l`. -/
def Hw.xCycle (h : Hw) (l : Nat) (legacy : Bool) : Hw := h.orFault l 0 fun h =>
  let g := h.landDue l
  match g.xLook l legacy with
  | .idle => h
  | .pass => g.tick l
  | .broke => g.breakCore l l 0 (g.core l).xpc
  | .fault f g => g.xHalt l f
  | .stand g => g.tick l
  | .hold x g => g.beginHold l x
  | .issue g => g.tick l

/-- EXEC_WORD_ISSUE (R214). -/
def execExecWordIssue (c : Fin 64) (flt : List SramFault) (s : State) : Host.Outcome State Fault Refusal :=
  let h := s.hw.sramFaults flt
  done s (h.xCycle (h.leader c) false)

/-- LEGACY_CONDITIONAL_WORD (R233, R266). -/
def execLegacyConditionalWord (c : Fin 64) (s : State) : Host.Outcome State Fault Refusal := done s (s.hw.xCycle (s.hw.leader c) true)

/-- The next core cycle in which something of a group's execute stream is due: a result, or a signal deferred to a cycle (R235, R297). -/
def CoreSt.nextDue (s : CoreSt) (now : Nat) : Option Nat :=
  let at' := s.lands.map (·.at') ++ match s.xdef with
    | d :: _ => (match d.cond with
      | .atCycle n => if n > now then [n] else []
      | _ => [])
    | [] => []
  match at' with
  | [] => none
  | n :: t => some (t.foldl min n)

/-- EXEC_RESULT_LAND (R215): the due results, or, where no word issues, those of the next cycle in which any is due, or one cycle on. Results of words
issued before a fault still land, and its deferred signals still go (R235). -/
def execExecResultLand (c : Fin 64) (s : State) : Host.Outcome State Fault Refusal :=
  let h := s.hw
  let l := h.leader c
  let x := h.core l
  let now := h.get (CORE_CYCLE.CYCLE l)
  let waits : Bool := match x.xwait with
    | some y => !y.released
    | none => false
  let issuing := x.xst == .running && !x.faulted && !waits
  if h.flag (CORE_STAT.HOLD l) ∨ h.flag (CORE_STAT.BROKEN l) ∨ h.pllOff then done s h
  else if issuing ∨ x.lands.any fun y => decide (y.at' ≤ now) then done s (h.landDue l)
  else if x.stepping then done s ((h.tick l).landDue l)
  else match x.nextDue now with
    | some n => done s (((h.put (CORE_CYCLE.CYCLE l) n).landDue l).runCheck l)
    | none => done s (if h.clocked l then h.tick l else h)

/-! ## Breaks, steps and resumes (R236, R489) -/

/-- A core that acts for its group. -/
def Hw.leads (h : Hw) (c : Nat) : Bool := h.leader c == c

/-- The group of leader `c` breaks before its next word; during a hold, when that ends. -/
def Hw.askBreak (h : Hw) (c : Nat) : Hw :=
  if ¬ h.flag (CORE_STAT.RUN c) ∨ h.flag (CORE_STAT.BROKEN c) ∨ ¬ h.leads c then h
  else if h.flag (CORE_STAT.HOLD c) ∨ h.pllOff then h.modCore c fun s => { s with haltReq := true }
  else h.breakCore c c 0 (h.core c).xpc

/-- A broken group's clocks restart; for one core cycle where `step`. -/
def Hw.unbreak (h : Hw) (c : Nat) (step : Bool) : Hw :=
  if ¬ h.flag (CORE_STAT.BROKEN c) ∨ ¬ h.leads c then h
  else (h.members c).foldl (fun h m => h.put (CORE_STAT.BROKEN m) 0) (h.modCore c fun s => { s with stepping := step })

/-- HALT_REQ. -/
def execHaltReq (c : Fin 64) (s : State) : Host.Outcome State Fault Refusal := done s (s.hw.askBreak c)
/-- RESUME: ignored otherwise than after a break. -/
def execResume (c : Fin 64) (s : State) : Host.Outcome State Fault Refusal := done s (s.hw.unbreak c false)
/-- STEP: the core runs until its present cycle has ended. -/
def execStep (c : Fin 64) (s : State) : Host.Outcome State Fault Refusal := done s (s.hw.unbreak c true)

end Sys2Proof.Machine
end

