-- ==== Sys2Proof/Machine/Copy.lean ====
section
/-!
DEFINITION. Copies between descriptors (R199 to R206): refusals, the bytes of the destination in element order and where each comes from, and
the move itself; the host commands COPY and TRANSPOSE (R389, R390).
-/
namespace Sys2Proof.Machine

/-- A copy: source, destination, whether dimensions 0 and 1 are exchanged, and the rows and elements of a tile where they are. -/
structure Copy where
  s : Desc
  d : Desc
  xpose : Bool
  th : Nat := 64
  tw : Nat := 64
  deriving DecidableEq, Repr

/-! ## Refusals (R193, R199, R202, R203) -/

/-- A dimension put into a list ordered by stride, ties by number. -/
def Desc.insertDim (d : Desc) (k : Nat) : List Nat → List Nat
  | [] => [k]
  | j :: t => if d.stride j ≤ d.stride k then j :: Desc.insertDim d k t else k :: j :: t

/-- Dimensions of size other than 1, ordered by stride. -/
def Desc.order (d : Desc) : List Nat := ((List.range d.rank).filter fun k => d.size k != 1).foldl (fun l k => d.insertDim k l) []

/-- A transposing copy, or one whose dimensions lie in another order at its ends (R202). -/
def Copy.permuting (x : Copy) : Bool := x.xpose || x.s.order != x.d.order

/-- The windows overlap in one space (R203). -/
def Copy.overlap (x : Copy) : Bool :=
  x.s.space == x.d.space && decide (x.s.vbase < x.d.vbase + x.d.limit * 32) && decide (x.d.vbase < x.s.vbase + x.s.limit * 32)

/-- The in-place tile (R203). -/
def Copy.inPlace (x : Copy) : Bool :=
  x.xpose && x.s == x.d && x.s.size 0 == x.s.size 1 && decide (x.s.size 0 ≤ 64) && [2, 3, 4, 5].all fun k => x.s.size k == 1

/-- Dimension `k` of the source as the destination numbers it. -/
def Copy.dim (x : Copy) (k : Nat) : Nat := if x.xpose then (if k = 0 then 1 else if k = 1 then 0 else k) else k

/-- Why a copy is refused: the code, and whether the destination's descriptor is at fault. -/
def Copy.refuse (x : Copy) : Option (Nat × Bool) :=
  let cs := x.s.check (fun _ => true) false
  let cd := x.d.check (fun _ => true) true
  if cs ≠ 0 then some (cs, false)
  else if cd ≠ 0 then some (cd, true)
  else if (x.xpose ∧ x.s.rank < 2) ∨ x.s.rank ≠ x.d.rank then some (0x03, true)
  else if (List.range 6).any fun k => x.d.size k != x.s.size (x.dim k) then some (0x03, true)
  else if x.s.type ≠ x.d.type then some (0x14, true)
  else if x.xpose ∧ (isMx x.s.type ∨ x.s.bits < 8) then some (0x14, false)
  else if x.xpose ∧ (x.s.sparse ≠ 0 ∨ x.d.sparse ≠ 0) then some (0x14, false)
  else if x.s.sparse ≠ x.d.sparse then some (0x14, true)
  else if x.permuting ∧ x.overlap ∧ ¬ x.inPlace then some (0x12, true)
  else none

/-! ## Bytes in the element order of the destination (R202, R284) -/

/-- The least that a copy moves at once: elements and bytes. Elements below 8 bits go four at a time, sparse tensors a word at a time. -/
def Desc.atom (d : Desc) : Nat × Nat := if d.sparse ≠ 0 then (1, 32) else if d.bits < 8 then (4, d.bits / 2) else (1, d.bits / 8)

def Copy.bytes (x : Copy) : Nat := descBytes x.d

/-- A failed check of a copy: code, DIM, address, whether of the destination, and what the map logs. -/
structure CopyFail where
  code : Nat
  dim : Nat
  va : Nat
  ofDst : Bool
  log : Option Where
  deriving DecidableEq, Repr

/-- A dense tensor's bounds over the elements that start with indices `i` (R195). -/
def Desc.atomBounds (d : Desc) (i : List Int) : Option Nat :=
  match d.bounds d.vbase i with
  | some k => some k
  | none => if d.bits < 8 then d.bounds d.vbase (i.set 0 (i.getD 0 0 + 3)) else none

/-- Source address (`dst` false) or destination address of byte `p` of the copy. -/
def Copy.addrOf (x : Copy) (dst : Bool) (p : Nat) : Except CopyFail Nat :=
  let t := if dst then x.d else x.s
  if x.d.sparse ≠ 0 then
    if p + 1 ≤ t.limit * 32 ∧ (t.space = 0 ∨ t.vbase + p + 1 ≤ spaceEnd t.space) then .ok (t.vbase + p) else .error ⟨0x04, 7, t.vbase + p, dst, none⟩
  else
    let (els, n) := x.d.atom
    let j := x.d.unrank (p / n * els)
    let i := if dst then j else (List.range 6).map fun k => j.getD (x.dim k) 0
    let a := t.bitAddr t.vbase (i.map Int.toNat) / 8
    match t.atomBounds i with
    | some k => .error ⟨0x04, k, a, dst, none⟩
    | none => .ok (a + p % n)

/-- Source and destination address of byte `p`. -/
def Copy.at' (x : Copy) (p : Nat) : Except CopyFail (Nat × Nat) :=
  match x.addrOf false p, x.addrOf true p with
  | .error f, _ => .error f
  | .ok _, .error f => .error f
  | .ok s, .ok d => .ok (s, d)

/-- Consecutive bytes of one source word that go to consecutive bytes of one destination word: the place of the first in the copy. -/
structure Piece where
  at' : Nat
  src : Nat
  dst : Nat
  n : Nat
  deriving DecidableEq, Repr

/-- Byte `p` joined to the last of the pieces so far, newest first. -/
def joinPiece (p s d : Nat) (l : List Piece) : List Piece :=
  match l with
  | q :: t => if q.src + q.n = s ∧ q.dst + q.n = d ∧ s % 32 ≠ 0 ∧ d % 32 ≠ 0 then { q with n := q.n + 1 } :: t else ⟨p, s, d, 1⟩ :: l
  | [] => [⟨p, s, d, 1⟩]

/-- Bytes `lo` to `lo + n - 1` as pieces, up to the first that is out of bounds. -/
def Copy.pieces (x : Copy) (lo n : Nat) : List Piece × Option CopyFail :=
  let r := foldUp n (fun i (a : List Piece × Option CopyFail) => match a.2 with
    | some _ => a
    | none => match x.at' (lo + i) with
      | .error f => (a.1, some f)
      | .ok (s, d) => (joinPiece (lo + i) s d a.1, none)) ([], none)
  (r.1.reverse, r.2)

/-! ## Tiles of a transposing copy (R200, R203) -/

/-- TH and TW in force. -/
def Copy.tileSize (x : Copy) : Nat × Nat := if x.inPlace then (x.s.size 0, x.s.size 0) else (x.th, x.tw)

/-- Tiles along the source's dimensions 1 and 0. -/
def Copy.tileGrid (x : Copy) : Nat × Nat := ((x.s.size 1 + x.tileSize.1 - 1) / x.tileSize.1, (x.s.size 0 + x.tileSize.2 - 1) / x.tileSize.2)

/-- The tile, in the order of the walk, that element `e` of the destination lies in. -/
def Copy.tileOf (x : Copy) (e : Nat) : Nat :=
  let (n1, n0) := (x.d.size 0, x.d.size 1)
  (e / (n0 * n1) * x.tileGrid.1 + e % n1 / x.tileSize.1) * x.tileGrid.2 + e / n1 % n0 / x.tileSize.2

/-- The destination's numbers of the elements of tile `t`: in the source's order where `reads`, else in the destination's. -/
def Copy.tile (x : Copy) (t : Nat) (reads : Bool) : List Nat :=
  let (n1, n0) := (x.d.size 0, x.d.size 1)
  let (th, tw) := x.tileSize
  let (down, across) := x.tileGrid
  let one := fun (a b : Nat) =>
    let (j0, j1) := (t / across % down * th + b, t % across * tw + a)
    if j0 < n1 ∧ j1 < n0 then some (t / (down * across) * n0 * n1 + j1 * n1 + j0) else none
  if reads then (List.range th).flatMap fun b => (List.range tw).filterMap fun a => one a b
  else (List.range tw).flatMap fun a => (List.range th).filterMap fun b => one a b

/-! ## Moving -/

/-- How a unit finds byte `a` of a descriptor's space. -/
abbrev Locator := Hw → Desc → Nat → Bool → Where × Hw

/-- A marked word of hub SRAM is delivered (R116): its address has the form of R347, bit 39 and the offset. -/
def Hw.sramPoisonRead (h : Hw) (a req : Nat) : Hw :=
  if sramHub ≤ a ∧ a < sramImem 0 ∧ h.smark a then h.evC 0x227 2 0 0 (2 ^ 39 + (a / 32 * 32 - sramHub)) req else h

/-- The memory word at a location: data, poison mark. Host memory is not read here. -/
def Hw.whereRead (h : Hw) (w : Where) (req : Nat) : Word × Bool × Hw :=
  match w with
  | .dram c o _ =>
    let (d, m, h) := h.fread c (o / 32) req
    (d, m, if m then h.poisonRead c (o / 32) req else h)
  | .sram a => (BitVec.ofNat 256 (h.sread (a / 32 * 32) 32), h.smark a, h.sramPoisonRead a req)
  | _ => (0, false, h)

/-- `n` bytes, of value `v`, written from a location that is not host memory. An engine buffer is written in each engine of the core. -/
def Hw.whereWrite (h : Hw) (w : Where) (space n v : Nat) (poison : Bool) (cls : Cls) (req : Nat) : Hw :=
  let put := fun (o : Nat) => ((BitVec.ofNat 256 (v * 2 ^ (o % 32 * 8)) : Word), (BitVec.ofNat 32 ((2 ^ n - 1) * 2 ^ (o % 32)) : BitVec 32))
  match w with
  | .dram c o _ => h.fwrite c (o / 32) (put o).1 (put o).2 poison cls req
  | .sram a =>
    let one := fun (h : Hw) (a : Nat) => h.swriteWord (a / 32 * 32) (put a).2 (put a).1 poison
    if space = 4 then foldUp 8 (fun e h => one h (a + e * 0x30000)) h else one h a
  | _ => h

/-- Where a copy stands: the module, the first failure, destination words that received poison, and whether host memory has yet to answer. -/
structure Moved where
  h : Hw
  fail : Option CopyFail := none
  poisoned : List Nat := []
  waits : Bool := false

/-- A failure at a location: a refusal of R196, or a level that the sequencer no longer uses (R73). -/
def Hw.whereFail (h : Hw) (w : Where) (va : Nat) (ofDst : Bool) : Option CopyFail :=
  match w with
  | .fail k r x => some ⟨k, 0, va, ofDst, some (.fail k r x)⟩
  | .dram c o d => if (h.col c).failed.contains (wordLevel (o / 32)) then some ⟨0x18, 0, d, ofDst, none⟩ else none
  | _ => none

/-- Bytes of a source: from where they lie, from host memory, or, under the bits `old` names, from the copy's first look at it (R203, R206); none where
host memory has yet to answer. -/
def Hw.pieceRead (h : Hw) (w : Where) (p : Piece) (req : Nat) (old : Option (Nat × Bool × Nat)) (got : Piece → Option (Nat × Bool)) : Option (Nat × Bool) × Hw :=
  let all := 2 ^ (8 * p.n) - 1
  match old with
  | some (v, m, mask) => match w with
    | .host _ => (got p, h)
    | w =>
      if mask = all then (some (v, m), h)
      else
        let (d, m', h) := h.whereRead w req
        (some ((v &&& mask) ||| (bitsOf d.toNat (p.src % 32 * 8) (8 * p.n) &&& (all - mask)), m || m'), h)
  | none => match w with
    | .host _ => (got p, h)
    | w =>
      let (d, m, h) := h.whereRead w req
      (some (bitsOf d.toNat (p.src % 32 * 8) (8 * p.n), m), h)

/-- How a unit moves the pieces of a copy: its locator, class and REQ; what the pieces held when the copy began; the bits of a destination that alias
source bytes and end with free values (R205); bytes that host memory has given; a write of host memory; pieces that arrive poisoned (R120). -/
structure Mover where
  loc : Locator
  cls : Cls := .fabric
  req : Nat
  old : Piece → Option (Nat × Bool × Nat) := fun _ => none
  wild : Hw → Where → Nat → Nat := fun _ _ _ => 0
  got : Piece → Option (Nat × Bool) := fun _ => none
  toHost : Hw → Nat → Nat → Nat → Bool → Hw := fun h _ _ _ _ => h
  spoilt : Piece → Bool := fun _ => false

/-- One piece moved. -/
def Moved.piece (m : Moved) (x : Copy) (v : Mover) (p : Piece) : Moved :=
  if m.fail.isSome then m
  else
    let (ws, h) := v.loc m.h x.s p.src false
    let (wd, h) := v.loc h x.d p.dst true
    match h.whereFail ws p.src false, h.whereFail wd p.dst true with
    | some f, _ => { m with h := h, fail := some f }
    | none, some f => { m with h := h, fail := some f }
    | none, none =>
      match h.pieceRead ws p v.req (v.old p) v.got with
      | (none, h) => { m with h := h, waits := true }
      | (some (y, bad), h) =>
        let bad := bad || v.spoilt p
        let mask := v.wild h wd p.n
        let (y, h) := if mask = 0 then (y, h) else ((y &&& (2 ^ (8 * p.n) - 1 - mask)) ||| (h.free.1 &&& mask), h.free.2)
        let word := p.dst / 32
        let seen := if bad ∧ ¬ m.poisoned.contains word then word :: m.poisoned else m.poisoned
        match wd with
        | .host a => { m with h := v.toHost h a p.n y bad, poisoned := seen }
        | _ => { m with h := h.whereWrite wd x.d.space p.n y bad v.cls v.req, poisoned := seen }

/-- Element `e` of the destination of a transposing copy as a piece. -/
def Copy.element (x : Copy) (e : Nat) : Except CopyFail Piece :=
  let n := x.d.bits / 8
  match x.at' (e * n) with
  | .ok (s, d) => .ok ⟨e * n, s, d, n⟩
  | .error f => .error f

/-- The first check of a tile's reads that fails (R200): the tile is read before any of it is written. -/
def Hw.tileReadFail (h : Hw) (loc : Locator) (x : Copy) (t : Nat) : Option CopyFail :=
  (x.tile t true).findSome? fun e => match x.addrOf false (e * (x.d.bits / 8)) with
    | .error f => some f
    | .ok a => h.whereFail (loc h x.s a false).1 a false

/-- A tile moved, but for the elements that `skip` names. -/
def Moved.tile (m : Moved) (x : Copy) (v : Mover) (skip : Nat → Bool) (t : Nat) : Moved :=
  if m.fail.isSome then m
  else match m.h.tileReadFail v.loc x t with
    | some f => { m with fail := some f }
    | none => (x.tile t false).foldl (fun m e =>
        if skip e ∨ m.fail.isSome then m
        else match x.element e with
          | .ok p => m.piece x v p
          | .error f => { m with fail := some f }) m

/-- Whether tile `t` would fail one of its checks. -/
def Hw.tileFails (h : Hw) (loc : Locator) (x : Copy) (t : Nat) : Bool :=
  (h.tileReadFail loc x t).isSome || (x.tile t false).any fun e => match x.addrOf true (e * (x.d.bits / 8)) with
    | .error _ => true
    | .ok a => (h.whereFail (loc h x.d a true).1 a true).isSome

/-- Tiles of a transposing copy. -/
def Copy.tileCount (x : Copy) : Nat := if x.d.elems = 0 then 0 else x.tileOf (x.d.elems - 1) + 1

/-- Bytes of a copy's source as they stand at its start, in the element order of the destination; those of host memory come by requests of their own
and count 0 here. -/
def Hw.copyOld (h : Hw) (loc : Locator) (x : Copy) (req : Nat) : List (Byte × Bool) × Hw :=
  (x.pieces 0 x.bytes).1.foldl (fun (a : List (Byte × Bool) × Hw) p =>
    let (w, h) := loc a.2 x.s p.src false
    match w with
    | .host _ | .fail _ _ _ => (a.1 ++ (List.range p.n).map fun _ => (0, false), h)
    | w =>
      let (d, m, h) := h.whereRead w req
      (a.1 ++ (natLE p.n (bitsOf d.toNat (p.src % 32 * 8) (8 * p.n))).map fun b => (b, m), h)) ([], h)

/-- A piece of what the source held at the start. -/
def oldPiece (l : List (Byte × Bool)) (p : Piece) : Option (Nat × Bool) :=
  let bs := (l.drop p.at').take p.n
  if bs.length = p.n then some (leNat (bs.map (·.1)), bs.any (·.2)) else none

/-- A plain copy whose windows overlap (R206). -/
def Copy.mixes (x : Copy) : Bool := x.overlap && !x.permuting

/-- Bits of a piece that take the source's old value by a free choice for each element (R206): of a sparse tensor, for each word. -/
def Copy.oldMask (x : Copy) (choice : Nat) (p : Piece) : Nat :=
  let unit := if x.d.sparse ≠ 0 then 256 else x.d.bits
  (List.range (8 * p.n)).foldl (fun a t => a + Config.freeValue (choice + (8 * p.at' + t) / unit) % 2 * 2 ^ t) 0

/-- Choices that a copy may need. -/
def Copy.choices (x : Copy) : Nat := if x.mixes then 2 * x.bytes else 0

/-- What a piece takes of the source's old value: all of it for an in-place tile and an aliased copy, the chosen elements in a plain copy whose windows
overlap (R203, R205, R206). -/
def Copy.takesOld (x : Copy) (l : List (Byte × Bool)) (choice : Nat) (p : Piece) : Option (Nat × Bool × Nat) :=
  if l.isEmpty then none else (oldPiece l p).map fun o => (o.1, o.2, if x.mixes then x.oldMask choice p else 2 ^ (8 * p.n) - 1)

/-- Lines of device memory that pieces touch, for the snoops of R382: first byte, end, written. -/
def Hw.pieceLines (h : Hw) (loc : Locator) (x : Copy) (l : List Piece) : List (Nat × Nat × Bool) :=
  l.flatMap fun p =>
    let one := fun (w : Where) (write : Bool) => match w with
      | .dram _ _ d => [(d, d + p.n, write)]
      | _ => []
    one (loc h x.s p.src false).1 false ++ one (loc h x.d p.dst true).1 true

/-- The module with every back-invalidation that a list of accesses needs issued; none where none is needed. -/
def Hw.claimAll (h : Hw) (l : List (Nat × Nat × Bool)) : Option Hw :=
  let r := l.foldl (fun (a : Hw × Bool) x => match a.1.claim x.1 x.2.1 x.2.2 with
    | some h => (h, true)
    | none => a) (h, false)
  if r.2 then some r.1 else none

/-! ## The host commands (R390) -/

/-- Where a host command's access lies: SPACE 0 is a device physical address under the host's permissions, SPACE 3 the hub SRAM. -/
def hostLocator : Locator := fun h d a write =>
  if d.space = 3 then (.sram (sramHub + a), h)
  else
    let p : Perm := if write then .hw else .hr
    (match h.mapAccess a p false with
      | .at' c o => if d.rchk ∧ h.regionOf a ≠ some d.region then .fail 0x06 .perm a else .dram c o a
      | r => .fail 0x06 r a, h)

/-- A descriptor's space in a host command: SPACE 0 with VBASE[47:40] 0, or SPACE 3 while no image is loaded. -/
def Hw.hostSpaceOk (h : Hw) (d : Desc) : Bool := if d.space = 0 then decide (d.vbase < 2 ^ 40) else d.space == 3 && !h.loaded

/-- A 64-byte descriptor at a device physical address, read under HR. -/
def Hw.hostDesc (h : Hw) (w a : Nat) : Option Desc × Hw :=
  match h.dpaRead a .hr (reqArg 1 w 0) with
  | (none, h) => (none, h)
  | (some lo, h) => match h.dpaRead (a + 32) .hr (reqArg 1 w 0) with
    | (none, h) => (none, h)
    | (some hi, h) => (some (hi.1 ++ lo.1), h)

/-- The copy of a command between two descriptors (R389). -/
def sqCopy (e : BitVec 512) (s d : Desc) : Copy := ⟨s, d, sqOp e == 0x0A, sqArg e 2 % 64 + 1, sqArg e 2 / 64 % 64 + 1⟩

/-- The copy that a host command names, before any of its checks. -/
def Hw.hostCopy (h : Hw) (w : Nat) (e : BitVec 512) : Option Copy :=
  match h.hostDesc w (sqArg e 0), h.hostDesc w (sqArg e 1) with
  | (some s, _), (some d, _) => some (sqCopy e s d)
  | _, _ => none

/-- The first access of a copy that the map refuses (R31, R32). -/
def Hw.copyMapFail (h : Hw) (x : Copy) (l : List Piece) : Option CopyFail :=
  l.findSome? fun p => firstSome ([((hostLocator h x.s p.src false).1, p.src, false), ((hostLocator h x.d p.dst true).1, p.dst, true)].map fun y =>
    match y.1 with
    | .fail k r a => some ⟨k, 0, y.2.1, y.2.2, some (.fail k r a)⟩
    | _ => none)

/-- A host copy carried out: nothing where the map refuses any of it (R31), else all of it, or up to the first other failure (R392). -/
def Hw.hostMove (h : Hw) (w : Nat) (x : Copy) : Moved :=
  let h := h.unclean
  let pieces := x.pieces 0 x.bytes
  if let some f := h.copyMapFail x pieces.1 then { h := h, fail := some f }
  else
  let (old, h) := if x.overlap then h.copyOld hostLocator x (reqArg 1 w 0) else ([], h)
  let v : Mover := { loc := hostLocator, req := reqArg 1 w 0, old := x.takesOld old h.fresh }
  let start : Moved := { h := { h with fresh := h.fresh + x.choices } }
  if x.xpose then foldUp x.tileCount (fun t m => m.tile x v (fun _ => false) t) start
  else
    let m := pieces.1.foldl (fun m p => m.piece x v p) start
    if m.fail.isSome then m else { m with fail := pieces.2 }

/-- COPY and TRANSPOSE (R390, R392): refusals in the order running, arguments, descriptors, then the copy. -/
def Hw.copyCommand (h : Hw) (w : Nat) (e : BitVec 512) : Hw :=
  let bad := (List.range 2).find? fun n => decide (sqArg e n % 64 ≠ 0)
  if h.get IMG_STAT.STATE = 3 then h.complete w e 0x10 3
  else if let some n := bad then h.complete w e 0x02 n
  else if sqOp e = 0x0A ∧ sqArg e 2 ≥ 2 ^ 12 then h.complete w e 0x02 2
  else
    match h.hostDesc w (sqArg e 0) with
    | (none, h) => h.complete w e 0x03 (sqArg e 0)
    | (some s, h) => match h.hostDesc w (sqArg e 1) with
      | (none, h) => h.complete w e 0x03 (sqArg e 1)
      | (some d, h) =>
        let x := sqCopy e s d
        if let some (k, _) := x.refuse then h.complete w e 0x06 k
        else if ¬ h.hostSpaceOk s ∨ ¬ h.hostSpaceOk d then h.complete w e 0x06 0x03
        else
          let m := h.hostMove w x
          match m.fail with
          | some f =>
            if f.code = 0x04 then m.h.complete w e 0x07 f.dim
            else if f.code = 0x18 then m.h.complete w e 0x04 f.va
            else match f.log with
              | some y => (m.h.logFail y (reqArg 1 w 0)).complete w e 0x03 f.va
              | none => m.h.complete w e 0x03 f.va
          | none => if m.poisoned.isEmpty then m.h.complete w e 0 0 else m.h.complete w e 0x05 m.poisoned.length

/-- The copy at the front of a window waits for the back-invalidations that it needs (R384), and then runs. -/
def Hw.copyFront (h : Hw) (w op : Nat) : Hw :=
  match h.front w fun e => sqOp e == op with
  | none => h
  | some e =>
    let runs := h.get IMG_STAT.STATE == 3
    let descs := if runs then [] else [(sqArg e 0, sqArg e 0 + 64, false), (sqArg e 1, sqArg e 1 + 64, false)]
    let lines := match h.hostCopy w e with
      | some x => if x.refuse.isNone ∧ h.hostSpaceOk x.s ∧ h.hostSpaceOk x.d ∧ ¬ runs then
          h.pieceLines hostLocator x (x.pieces 0 x.bytes).1 else []
      | none => []
    match (h.claimAll descs).orElse fun _ => h.claimAll lines with
    | some h => h
    | none => h.command w (fun e => sqOp e == op) true fun e h => h.copyCommand w e

/-- COPY. -/
def execCopy (w : Fin 16) (s : State) : Host.Outcome State Fault Refusal := done s (s.hw.copyFront w 9)

/-- TRANSPOSE. -/
def execTranspose (w : Fin 16) (s : State) : Host.Outcome State Fault Refusal := done s (s.hw.copyFront w 10)

end Sys2Proof.Machine
end

