-- ==== Sys2Proof/Machine/Dma.lean ====
section
/-!
DEFINITION. DMA channels (R282 to R285, R360, R361) and host memory as streams and channels use it (R286 to R289): batches, entries, blocks, chunk
signals, fabric flits of an entry, translations, page requests, invalidations.
-/
namespace Sys2Proof.Machine

/-! ## Batches (R282 to R284) -/

def Hw.batch (h : Hw) (k : Nat) : Option Batch := (h.chan k).run
def Hw.modBatch (h : Hw) (k : Nat) (f : Batch → Batch) : Hw := h.modChan k fun s => { s with run := s.run.map f }

def Batch.entry (b : Batch) (i : Nat) : BitVec 128 := b.entries.getD i 0
/-- A fabric kind (R283). -/
def entFabric (e : BitVec 128) : Bool := decide (3 ≤ entKind e)
/-- The copy that an entry makes. -/
def Batch.copy (b : Batch) (i : Nat) : Copy := ⟨b.desc (entSrc (b.entry i)), b.desc (entDst (b.entry i)), entKind (b.entry i) == 2, entTh (b.entry i), entTw (b.entry i)⟩
def Batch.blockDone (b : Batch) (i n : Nat) : Bool := (b.done.getD i []).contains n
/-- The first block of an entry that is not complete; the number of blocks where all are. -/
def Batch.firstOpen (b : Batch) (i : Nat) : Nat := ((List.range (b.blocks i)).find? fun n => !b.blockDone i n).getD (b.blocks i)
/-- Chunks of an entry that are complete: all their blocks and those of the chunks before. -/
def Batch.chunksDone (b : Batch) (i : Nat) : Nat :=
  let n := b.firstOpen i
  if n = b.blocks i then b.chunkCount i else n / entChunk (b.entry i)
/-- Where the free choices of entry `i` start (R206). -/
def Batch.mixAt (b : Batch) (i : Nat) : Nat := (List.range i).foldl (fun a j => a + (b.copy j).choices) b.mix
/-- An entry has completed: every block, and the answer to a PUT_SIG's SIGNAL. -/
def Batch.entryDone (b : Batch) (i : Nat) : Bool :=
  b.firstOpen i == b.blocks i && (entKind (b.entry i) != 5 || b.sigs.getD i 0 == 2)
/-- An entry has issued its last request. -/
def Batch.allIssued (b : Batch) (i : Nat) : Bool :=
  if entFabric (b.entry i) then (List.range (b.blocks i)).all fun n => (b.sent.getD i []).contains n || b.blockDone i n
  else b.firstOpen i == b.blocks i

/-- A reserved value of a transfer entry (R283). -/
def entBad (e : BitVec 128) : Bool :=
  decide (entKind e = 0) || decide (entKind e > 6) || bitAt e.toNat 47 || decide (bitsOf e.toNat 78 50 ≠ 0) ||
    (!entFabric e && decide (entNode e ≠ 0)) || (entKind e != 5 && (decide (entRcore e ≠ 0) || decide (entRobj e ≠ 0))) ||
    (entSen e && decide (entSobj e > 47))

/-- The first descriptor that R193 refuses: its handle and code. -/
def Batch.latchFault (b : Batch) (compat : Bool) : Option (Nat × Nat) :=
  b.entries.findSome? fun e =>
    let one := fun (n : Nat) (written : Bool) =>
      let d : Desc := b.desc n
      let k := if d.check (fun _ => true) written ≠ 0 then d.check (fun _ => true) written else if compat ∧ d.sparse ≠ 0 then 0x14 else 0
      if k = 0 then none else some (n, k)
    firstSome [one (entSrc e) false, one (entDst e) true]

/-- DMA_STAT as the running batch stands. -/
def Hw.dmaShow (h : Hw) (k : Nat) : Hw :=
  match h.batch k with
  | none => h
  | some b =>
    let i := ((List.range b.entries.length).find? fun i => !b.entryDone i).getD (b.entries.length - 1)
    h.puts [(DMA_STAT.ENTRY k, i), (DMA_STAT.CHUNKS k, min 65535 (b.chunksDone i))]

/-! ## Where a channel's accesses lie (R39) -/

/-- The locator of channel `k` for core `c`: a miss of the channel's cache is walked. -/
def chanLocator (k c : Nat) : Locator := fun h d a write =>
  match h.locate (h.chan k).tlb c 0 d a write with
  | .miss p =>
    let (e, h) := h.walk p (reqArg 4 k 0)
    let h := h.modChan k fun s => { s with tlb := tset (fun _ => none) s.tlb p (some e) }
    (h.locate (h.chan k).tlb c 0 d a write, h)
  | w => (w, h)

/-- Frames of 2 MiB that the pages of a descriptor's window take, in device memory or, apart from it, in host memory. -/
def Hw.windowFrames (h : Hw) (loc : Locator) (d : Desc) : List (Nat × Nat) :=
  if d.space ≠ 0 then []
  else (List.range (d.limit * 32 / 2 ^ 21 + 2)).flatMap fun i =>
    let p := d.vbase / 2 ^ 21 + i
    match (loc h d (p * 2 ^ 21) false).1 with
    | .dram _ _ a => [(p, a / 2 ^ 21)]
    | .host a => [(p, 2 ^ 64 + a / 2 ^ 21), (p, 2 ^ 64 + (a + 2 ^ 21 - 1) / 2 ^ 21)]
    | _ => []

/-- Two pages of a permuting copy's windows share a frame (R205). -/
def Hw.aliases (h : Hw) (loc : Locator) (x : Copy) : Bool :=
  x.permuting && !x.inPlace && (h.windowFrames loc x.s).any fun p => (h.windowFrames loc x.d).any fun q => p.1 != q.1 && p.2 == q.2

/-- Where a byte lies physically: device memory, or, apart from it, host memory. -/
def Where.phys : Where → Option Nat
  | .dram _ _ a => some a
  | .host a => some (2 ^ 64 + a)
  | _ => none

/-- Bits of `n` bytes written that alias bytes of the copy's source (R205). -/
def Hw.aliasBits (h : Hw) (loc : Locator) (x : Copy) (w : Where) (n : Nat) : Nat :=
  match w.phys with
  | none => 0
  | some a =>
    let src := (x.pieces 0 x.bytes).1.filterMap fun q => (loc h x.s q.src false).1.phys.map fun b => (b, q.n)
    (List.range n).foldl (fun m j => m + (if src.any fun q => decide (q.1 ≤ a + j) && decide (a + j < q.1 + q.2) then 0xFF * 2 ^ (8 * j) else 0)) 0

/-! ## Stops (R197, R285) -/

/-- A check that failed on an entry: the descriptor side, what the map logs, and the stop. -/
def Hw.entryStop (h : Hw) (k i : Nat) (f : CopyFail) : Hw :=
  match h.batch k with
  | none => h
  | some b =>
    let e := b.entry i
    let h := match f.log with
      | some w => h.logFail w (reqArg 4 k 0)
      | none => h
    let h := if [0x03, 0x04, 0x05, 0x06, 0x12, 0x14].contains f.code then
        h.dscFault b.core (if f.ofDst then entDst e else entSrc e) f.code f.dim 2 k false f.va else h
    h.chanStop k f.code

/-! ## Completion of blocks (R284, R361) -/

/-- The chunk signals of an entry that its complete blocks allow, in chunk order. -/
def Hw.chunkSignals (h : Hw) (k i : Nat) : Hw :=
  match h.batch k with
  | none => h
  | some b =>
    foldUp (b.chunksDone i - b.chunks.getD i 0) (fun _ h => match h.batch k with
      | none => h
      | some b =>
        let h := h.modBatch k fun b => { b with chunks := b.chunks.set i (b.chunks.getD i 0 + 1) }
        if entSen (b.entry i) then h.signalArrive b.core (entSobj (b.entry i)) 1 ⟨4, k, h.node, 0⟩ else h) h

/-- The SIGNAL of a PUT_SIG entry all of whose blocks are acknowledged (R361). -/
def Hw.entrySignal (h : Hw) (k i : Nat) : Hw :=
  match h.batch k with
  | none => h
  | some b =>
    let e := b.entry i
    if entKind e ≠ 5 ∨ b.firstOpen i ≠ b.blocks i ∨ b.sigs.getD i 0 ≠ 0 then h
    else match h.freeTx (k / 16) with
      | none => h
      | some t =>
        ((h.takeTx t (.sig k b.core b.word i)).modBatch k fun b => { b with sigs := b.sigs.set i 1 }).sendFlit
          (mkFlit 4 (entNode e) h.node 0 0 t (entRcore e) (entRobj e) 0 0 0)

/-- The batch ends once every entry has completed; its count of poisoned words stands until the channel's next one ends (R116). -/
def Hw.batchEnd (h : Hw) (k : Nat) : Hw :=
  match h.batch k with
  | none => h
  | some b =>
    if (List.range b.entries.length).all fun i => b.entryDone i then
      ((h.dmaShow k).modCore b.core fun s => { s with dmas := s.dmas.map fun d => if d.id = b.word then { d with ended := true } else d }).modChan k
        (fun s => { s with run := none, restart := none, poisoned := b.poisoned }) |>.put (DMA_STAT.STATE k) 0
    else h

/-- A block has been written and acknowledged: it is counted, complete chunks signal, and the entry or the batch may end. -/
def Hw.blockEnd (h : Hw) (k i n : Nat) : Hw :=
  match h.batch k with
  | none => h
  | some b =>
    if b.blockDone i n then h
    else
      let h := (h.modBatch k fun b => { b with done := b.done.set i (n :: b.done.getD i []) }).count (TEL_HUB.DMA_BLK (k / 16)) 1
      let h := match h.batch k with
        | some b => if (List.range b.entries.length).all fun j => b.firstOpen j == b.blocks j then h.modCore b.core fun s =>
            { s with dmas := s.dmas.map fun (d : DmaWord) => if d.id = b.word then { d with written := true } else d } else h
        | none => h
      ((h.chunkSignals k i).entrySignal k i |>.dmaShow k).batchEnd k

/-! ## Blocks moved here (R284) -/

/-- Source bytes of a block that have come from host memory. -/
def Batch.gotAt (b : Batch) (i n : Nat) (p : Piece) : Option (Nat × Bool) :=
  (b.got.find? fun g => g.1 == i && g.2.1 == n && g.2.2.1 == p.at' - 256 * n).map fun g => (leNat g.2.2.2, false)

/-- Whether a request to host memory for this end is under way. -/
def Hw.ioPending (h : Hw) (d : IoDest) : Bool := (h.host.io ++ h.host.ioWait).any fun r => r.dest == d

/-- Pieces of a block, and the bounds failure that ends them. -/
def Batch.blockPieces (b : Batch) (i n : Nat) : List Piece × Option CopyFail :=
  let x := b.copy i
  x.pieces (256 * n) (min 256 (x.bytes - 256 * n))

/-- Reads of host memory that pieces of a block still need are asked for; true where some have not arrived. -/
def Hw.piecesAsk (h : Hw) (k i n : Nat) (loc : Locator) (ps : List Piece) : Bool × Hw :=
  match h.batch k with
  | none => (false, h)
  | some b =>
    ps.foldl (fun (a : Bool × Hw) p =>
      let (w, h) := loc a.2 (b.copy i).s p.src false
      match w with
      | .host x =>
        if (b.gotAt i n p).isSome then (a.1, h)
        else
          let d : IoDest := .chanRead k i n (p.at' - 256 * n)
          (true, if h.ioPending d then h else h.ioAccess x p.n false [] d)
      | _ => (a.1, h)) (false, h)

/-- Those of a whole block. -/
def Hw.blockAsk (h : Hw) (k i n : Nat) (loc : Locator) : Bool × Hw :=
  match h.batch k with
  | none => (false, h)
  | some b => h.piecesAsk k i n loc (b.blockPieces i n).1

/-- The reads that block `n` waits for: its own, or those of the whole source where the copy reads all of it before it writes (R203, R205). -/
def Hw.sourceAsk (h : Hw) (k i n : Nat) (loc : Locator) : Bool × Hw :=
  match h.batch k with
  | none => (false, h)
  | some b =>
    if (b.copy i).inPlace ∨ h.aliases loc (b.copy i) then
      foldUp (b.blocks i) (fun m a => let (x, h) := a.2.blockAsk k i m loc; (a.1 || x, h)) (false, h)
    else h.blockAsk k i n loc

/-- How channel `k` moves block `n` of an entry. -/
def Hw.mover (h : Hw) (k i n : Nat) (b : Batch) : Mover :=
  let x := b.copy i
  let loc := chanLocator k b.core
  let wild := h.aliases loc x
  { loc := loc, req := reqArg 4 k 0, old := x.takesOld (tget (fun _ => []) b.olds i) (b.mixAt i), got := b.gotAt i n,
    wild := fun h w m => if wild then h.aliasBits loc x w m else 0,
    toHost := fun h a len v p => h.ioAccess a len true (natLE len v) (.chanWrite k i n) p }

/-- Base of channel `k`'s staging area (R201). -/
def chanStage (k : Nat) : Nat := sramHub + k / 16 * 0x4000000 + 0x4000000 - 0x80000 + k % 16 * 0x8000

/-- Tiles of a transposing entry that block `n` has elements of. -/
def Batch.blockTiles (b : Batch) (i n : Nat) : List Nat :=
  let x := b.copy i
  let w := x.d.bits / 8
  ((List.range (min (256 / w) (x.d.elems - 256 / w * n))).map fun e => x.tileOf (256 / w * n + e)).eraseDups

/-- The tiles of a block pass through the channel's staging area (R201). How a tile lies there is not stated: its bytes there are free values. -/
def Hw.stageBlock (h : Hw) (k i n : Nat) (b : Batch) : Hw :=
  let x := b.copy i
  let w := x.d.bits / 8
  if ¬ x.xpose then h
  else (b.blockTiles i n).foldl (fun h t => h.stageTile (chanStage k) t (x.tileSize.1 * x.tileSize.2 * w) ((x.tile t true).length * w)) h

/-- The die of a location, in the tower of core `c` for SRAM. -/
def Where.die (c : Nat) : Where → Nat
  | .dram col _ _ => towerDie (col / 64)
  | .sram a => if a ≥ sramHub ∧ a < sramImem 0 then hubDie ((a - sramHub) / 2 ^ 26) else towerDie (c / 8)
  | _ => rootDie

/-- The dies that a block passes: its source's, its channel's hub, its destination's. -/
def Hw.blockPath (h : Hw) (k i n : Nat) (b : Batch) : List Nat :=
  let loc := chanLocator k b.core
  match (b.blockPieces i n).1 with
  | p :: _ => [(loc h (b.copy i).s p.src false).1.die b.core, hubDie (k / 16), (loc h (b.copy i).d p.dst true).1.die b.core]
  | [] => [hubDie (k / 16), hubDie (k / 16)]

/-- A block of an entry of KIND 1 or 2 moved; its first word arrives poisoned where `spoilt`. -/
def Hw.blockMove (h : Hw) (k i n : Nat) (spoilt : Bool := false) : Moved :=
  match h.batch k with
  | none => { h := h }
  | some b =>
    let ps := b.blockPieces i n
    let v := { h.mover k i n b with spoilt := fun p => spoilt && p.at' == 256 * n }
    let m := ps.1.foldl (fun m p => m.piece (b.copy i) v p) { h := h.stageBlock k i n b }
    if m.fail.isSome then m else { m with fail := ps.2 }

/-- Whether a block would fail one of its checks; of a transposing entry, any tile up to the last that the block has elements of (R200). -/
def Hw.blockFails (h : Hw) (k i n : Nat) : Bool :=
  match h.batch k with
  | none => false
  | some b =>
    let x := b.copy i
    let loc := chanLocator k b.core
    if x.xpose then (List.range ((b.blockTiles i n).foldl max 0 + 1)).any fun t => h.tileFails loc x t
    else
      let ps := b.blockPieces i n
      ps.2.isSome || ps.1.any fun p => (h.whereFail (loc h x.s p.src false).1 p.src false).isSome || (h.whereFail (loc h x.d p.dst true).1 p.dst true).isSome

/-- Blocks of the started entries of KIND 1 and 2 that are not complete and come before block `n` of entry `i`, in order. -/
def Batch.before (b : Batch) (i n : Nat) : List (Nat × Nat) :=
  (List.range (i + 1)).flatMap fun j =>
    if entFabric (b.entry j) then []
    else ((List.range (if j = i then n else b.blocks j)).filter fun m => !b.blockDone j m).map fun m => (j, m)

/-- A block of an entry of KIND 1 or 2 read, written and counted: it waits for a back-invalidation (R384) or for host memory, and a failing parity check
stops the channel or poisons a word (R120). -/
def Hw.blockTry (h : Hw) (k i n : Nat) (par : Option XbarFault) : Hw :=
  match h.batch k with
  | none => h
  | some b =>
    let loc := chanLocator k b.core
    if b.blockDone i n ∨ h.ioPending (.chanWrite k i n) then h
    else match h.claimAll (h.pieceLines loc (b.copy i) (b.blockPieces i n).1) with
      | some h => h
      | none =>
        let (missing, h) := h.sourceAsk k i n loc
        if missing then h
        else
          let h' := match par with
            | some y => h.xbarPar (h.blockPath k i n b) y false
            | none => h
          if par.any (·.header) then h'.chanStop k 0x18 else
          let m := h'.blockMove k i n par.isSome
          let h := m.h.modBatch k fun b => { b with poisoned := b.poisoned + m.poisoned.length }
          if h.ioPending (.chanWrite k i n) then h else h.blockEnd k i n

/-- The accesses of failing block `n` that come before the failing one, made (R197): pieces of its own, or, of a transposing entry, the tiles before
the failing tile; none where host memory has yet to answer. -/
def Hw.failOwn (h : Hw) (k i n : Nat) (b : Batch) : Option CopyFail × Hw :=
  let x := b.copy i
  let loc := chanLocator k b.core
  if x.xpose then
    let ft := ((List.range x.tileCount).find? fun t => h.tileFails loc x t).getD x.tileCount
    let ps := (List.range ft).flatMap fun t => (x.tile t false).filterMap fun e => match x.element e with
      | .ok p => some p
      | .error _ => none
    let (missing, h) := ps.foldl (fun (a : Bool × Hw) p => let (m, h) := a.2.piecesAsk k i (p.at' / 256) loc [p]; (a.1 || m, h)) (false, h)
    if missing then (none, h)
    else
      let m := foldUp x.tileCount (fun t (m : Moved) => m.tile x (h.mover k i n b) (fun e => b.blockDone i (e * (x.d.bits / 8) / 256)) t) { h := h }
      (m.fail, m.h)
  else
    let ok := fun (p : Piece) => (h.whereFail (loc h x.s p.src false).1 p.src false).isNone && (h.whereFail (loc h x.d p.dst true).1 p.dst true).isNone
    let (missing, h) := h.piecesAsk k i n loc ((b.blockPieces i n).1.takeWhile ok)
    if missing then (none, h)
    else
      let m := h.blockMove k i n
      (m.fail, m.h)

/-! ## Flits of an entry (R360, R361) -/

/-- Runs of consecutive remote bytes of a block: offset in the block, remote address, bytes. -/
def remoteRuns (remoteDst : Bool) (lo : Nat) (ps : List Piece) : List (Nat × Nat × Nat) :=
  (ps.foldl (fun (l : List (Nat × Nat × Nat)) p =>
    let a := if remoteDst then p.dst else p.src
    match l with
    | (o, r, n) :: t => if r + n = a ∧ o + n = p.at' - lo then (o, r, n + p.n) :: t else (p.at' - lo, a, p.n) :: l
    | [] => [(p.at' - lo, a, p.n)]) []).reverse

/-- ETYPE of a TYPE that ATOMIC_ADD takes (R347). -/
def atomicEtype (t : Nat) : Option Nat := if t = 0 then some 0 else if t = 1 then some 1 else if t = 2 then some 2 else if t = 0xC then some 3 else none

/-- Bytes that add nothing, in place of elements beyond an ATOMIC_ADD's data: -0, or 0 for INT32. -/
def addNothing (etype : Nat) (i : Nat) : Byte := if etype = 0 then (if i % 4 = 3 then 0x80 else 0) else if etype = 3 then 0 else if i % 2 = 1 then 0x80 else 0

/-- ADDR of a remote place: hub SRAM offsets have bit 39 set (R347). -/
def remoteAddr (d : Desc) (a : Nat) : Nat := if d.space = 3 then a + 2 ^ 39 else a

/-- The locator of a fabric entry: the remote side lies outside this module, its bytes come with flits. -/
def fabLocator (k c : Nat) (remote : Desc) (remoteDst : Bool) : Locator := fun h d a write =>
  if write = remoteDst ∧ d = remote then (.host a, h) else chanLocator k c h d a write

/-- Bytes of a block's local side, with their marks; none where host memory has yet to answer. -/
def Hw.gather (h : Hw) (k c : Nat) (b : Batch) (i n : Nat) (x : Copy) (ps : List Piece) : Option CopyFail × Option (List (Byte × Bool)) × Hw :=
  ps.foldl (fun (a : Option CopyFail × Option (List (Byte × Bool)) × Hw) p => match a.1, a.2.1 with
    | none, some l =>
      let (w, h) := chanLocator k c a.2.2 x.s p.src false
      match h.whereFail w p.src false with
      | some f => (some f, some l, h)
      | none => match h.pieceRead w p (reqArg 4 k 0) none (b.gotAt i n) with
        | (none, h) => (none, none, h)
        | (some (v, m), h) => (none, some (l ++ (natLE p.n v).map fun y => (y, m)), h)
    | _, _ => a) (none, some [], h)

/-- The payload of a run: its bytes, then free bytes (of a PUT) or bytes that add nothing; and the poison bits of its words. -/
def Hw.payload (h : Hw) (l : List (Byte × Bool)) (atomic : Option Nat) : Nat × Nat × Hw :=
  let n := l.length
  let pad := alignUp n 32 - n
  let (v, h) := h.free
  let tail := match atomic with
    | some t => (List.range pad).map fun i => addNothing t (n + i)
    | none => natLE pad v
  let poison := (List.range 8).foldl (fun a j => a + bnat (((l.drop (32 * j)).take 32).any (·.2)) * 2 ^ j) 0
  (leNat (l.map (·.1) ++ tail), poison, h)

/-- Words that `n` bytes take. -/
def wordMask (n : Nat) : Nat := 2 ^ ((n + 31) / 32) - 1

/-- The flits of one block sent: none where tracker entries or host bytes are missing. A failing check is reported. -/
def Hw.blockSend (h : Hw) (k i n : Nat) : Option CopyFail × Hw :=
  match h.batch k with
  | none => (none, h)
  | some b =>
    if (b.sent.getD i []).contains n ∨ b.blockDone i n then (none, h)
    else
      let e := b.entry i
      let x := b.copy i
      let kind := entKind e
      let ps := b.blockPieces i n
      let runs := remoteRuns (kind != 3) (256 * n) ps.1
      let room := ((List.range 2048).filter fun t => (tget (fun _ => none) h.fab.txns (k / 16 * 2048 + t)).isNone).length
      let sent := fun (h : Hw) => h.modBatch k fun b => { b with sent := b.sent.set i (n :: b.sent.getD i []) }
      if ps.2.isSome then (ps.2, h)
      else if runs.length > room then (none, h)
      else if kind = 3 then
        (none, sent (runs.foldl (fun h r => match h.freeTx (k / 16) with
          | none => h
          | some t => (h.takeTx t (.get k b.core b.word i n r.1 r.2.2)).sendFlit
              { mkFlit 1 (entNode e) h.node (remoteAddr x.s r.2.1) (wordMask r.2.2) t b.core 0 0 0 0 with rchk := x.s.askRegion }) h))
      else
        let loc := chanLocator k b.core
        let lines := ps.1.flatMap fun p => match (loc h x.s p.src false).1 with
          | .dram _ _ d => [(d, d + p.n, false)]
          | _ => []
        match h.claimAll lines with
        | some h => (none, h)
        | none =>
        let (missing, h) := h.blockAsk k i n loc
        if missing then (none, h)
        else match h.gather k b.core b i n x ps.1 with
          | (some f, _, h) => (some f, h)
          | (none, none, h) => (none, h)
          | (none, some l, h) =>
            let ety := if kind = 6 then atomicEtype x.d.type else none
            (none, sent (runs.foldl (fun h r => match h.freeTx (k / 16) with
              | none => h
              | some t =>
                let (v, poison, h) := h.payload ((l.drop r.1).take r.2.2) ety
                let h := h.modBatch k fun b => { b with poisoned := b.poisoned + ((List.range 8).filter fun j => bitAt poison j).length }
                (h.takeTx t (.put k b.core b.word i n)).sendFlit
                  { mkFlit (if kind = 6 then 5 else 3) (entNode e) h.node (remoteAddr x.d r.2.1) (wordMask r.2.2) t b.core 0 (ety.getD 0)
                    (BitVec.ofNat 2048 v) poison with rchk := x.d.askRegion }) h))

/-- Why a fabric entry is refused at its start (R360). -/
def Hw.fabRefuse (h : Hw) (e : BitVec 128) (x : Copy) : Option CopyFail :=
  let get := entKind e == 3
  let r := if get then x.s else x.d
  let other := decide (entNode e ≠ h.node)
  if ¬ (r.space = 3 ∨ (r.space = 0 ∧ r.vbase < 2 ^ 40)) then some ⟨0x03, 0, 0, !get, none⟩
  else if entKind e = 6 ∧ ((atomicEtype x.d.type).isNone ∨ x.d.sparse ≠ 0 ∨ r.space ≠ 0) then some ⟨0x14, 0, 0, true, none⟩
  else if ¬ h.hasCoord then some ⟨0x16, 0, 0, true, none⟩
  else if other ∧ (h.fuses.variantS ∨ ¬ h.reachable (entNode e)) then some ⟨0x16, 0, 0, true, none⟩
  else none

/-- Refusals of R199 and R202 that do not look at windows: a fabric entry's windows lie in two address spaces. -/
def Copy.refuseShape (x : Copy) : Option (Nat × Bool) :=
  match x.refuse with
  | some (0x12, _) => none
  | r => r

/-- Why entry `i` is refused at its start. -/
def Hw.entryRefusal (h : Hw) (b : Batch) (i : Nat) : Option CopyFail :=
  let e := b.entry i
  let x := b.copy i
  let shape := fun (r : Option (Nat × Bool)) => r.map fun (c : Nat × Bool) => (⟨c.1, 0, 0, c.2, none⟩ : CopyFail)
  if entFabric e then (h.fabRefuse e x).or (shape x.refuseShape) else shape x.refuse

/-- Blocks of the fabric entries before block `n` of entry `i` whose requests have not left. -/
def Batch.unsent (b : Batch) (i n : Nat) : List (Nat × Nat) :=
  (List.range (i + 1)).flatMap fun j =>
    if ¬ entFabric (b.entry j) then []
    else ((List.range (if j = i then n else b.blocks j)).filter fun m => !(b.sent.getD j []).contains m && !b.blockDone j m).map fun m => (j, m)

/-- A batch that will stop goes on with the accesses before the failing one (R197): blocks of copies are completed and requests of fabric entries sent.
Once none is left the failing block's own earlier accesses are made, and the channel stops (R285). -/
def Hw.chanFail (h : Hw) (k : Nat) : Hw :=
  match (h.batch k).bind fun b => b.fails.map fun x => (b, x) with
  | none => h
  | some (b, i, n, refused) =>
    let h := (b.before i n).foldl (fun h x => h.blockTry k x.1 x.2 none) h
    let h := (b.unsent i n).foldl (fun h x => (h.blockSend k x.1 x.2).2) h
    match h.batch k with
    | none => h
    | some b =>
      if ¬ (b.before i n).isEmpty ∨ ¬ (b.unsent i n).isEmpty then h
      else
        let (f, h) := if refused then (h.entryRefusal b i, h) else if entFabric (b.entry i) then h.blockSend k i n else h.failOwn k i n b
        match f with
        | some f => h.entryStop k i f
        | none => h

/-- Channel `k` will stop at block `n` of entry `i`. -/
def Hw.chanFails (h : Hw) (k i n : Nat) (refused : Bool) : Hw :=
  (h.modBatch k fun b => { b with fails := b.fails.or (some (i, n, refused)) }).chanFail k

/-- Whether channel `k` is going to stop. -/
def Hw.chanFailing (h : Hw) (k : Nat) : Bool := ((h.batch k).bind fun b => b.fails).isSome

/-- The flits of an entry sent, block by block; a failing block stops the channel. -/
def Hw.entrySend (h : Hw) (k i : Nat) : Hw :=
  match h.batch k with
  | none => h
  | some b => foldUp (b.blocks i) (fun n h => if h.chanFailing k then h else match h.blockSend k i n with
      | (some _, h) => h.chanFails k i n false
      | (none, h) => h) h

/-- Entry `i` starts (R284): it is refused, its first look at its source is taken where the copy needs one, or its flits leave. That look waits for the
back-invalidations that it needs (R382, R384). -/
def Hw.entryStart (h : Hw) (k i : Nat) : Hw :=
  match h.batch k with
  | none => h
  | some b =>
    let x := b.copy i
    let loc := chanLocator k b.core
    let on := fun (h : Hw) => (h.modChan k fun s => { s with started := i + 1 }).dmaShow k
    if (h.entryRefusal b i).isSome then (on h).chanFails k i 0 true
    else if entFabric (b.entry i) then (on h).entrySend k i
    else if x.inPlace ∨ x.mixes ∨ h.aliases loc x then
      let lines := (x.pieces 0 x.bytes).1.flatMap fun p => match (loc h x.s p.src false).1 with
        | .dram _ _ d => [(d, d + p.n, false)]
        | _ => []
      match h.claimAll lines with
      | some h => h
      | none =>
        let (old, h) := (on h).copyOld loc x (reqArg 4 k 0)
        h.modBatch k fun b => { b with olds := tset (fun _ => []) b.olds i old }
    else on h

/-- Entries start in order, each once its predecessor has issued its last request, up to entry `upto` whatever stands. -/
def Hw.startEntries (h : Hw) (k upto : Nat) : Hw :=
  foldUp 64 (fun i h => match h.batch k with
    | none => h
    | some b =>
      if b.fails.isSome ∨ i ≠ (h.chan k).started ∨ i ≥ b.entries.length then h
      else if i ≤ upto ∨ b.allIssued (i - 1) then h.entryStart k i else h) h

/-- What a completed block or a freed tracker entry lets go on: unsent flits, a SIGNAL, the next entry; or the stop of a failing batch. -/
def Hw.chanOn (h : Hw) (k : Nat) : Hw :=
  if h.chanFailing k then h.chanFail k
  else
    let h := foldUp (h.chan k).started (fun i h => match h.batch k with
      | some b => if entFabric (b.entry i) ∧ ¬ b.entryDone i then (h.entrySend k i).entrySignal k i else h
      | none => h) h
    (h.startEntries k 0).batchEnd k

/-- DMA_BATCH_ACCEPT (R282): the batch is fetched from the core's SRAM, its descriptors are latched, and its first entry starts. -/
def Hw.batchAccept (h : Hw) (k : Nat) : Hw :=
  match (h.chan k).run, (h.chan k).next with
  | none, (c, word, n, off) :: rest =>
    let entries := (List.range n).map fun i => BitVec.ofNat 128 (h.sread (sramCore c + off + 16 * i) 16)
    let handles := (entries.flatMap fun e => [entSrc e, entDst e]).eraseDups
    let b : Batch := {
      core := c, word := word, entries := entries, descs := handles.map fun m => (m, h.descOf c m), done := List.replicate n [],
      chunks := List.replicate n 0, sent := List.replicate n [], sigs := List.replicate n 0, got := [], poisoned := 0, mix := h.fresh }
    let h : Hw := { h with fresh := b.mixAt n }
    let h := h.modChan k fun s => { s with run := some b, next := rest, started := 0, restart := none }
    let h := (h.resetReg (DMA_STAT.off k)).puts [(DMA_STAT.STATE k, 1), (DMA_STAT.OWNER k, c), (DMA_STAT.WAITING k, bnat !rest.isEmpty)]
    if entries.any entBad then h.chanStop k 0x01
    else match b.latchFault (h.flag (CORE_STAT.COMPAT c)) with
      | some (handle, code) => (h.dscFault c handle code 0 2 k false 0).chanStop k code
      | none =>
        let h := h.modCore c fun s => { s with dmas := s.dmas.map fun d => if d.id = word then { d with accepted := true } else d }
        (h.startEntries k 0).chanOn k
  | _, _ => h

/-- DMA_BATCH_ACCEPT. -/
def execDmaBatchAccept (chan : Fin 32) (s : State) : Host.Outcome State Fault Refusal := done s (s.hw.whenLocked fun h => h.batchAccept chan)

/-- DMA_BLOCK_COMPLETE (R284): a block of a COPY or TRANSPOSE entry is read, written and acknowledged; or it waits for a back-invalidation, or for
host memory. A fabric entry's blocks complete by their flits; flits of it that had to wait go out. Where a check fails in it or before, the channel stops
once what comes before is complete. -/
def Hw.blockComplete (h : Hw) (k i n : Nat) (par : Option XbarFault) : Hw :=
  let h := h.startEntries k i
  match h.batch k with
  | none => h
  | some b =>
    if b.fails.isSome ∨ (i < (h.chan k).started ∧ entFabric (b.entry i)) then h.chanOn k
    else if i ≥ (h.chan k).started ∨ i ≥ b.entries.length ∨ n ≥ b.blocks i ∨ b.blockDone i n then h
    else match (b.before i n ++ [(i, n)]).find? fun x => h.blockFails k x.1 x.2 with
      | some (j, m) => h.chanFails k j m false
      | none =>
        let h := h.blockTry k i n par
        match h.batch k with
        | some b => if b.blockDone i n then h.chanOn k else h
        | none => h

/-- DMA_BLOCK_COMPLETE. -/
def execDmaBlockComplete (chan : Fin 32) (entry : Fin 64) (b : BlockEnd) (s : State) : Host.Outcome State Fault Refusal :=
  done s (s.hw.whenLocked fun h => h.blockComplete chan entry b.block b.par)

/-! ## Host memory (R286 to R289) -/

/-- The stream or channel that a request to host memory belongs to fails with code 0x11 (R288). -/
def Hw.ioFail (h : Hw) (d : IoDest) : Hw :=
  match d with
  | .gone => h
  | .fetch c q ent _ =>
    let x := (h.core c).wordAt ((h.core c).wordOfEnt q ent)
    (h.dropPaged c).halt c 0x11 { stream := 1, pc := x.1, tag := x.2, queue := q }
  | .drain c word =>
    let x := (h.core c).wordAt word
    (h.dropPaged c).halt c 0x11 { stream := 1, pc := x.1, tag := x.2 }
  | .index c word =>
    let x := (h.core c).wordAt word
    (h.dropPaged c).halt c 0x11 { stream := 1, pc := x.1, tag := x.2 }
  | .chanRead k _ _ _ => h.chanStop k 0x11
  | .chanWrite k _ _ => h.chanStop k 0x11

/-- Pages that a stream's word or a channel waits for. -/
def Hw.pagesOf (h : Hw) (mine : IoDest → Bool) : List Nat :=
  ((h.host.ioWait.filter fun r => mine r.dest).map fun r => r.addr / 4096).filter fun p => h.host.paging.contains p

/-- Whether a request is of word `id` of core `c`. -/
def Hw.ofWord (h : Hw) (c id : Nat) (d : IoDest) : Bool :=
  match d with
  | .fetch k q ent _ => k == c && (h.core c).wordOfEnt q ent == id
  | .drain k w => k == c && w == id
  | .index k w => k == c && w == id
  | _ => false

def ofChan (k : Nat) (d : IoDest) : Bool := d.chan? == some k

/-- Blocks after a restart point count as undelivered (R288). What an in-place tile holds in staging stands (R203). -/
def Batch.undo (b : Batch) (i n : Nat) : Batch :=
  let keep := fun (l : List (List Nat)) => (List.range l.length).map fun j => if j < i then l.getD j [] else if j = i then (l.getD j []).filter (· ≤ n) else []
  { b with done := keep b.done, sent := keep b.sent, got := b.got.filter fun g => decide (g.1 < i) || (b.copy g.1).inPlace || (decide (g.1 = i) && decide (g.2.1 ≤ n)) }

/-- Channel `k` waits on a page request, or goes on from its restart point (R288, R290): the first block that is not complete, those before it having
gone on meanwhile. -/
def Hw.chanPaging (h : Hw) (k : Nat) : Hw :=
  match h.batch k, h.pagesOf (ofChan k) with
  | some b, p :: _ =>
    let i := ((List.range b.entries.length).find? fun i => !b.entryDone i).getD 0
    let h := h.puts [(DMA_STAT.STATE k, 2), (DMA_PRI_ADDR.PAGE k, p)]
    h.modChan k fun s => { s with restart := some (i, b.firstOpen i) }
  | some b, [] => match (h.chan k).restart with
    | some _ =>
      let i := ((List.range b.entries.length).find? fun i => !b.entryDone i).getD 0
      (((h.modBatch k fun b => b.undo i (b.firstOpen i)).modChan k fun s => { s with restart := none }).put (DMA_STAT.STATE k) 1).chanOn k
    | none => h
  | none, _ => h

/-- Streams and channels marked as they wait on page requests. -/
def Hw.repage (h : Hw) : Hw :=
  let h : Hw := foldUp 64 (fun c h =>
    if (h.core c).armed.isEmpty then h
    else h.modCore c fun s => { s with armed := s.armed.map fun a => { a with paged := !(h.pagesOf (h.ofWord c a.id)).isEmpty } }) h
  foldUp 32 (fun k h => h.chanPaging k) h

/-- Translations asked for the pages of waiting requests that nothing is asked for. -/
def Hw.reAsk (h : Hw) : Hw :=
  h.host.ioWait.foldl (fun h r =>
    let p := r.addr / 4096
    if h.host.asked.contains p ∨ h.host.paging.contains p then h
    else (h.modHost fun x => { x with asked := x.asked ++ [p] }).send (.atsRequest p r.write)) h

/-- A page request for the page of waiting requests: as many are outstanding as the host grants, at most 512 (R286). -/
def Hw.pageAsk (h : Hw) (p : Nat) (write : Bool) : Hw :=
  if h.host.paging.length ≥ min 512 h.host.prg ∨ h.host.paging.contains p then h
  else ((h.modHost fun x => { x with paging := x.paging ++ [p] }).send (.pageRequest p write)).repage

/-- Invalidations whose requests have all completed are answered (R286). -/
def Hw.invCheck (h : Hw) : Hw :=
  let busy := fun (v : Nat × Nat) => h.host.io.any fun r => decide (v.1 ≤ r.addr / 4096) && decide (r.addr / 4096 < v.1 + v.2)
  let ended := h.host.inv.filter fun v => !busy v
  ended.foldl (fun h v => h.send (.atsInvDone v.1)) (h.modHost fun x => { x with inv := x.inv.filter busy })

/-- A word of an access stream at a host address has been delivered: the restart point moves on (R288). -/
def Hw.arrived (h : Hw) (c word addr : Nat) : Hw :=
  h.modCore c fun s => s.modArmed word fun a => { a with away := match a.away.findIdx? fun x => x.1 == addr with
    | some i => a.away.eraseIdx i
    | none => a.away }

/-- What a completed request of host memory does for its end. -/
def Hw.ioDone (h : Hw) (r : IoReq) (data : List Byte) : Hw :=
  match r.dest with
  | .gone => h
  | .fetch c q ent ps => (h.arrived c ((h.core c).wordOfEnt q ent) r.addr).wordTo c q ent ps (BitVec.ofNat 256 (leNat data)) false false
  | .drain c word => (h.arrived c word r.addr).stored c word
  | .index c word => h.modCore c fun s => s.modArmed word fun a => { a with idxGot := a.idxGot ++ [((none, r.addr), BitVec.ofNat 256 (leNat data), false)] }
  | .chanRead k i n off =>
    let h := h.modBatch k fun b => { b with got := b.got ++ [(i, n, off, data)] }
    match h.batch k with
    | some b => if entFabric (b.entry i) then h.chanOn k else h
    | none => h
  | .chanWrite k i n => if h.ioPending r.dest then h else (h.blockEnd k i n).chanOn k

/-- HOST_IO_COMPLETION (R287): data of a read or the end of a write; a failed one, or one without all of a read's data, stops its stream or
channel. -/
def execHostIoCompletion (id : Nat) (data : List Byte) (ok : Bool) (s : State) : Host.Outcome State Fault Refusal :=
  let h := s.hw
  match h.host.io.find? fun r => r.id == id with
  | none => done s h
  | some r =>
    let h := h.modHost fun x => { x with io := x.io.filter fun y => y.id != id }
    done s (if ok && (r.write || data.length == r.n) then h.ioDone r data else h.ioFail r.dest).invCheck

/-- A translation cached, of the size that the host reports: 2,048 entries, the oldest of which leaves (R286). -/
def HostSt.cache (x : HostSt) (e : AtcEnt) : HostSt :=
  let l := x.atc.filter (fun y => y.page != e.page || y.span != e.span) ++ [e]
  { x with atc := l.drop (l.length - 2048) }

/-- ATS_TRANSLATION_COMPLETION (R286, R288): requests that the translation permits go out; a page not present or without the permission is asked
for; an error stops those that wait for it. -/
def execAtsTranslationCompletion (page : BitVec 52) (result : AtsResult) (s : State) : Host.Outcome State Fault Refusal :=
  let h := s.hw
  let p := page.toNat
  if ¬ h.host.asked.contains p then done s h
  else
    let h := h.modHost fun x => { x with asked := x.asked.filter (· != p) }
    let mine := h.host.ioWait.filter fun r => r.addr / 4096 == p
    let wr := mine.any fun r => r.write
    match result with
    | .ok tr rd w n =>
      let span := 2 ^ n
      let may := fun (r : IoReq) => if r.write then w else rd
      let h := h.modHost fun x => (x.cache ⟨p / span * span, tr / span * span, rd, w, span⟩)
      let h := h.modHost fun x => { x with ioWait := x.ioWait.filter fun r => r.addr / 4096 != p || !may r }
      let h := (mine.filter may).foldl (fun h r => h.ioSend r ((tr / span * span + p % span) * 4096 + r.addr % 4096)) h
      done s (if mine.all may then h else h.pageAsk p wr)
    | .notPresent => done s (if mine.isEmpty then h else h.pageAsk p wr)
    | .error => done s (mine.foldl (fun h r => if h.host.ioWait.contains r then h.ioFail r.dest else h)
        h)

/-- PAGE_GROUP_RESPONSE (R288). -/
def execPageGroupResponse (page : BitVec 52) (ok : Bool) (s : State) : Host.Outcome State Fault Refusal :=
  let h := s.hw
  let p := page.toNat
  if ¬ h.host.paging.contains p then done s h
  else
    let h := h.modHost fun x => { x with paging := x.paging.filter (· != p) }
    let mine := h.host.ioWait.filter fun r => r.addr / 4096 == p
    if ok then done s h.repage.reAsk
    else done s (mine.foldl (fun h r => if h.host.ioWait.contains r then h.ioFail r.dest else h) h).repage.reAsk

/-- ATS_INVALIDATE (R286). -/
def execAtsInvalidate (page : BitVec 52) (pages : Nat) (s : State) : Host.Outcome State Fault Refusal :=
  let p := page.toNat
  done s (s.hw.modHost fun x =>
    { x with atc := x.atc.filter fun e => !(decide (p < e.page + e.span) && decide (e.page < p + pages)), inv := x.inv ++ [(p, pages)] }).invCheck

end Sys2Proof.Machine
end

