-- ==== Sys2Proof/Machine/EndPoint.lean ====
section
/-!
DEFINITION. The fabric endpoint (R360 to R368, R372): requests served for other nodes and for this one, answers to this module's own requests,
and reduce-on-pass collectives. A command takes the oldest delivered flit of its type; one that must wait stays.
-/
namespace Sys2Proof.Machine

/-! ## Delivered flits -/

/-- Payload words of a flit that WMASK names. -/
def Flit.words (f : Flit) : List Nat := (List.range 8).filter fun j => bitAt (Flit.wmask f) j

/-- The oldest delivered flit of a type, that `may` admits, handled; `f` says whether it stays. A parity check that fails on its way (R120), once: a bad header discards it,
and `lost` is what its requester sees, by default a RESP with a command error; a bad data word is poisoned. -/
def Hw.endpoint (h : Hw) (type : Nat) (f : Nat → Flit → Hw → Bool × Hw)
    (lost : Nat → Flit → Hw → Hw := fun p f h => h.answer p f 0x18) (may : Hw → Flit → Bool := fun _ _ => true) : Hw :=
  match h.fab.inbox.find? fun x => Flit.type x.2 == type && !h.pllOff && may h x.2 with
  | none => h
  | some x =>
    let out := fun (x : Nat × Flit) (h : Hw) => h.outbox x
    let on := fun (x : Nat × Flit) (h : Hw) => let (stays, h) := f x.1 x.2 h; if stays then h else out x h
    let met : Flit := { x.2 with par := none }
    let as := fun (y : Flit) (h : Hw) => h.modFab fun s => { s with inbox := s.inbox.replace x (x.1, y) }
    match x.2.par with
    | none => on x h
    | some y =>
      if y.header then lost x.1 met (out x (h.xbarPar (h.flitPath x.1 met) y true))
      else if (Flit.words met).isEmpty ∨ type = 1 then on (x.1, met) (as met h)
      else on (x.1, Flit.spoil met) (as (Flit.spoil met) (h.xbarPar (h.flitPath x.1 met) y true))

/-! ## This node's memory as the endpoint reaches it (R32, R347, R360) -/

/-- Where an address of the endpoint lies under one permission: hub SRAM or device memory. Bit 40 says device memory, of a window whose CSPACE or RSPACE
does (R364). -/
def Hw.nodeOne (h : Hw) (a : Nat) (p : Perm) : Where :=
  if hubAddr a then .sram (sramHub + (a - 2 ^ 39))
  else
    let d := a % 2 ^ 40
    match h.mapAccess d p false with
    | .at' c o => .dram c o d
    | r => .fail 0x06 r d

/-- Where an address lies under two permissions, both of which it needs. -/
def Hw.nodeWhere (h : Hw) (a : Nat) (p q : Perm) : Where :=
  match h.nodeOne a p with
  | .fail k r x => .fail k r x
  | _ => h.nodeOne a q

/-- `n` bytes from `a` cut at word boundaries: address and length. -/
def cutWords (a n : Nat) : List (Nat × Nat) :=
  (foldUp n (fun i (l : List (Nat × Nat)) => match l with
    | (b, k) :: t => if (a + i) % 32 = 0 then (a + i, 1) :: l else (b, k + 1) :: t
    | [] => [(a, 1)]) []).reverse

/-- The first refusal of an access: its status, and where. `region` is the one that RCHK asks for (R196, R360). -/
def Hw.nodeFail (h : Hw) (l : List (Nat × Nat)) (p q : Perm) (region : Option Nat := none) : Option (Nat × Where) :=
  l.findSome? fun x => match h.nodeWhere x.1 p q with
    | .fail k r d => some (k, .fail k r d)
    | .dram c o d => if region.isSome ∧ h.regionOf d ≠ region then some (0x06, .fail 0x06 .perm d)
        else if (h.col c).failed.contains (wordLevel (o / 32)) then some (0x18, .dram c o d) else none
    | _ => none

/-- Lines that an access touches, for the snoops of R382. -/
def Hw.nodeLines (h : Hw) (l : List (Nat × Nat)) (p : Perm) (write : Bool) : List (Nat × Nat × Bool) :=
  l.filterMap fun x => match h.nodeOne x.1 p with
    | .dram _ _ d => some (d, d + x.2, write)
    | _ => none

/-- Bytes read, each with the mark of its word. -/
def Hw.nodeRead (h : Hw) (l : List (Nat × Nat)) (p : Perm) (req : Nat) : List (Byte × Bool) × Hw :=
  l.foldl (fun (a : List (Byte × Bool) × Hw) x =>
    let (d, m, h) := a.2.whereRead (h.nodeOne x.1 p) req
    (a.1 ++ (natLE x.2 (bitsOf d.toNat (x.1 % 32 * 8) (8 * x.2))).map fun b => (b, m), h)) ([], h)

/-- Bytes written, poisoned where a mark is set. -/
def Hw.nodeWrite (h : Hw) (l : List (Nat × Nat)) (p : Perm) (bytes : List (Byte × Bool)) (req : Nat) : Hw :=
  (l.foldl (fun (a : Hw × List (Byte × Bool)) x =>
    let here := a.2.take x.2
    (a.1.whereWrite (h.nodeOne x.1 p) 0 x.2 (leNat (here.map (·.1))) (here.any (·.2)) .fabric req, a.2.drop x.2)) (h.unclean, bytes)).1

/-- REQ of a flit's source. -/
def remoteReq (f : Flit) : Nat := reqArg 6 0 (Flit.src f)

/-- What a module in freewheel or kickstand answers in place of service (R372). -/
def Hw.asleep (h : Hw) (write : Bool) : Option Nat := if h.flag PWR_FW.FW then some 0x20 else if write ∧ h.kick then some 0x21 else none

/-! ## Requests served (R361, R362, R372) -/

/-- The bytes that a flit's WMASK names, from ADDR on, cut at word boundaries: payload word and pieces. -/
def Flit.spots (f : Flit) : List (Nat × List (Nat × Nat)) := (Flit.words f).map fun j => (j, cutWords (Flit.addr f + 32 * j) 32)

/-- GET_REQ: the words asked for, each with its poison bit, or the error. -/
def Hw.serveGet (h : Hw) (p : Nat) (f : Flit) : Bool × Hw :=
  let all := (Flit.spots f).flatMap (·.2)
  match h.asleep false, h.nodeFail all .fr .fr f.rchk with
  | some s, _ => (false, h.answer p f s)
  | none, some (k, w) => (false, (h.logFail w (remoteReq f)).answer p f k)
  | none, none => match h.claimAll (h.nodeLines all .fr false) with
    | some h => (true, h)
    | none =>
      let (v, poison, h) := (Flit.spots f).foldl (fun (a : Nat × Nat × Hw) x =>
        let (l, h) := a.2.2.nodeRead x.2 .fr (remoteReq f)
        (a.1 + leNat (l.map (·.1)) * 2 ^ (256 * x.1), a.2.1 + bnat (l.any (·.2)) * 2 ^ x.1, h)) (0, 0, h)
      (false, h.sendFlit (mkFlit 2 (Flit.src f) h.node (Flit.addr f) (Flit.wmask f) (Flit.txid f) (Flit.core f) 0 0 (BitVec.ofNat 2048 v) poison))

/-- GET_REQ. -/
def execGetReq (s : State) : Host.Outcome State Fault Refusal := done s (s.hw.endpoint 1 fun p f h => h.serveGet p f)

/-- PUT: the words written, and RESP. -/
def Hw.servePut (h : Hw) (p : Nat) (f : Flit) : Bool × Hw :=
  let all := (Flit.spots f).flatMap (·.2)
  match h.asleep true, h.nodeFail all .fw .fw f.rchk with
  | some s, _ => (false, h.answer p f s)
  | none, some (k, w) => (false, (h.logFail w (remoteReq f)).answer p f k)
  | none, none => match h.claimAll (h.nodeLines all .fw true) with
    | some h => (true, h)
    | none =>
      let h := (Flit.spots f).foldl (fun h x =>
        let bad := bitAt (Flit.poison f) x.1
        h.nodeWrite x.2 .fw ((natLE 32 (Flit.word f x.1).toNat).map fun b => (b, bad)) (remoteReq f)) h
      (false, h.answer p f 0)

/-- PUT. -/
def execPut (s : State) : Host.Outcome State Fault Refusal := done s (s.hw.endpoint 3 fun p f h => h.servePut p f)

/-- Elements added to `n` bytes at an address: in a sequencer's atomic unit, or at the near port of hub SRAM (R64, R170). Poison of either side poisons
the word; bytes beside the addition add nothing. -/
def Hw.nodeAdd (h : Hw) (a n ety v : Nat) (poison : Bool) (req : Nat) : Hw :=
  let o := a % 32
  let d : Word := BitVec.ofNat 256 (leNat ((List.range 32).map fun i =>
    if o ≤ i ∧ i < o + n then BitVec.ofNat 8 (bitsOf v (8 * (i - o)) 8) else addNothing ety i))
  match h.nodeOne a .fw with
  | .dram c w _ => if poison then h.fwrite c (w / 32) 0 0xFFFFFFFF#32 true .fabric req else h.fatomic c (w / 32) ety d req
  | .sram x =>
    let x := x / 32 * 32
    h.swriteWord x 0xFFFFFFFF#32 (addElems ety (BitVec.ofNat 256 (h.sread x 32)) d) (poison || h.smark x)
  | _ => h

/-- Bytes of an element of ETYPE. -/
def etypeBytes (t : Nat) : Nat := if t = 0 ∨ t = 3 then 4 else 2

/-- ATOMIC_ADD: each word a locked read-modify-write (R64, R170). -/
def Hw.serveAtomic (h : Hw) (p : Nat) (f : Flit) : Bool × Hw :=
  let all := (Flit.spots f).flatMap (·.2)
  if (h.asleep true).isNone ∧ (Flit.etype f > 3 ∨ Flit.addr f % etypeBytes (Flit.etype f) ≠ 0) then (false, h.answer p f 0x02)
  else match h.asleep true, h.nodeFail all .fw .fw f.rchk with
    | some s, _ => (false, h.answer p f s)
    | none, some (k, w) => (false, (h.logFail w (remoteReq f)).answer p f k)
    | none, none => match h.claimAll (h.nodeLines all .fw true) with
      | some h => (true, h)
      | none =>
        let h := (Flit.spots f).foldl (fun h x => (x.2.foldl (fun (a : Hw × Nat) y =>
          (a.1.nodeAdd y.1 y.2 (Flit.etype f) ((Flit.word f x.1).toNat / 2 ^ (8 * a.2)) (bitAt (Flit.poison f) x.1) (remoteReq f), a.2 + y.2)) (h, 0)).1) h.unclean
        (false, h.answer p f 0)

/-- ATOMIC_ADD. -/
def execAtomicAdd (s : State) : Host.Outcome State Fault Refusal := done s (s.hw.endpoint 5 fun p f h => h.serveAtomic p f)

/-- SIGNAL: 1 added to the object (R299), or SYNC_REMOTE_ERR and the error (R300); held while a snapshot is being taken (R314). -/
def Hw.serveSignal (h : Hw) (p : Nat) (f : Flit) : Bool × Hw :=
  match h.asleep true with
  | some s => (false, h.answer p f s)
  | none =>
    if h.snapping then (false, h.modFab fun s => { s with held := s.held ++ [(p, { f with buf := none })] })
    else
      let (n, h) := h.free
      let (code, h) := h.objAdd (h.leader (Flit.core f)) (Flit.obj f) 1 ⟨6, n % 64, Flit.src f, 0⟩
      if code = 0 then (false, h.answer p f 0)
      else (false, (h.ev 0x402 1 3 (Flit.core f) (Flit.obj f + code * 2 ^ 8) (Flit.src f)).answer p f code)

/-- SIGNAL. -/
def execSignal (s : State) : Host.Outcome State Fault Refusal := done s (s.hw.endpoint 4 fun p f h => h.serveSignal p f)

/-- Records of a DRL flit: as many as ADDR says, at most 16. -/
def Flit.records (f : Flit) : List DRec :=
  (List.range (min 16 (Flit.addr f))).map fun i => recAt f.payload.toNat i (bitAt (Flit.poison f) (i / 2))

/-- A DRL flit that carries these records of it alone. -/
def Flit.withRecords (f : Flit) (l : List DRec) : Flit :=
  let (p, poison) := drlPayload l
  { f with hdr := BitVec.ofNat 128 (f.hdr.toNat - Flit.addr f * 2 ^ 44 + l.length * 2 ^ 44), payload := BitVec.ofNat 2048 p,
           trl := BitVec.ofNat 128 (f.trl.toNat - Flit.poison f * 2 ^ 48 + poison * 2 ^ 48) }

/-- A DRL flit has something to do: its node's last records have been taken in, and one of its own can be; or none of it depends on that. -/
def Hw.drlMay (h : Hw) (f : Flit) : Bool :=
  f.par.isSome || h.flag PWR_FW.FW || (match h.disp with
    | none => true
    | some d => !(h.drl.queue.any fun x => x.1 == 64 + Flit.src f) &&
        ((Flit.records f).isEmpty || (Flit.records f).any fun r => h.mayTake d (64 + Flit.src f) r))

/-- DRL: the records queue for intake from their node (R183); those without credit wait in the receive buffer, in their flit (R180). An inactive
derailleur, a kickstand's included (R468), answers 0x24. -/
def Hw.serveDrl (h : Hw) (p : Nat) (f : Flit) : Bool × Hw :=
  if h.flag PWR_FW.FW then (false, h.answer p f 0x20)
  else match h.disp with
    | none => (false, h.answer p f 0x24)
    | some d =>
      let src := 64 + Flit.src f
      if h.drl.queue.any fun x => x.1 == src then (true, h)
      else
        let (now, later) := (Flit.records f).partition fun r => h.mayTake d src r
        let h := h.modDrl fun x => { x with queue := x.queue ++ now.map fun r => (src, r) }
        if later.isEmpty then (false, h.answer p f 0)
        else (true, (h.modFab fun s => { s with inbox := s.inbox.replace (p, f) (p, Flit.withRecords f later) }).drlOver d later)

/-- DRL: the oldest flit that has something to do, or else the oldest. -/
def execDrl (s : State) : Host.Outcome State Fault Refusal :=
  done s (s.hw.endpoint 6 (fun p f h => h.serveDrl p f) (may := fun h f => h.drlMay f || !(h.fab.inbox.any fun x => Flit.type x.2 == 6 && h.drlMay x.2)))

/-! ## Answers to this module (R361, R362) -/

/-- The running batch of a channel is the one a transaction belongs to. -/
def Hw.txnBatch (h : Hw) (k core word : Nat) : Bool :=
  match h.batch k with
  | some b => b.core == core && b.word == word
  | none => false

/-- A transaction of a block is still open. -/
def Hw.blockOpen (h : Hw) (k core word i n : Nat) : Bool :=
  h.fab.txns.any fun t => match t.2 with
    | some (.get k' c w j m _ _) => k' == k && c == core && w == word && j == i && m == n
    | some (.put k' c w j m) => k' == k && c == core && w == word && j == i && m == n
    | _ => false

/-- A block whose transactions have all been answered and whose host writes have ended is complete. -/
def Hw.blockAnswered (h : Hw) (k core word i n : Nat) : Hw :=
  if h.blockOpen k core word i n ∨ h.ioPending (.chanWrite k i n) then h.chanOn k else (h.blockEnd k i n).chanOn k

/-- The local part of a GET written: `len` bytes of the block from `off`, with the flit's poison bits. -/
def Hw.getWrite (h : Hw) (k i n off len : Nat) (b : Batch) (f : Flit) : Moved :=
  let x := b.copy i
  let lo := 256 * n + off
  let ps := x.pieces lo len
  let got := fun (p : Piece) =>
    let o := p.at' - lo
    some (bitsOf f.payload.toNat (8 * o) (8 * p.n), bitAt (Flit.poison f) (o / 32) || bitAt (Flit.poison f) ((o + p.n - 1) / 32))
  ps.1.foldl (fun (m : Moved) p =>
    m.piece x { loc := fabLocator k b.core x.s false, req := reqArg 4 k 0, got := got,
                toHost := fun h a m v p => h.ioAccess a m true (natLE m v) (.chanWrite k i n) p } p) { h := h, fail := ps.2 }

/-- The halt code of a RESP status (R362); none for a reserved one. -/
def respCode (status : Nat) : Option Nat :=
  match status with
  | 0x00 => some 0 | 0x02 => some 0x02 | 0x06 => some 0x06 | 0x0A => some 0x0A | 0x0B => some 0x0B | 0x18 => some 0x18
  | 0x20 => some 0x11 | 0x21 => some 0x11 | 0x22 => some 0x11 | 0x23 => some 0x10 | 0x24 => some 0x11
  | _ => none

/-- A RESP for a transaction of a channel: `ok` where it ends well, else the channel stops. -/
def Hw.chanResp (h : Hw) (k core word code : Nat) (ok : Hw → Hw) : Hw :=
  if ¬ h.txnBatch k core word then h else if code = 0 then ok h else (h.dropChanIo k).chanStop k code

/-- A GET_DATA whose header fails a parity check: its channel stops with a command error (R73, R120). -/
def Hw.getLost (h : Hw) (f : Flit) : Hw :=
  match tget (fun _ => none) h.fab.txns (Flit.txid f) with
  | some (.get k core word _ _ _ _) => (h.dropTx (Flit.txid f)).chanResp k core word 0x18 id
  | _ => h

/-- GET_DATA: written locally, then acknowledged (R361). -/
def Hw.getData (h : Hw) (f : Flit) : Bool × Hw :=
  let t := Flit.txid f
  match tget (fun _ => none) h.fab.txns t with
  | some (.get k core word i n off len) =>
    if ¬ h.txnBatch k core word then (false, h.dropTx t)
    else match h.batch k with
      | none => (false, h.dropTx t)
      | some b =>
        let x := b.copy i
        let loc := chanLocator k b.core
        let lines := (x.pieces (256 * n + off) len).1.flatMap fun p => match (loc h x.d p.dst true).1 with
          | .dram _ _ d => [(d, d + p.n, true)]
          | _ => []
        match h.claimAll lines with
        | some h => (true, h)
        | none =>
          let m := (h.dropTx t).getWrite k i n off len b f
          match m.fail with
          | some e => (false, m.h.entryStop k i e)
          | none =>
            let h := m.h.modBatch k fun b => { b with poisoned := b.poisoned + m.poisoned.length }
            (false, h.blockAnswered k core word i n)
  | _ => (false, h)

/-- GET_DATA. -/
def execGetData (s : State) : Host.Outcome State Fault Refusal :=
  done s (s.hw.endpoint 2 (fun _ f h => h.getData f) fun _ f h => h.getLost f)

/-- RESP (R362). Records whose forward fails are held (R184). -/
def Hw.resp (h : Hw) (f : Flit) : Hw :=
  let t := Flit.txid f
  match respCode (Flit.addr f % 256), tget (fun _ => none) h.fab.txns t with
  | none, _ => h.evC 0x603 1 5 ((f.buf.map (·.1)).getD 8) (f.hdr.toNat % 2 ^ 64) (f.hdr.toNat / 2 ^ 64)
  | some _, none => h
  | some code, some x =>
    let h := h.dropTx t
    match x with
    | .get k core word _ _ _ _ => h.chanResp k core word code id
    | .put k core word i n => h.chanResp k core word code fun h => h.blockAnswered k core word i n
    | .sig k core word i => h.chanResp k core word code fun h =>
        ((h.modBatch k fun b => { b with sigs := b.sigs.set i 2 }).dmaShow k).chanOn k
    | .drl node recs =>
      if code = 0 then h
      else
        let old := tget (fun _ => []) h.drl.held node
        let h := h.modDrl fun d => { d with held := tset (fun _ => []) d.held node (old ++ recs) }
        (h.mark (DRL_STAT.UNREACH 0)).ev 0x303 1 6 0 node (old.length + recs.length)

/-- A RESP whose header fails a parity check: its requester sees a command error (R73, R120). -/
def Hw.respLost (h : Hw) (f : Flit) : Hw := h.resp (mkFlit 7 (Flit.dst f) (Flit.src f) 0x18 0 (Flit.txid f) (Flit.core f) 0 0 0 0)

/-- RESP. -/
def execResp (s : State) : Host.Outcome State Fault Refusal := done s (s.hw.endpoint 7 (fun _ f h => (false, h.resp f)) fun _ f h => h.respLost f)

/-! ## Collectives (R364 to R367) -/

/-- Hub SRAM address of window `n`. -/
def winAddr (n : Nat) : Nat := sramHub + 0x03F7F000 + 64 * n

abbrev CollWord := BitVec 512
def CollWord.axis (w : CollWord) : Nat := bitsOf w.toNat 2 2
def CollWord.both (w : CollWord) : Bool := bitAt w.toNat 4
def CollWord.etype (w : CollWord) : Nat := bitsOf w.toNat 5 3
def CollWord.len (w : CollWord) : Nat := bitsOf w.toNat 32 32
/-- Contribution and result areas as addresses of the endpoint: bit 39 set for a hub SRAM offset, bit 40 for a device address (`Hw.nodeOne`). -/
def CollWord.cbase (w : CollWord) : Nat := bitsOf w.toNat 64 40 + if bitAt w.toNat 8 then 2 ^ 39 else 2 ^ 40
def CollWord.rbase (w : CollWord) : Nat := bitsOf w.toNat 104 40 + if bitAt w.toNat 9 then 2 ^ 39 else 2 ^ 40

/-- A field that is reserved or inconsistent (R364); a hub SRAM area starts within hub SRAM. `s` is the ring size. -/
def CollWord.bad (w : CollWord) (s : Nat) : Bool :=
  !bitAt w.toNat 0 || CollWord.axis w == 3 || !(CollWord.etype w == 0 || CollWord.etype w == 1 || CollWord.etype w == 4) ||
    decide (bitsOf w.toNat 10 22 ≠ 0) || decide (bitsOf w.toNat 156 356 ≠ 0) || s == 0 || CollWord.len w == 0 ||
    decide (CollWord.len w % (256 * s * (1 + bnat (CollWord.both w))) ≠ 0) || decide (bitsOf w.toNat 150 6 > 47) ||
    (bitAt w.toNat 8 && decide (bitsOf w.toNat 64 40 ≥ 0x8000000)) || (bitAt w.toNat 9 && decide (bitsOf w.toNat 104 40 ≥ 0x8000000))

/-- The bytes of a vector's block, cut at word boundaries. -/
def blockWords (base blk : Nat) : List (Nat × Nat) := cutWords (base + 256 * blk) 256

def Hw.coll (h : Hw) (n : Nat) : Option Coll := tget (fun _ => none) h.fab.colls n
def Hw.setColl (h : Hw) (n : Nat) (c : Option Coll) : Hw := h.modFab fun f => { f with colls := tset (fun _ => none) f.colls n c }

/-- The window stops on this member with FAB_WINDOW_ERR: 0 permission, 1 field. -/
def Hw.collStop (h : Hw) (n why : Nat) : Hw :=
  let h := match h.coll n with
    | some c => h.setColl n (some { c with stopped := true })
    | none => h
  h.ev 0x607 2 0 0 n why

/-- The window completes: GO is cleared and its object receives 1. -/
def Hw.collEnd (h : Hw) (n : Nat) (w : CollWord) : Hw :=
  let h := ({ h with sram := Memory.write h.sram (winAddr n) (BitVec.ofNat 8 (h.sread (winAddr n) 1 - bitsOf (h.sread (winAddr n) 1) 1 1 * 2)) }).setColl n none
  let (x, h) := h.free
  h.signalArrive (bitsOf w.toNat 144 6) (bitsOf w.toNat 150 6) 1 ⟨6, x % 64, h.node, 0⟩

/-- A result block written here, and the window ended after its last. -/
def Hw.collResult (h : Hw) (n blk : Nat) (words : List (Word × Bool)) : Hw :=
  match h.coll n with
  | none => h
  | some c =>
    let w : CollWord := c.word
    let l := blockWords (CollWord.rbase w) blk
    match h.nodeFail l .ew .fw with
    | some (_, x) => (h.logFail x (reqArg 7 0 0)).collStop n 0
    | none =>
      let h := h.nodeWrite l .ew (words.flatMap fun x => (natLE 32 x.1.toNat).map fun b => (b, x.2)) (reqArg 7 0 0)
      let rest := c.results.filter (· != blk)
      let h := h.setColl n (some { c with results := rest })
      if rest.isEmpty then h.collEnd n w else h

/-- The contribution of this member to a block; none where a check fails. Which REQ of R504 its refusal carries is not said: 7, the module's own units,
here and for results (log 60). -/
def Hw.contribution (h : Hw) (w : CollWord) (blk : Nat) : Option (List (Word × Bool)) × Hw :=
  let l := blockWords (CollWord.cbase w) blk
  match h.nodeFail l .er .fr with
  | some (_, x) => (none, h.logFail x (reqArg 7 0 0))
  | none =>
    let (bs, h) := h.nodeRead l .er (reqArg 7 0 0)
    (some ((List.range 8).map fun j =>
      let here := (bs.drop (32 * j)).take 32
      (BitVec.ofNat 256 (leNat (here.map (·.1))), here.any (·.2))), h)

/-- One element of FP32 or BF16 added: widened, added, narrowed (R366). -/
def reduceElem (etype a b : Nat) : Nat :=
  if etype = 0 then (f32add (BitVec.ofNat 32 a) (BitVec.ofNat 32 b)).toNat
  else bf16.convert (ofF32 (f32add (toF32 (bf16.decode a)) (toF32 (bf16.decode b)))) .rne false

/-- A word of FP32 or BF16 elements added. -/
def reduceWord (etype : Nat) (a b : Word) : Word :=
  let n := if etype = 0 then 32 else 16
  BitVec.ofNat 256 (packCodes n ((List.range (256 / n)).map fun i => reduceElem etype (bitsOf a.toNat (n * i) n) (bitsOf b.toNat (n * i) n)))

/-- A word of scaled E4M3 added with its scales: the new scale and codes (R136, R366). -/
def reduceScaled (a b : Word) (sa sb : Nat) : Nat × Word :=
  let lane := fun (w : Word) (s i : Nat) => toF32 ((elemVal 6 (bitsOf w.toNat (8 * i) 8)).mul (scaleVal s))
  let sums := (List.range 32).map fun i => f32add (lane a sa i) (lane b sb i)
  let (s, codes) := convMx 6 sums (sums.map fun _ => .rne) false
  (s, BitVec.ofNat 256 (packCodes 8 codes))

/-- A block of a packet and a contribution added (R366). Of word 7 of a scaled block, `pad` are the bytes above the scales. -/
def reduceBlock (etype : Nat) (a b : List (Word × Bool)) (pad : Nat) : List (Word × Bool) :=
  let x := fun (l : List (Word × Bool)) j => l.getD j (0, false)
  if etype ≠ 4 then (List.range 8).map fun j => (reduceWord etype (x a j).1 (x b j).1, (x a j).2 || (x b j).2)
  else
    let scale := fun (l : List (Word × Bool)) j => bitsOf (x l 7).1.toNat (8 * j) 8
    let bad7 := (x a 7).2 || (x b 7).2
    let sums := (List.range 7).map fun j => reduceScaled (x a j).1 (x b j).1 (scale a j) (scale b j)
    ((List.range 7).map fun j => ((sums.getD j (0, 0)).2, (x a j).2 || (x b j).2 || bad7)) ++
      [(BitVec.ofNat 256 (packCodes 8 (sums.map (·.1)) + pad % 2 ^ 200 * 2 ^ 56), bad7)]

/-- A REDUCE flit out of this member: `src` is the member that started the chunk, `pass` 0 while it is summed and 1 while the sum is written. The block's
number stands in ADDR and the pass in CORE (the model's own layout). Where its direction has a bypass it takes the detour, to the member after the dead one
(R373, R374). -/
def Hw.reduceOut (h : Hw) (n : Nat) (w : CollWord) (minus : Bool) (src blk pass hops vcIn : Nat) (words : List (Word × Bool)) : Hw :=
  let a := CollWord.axis w
  let p := 2 * a + bnat minus
  let at' := nodeAxis h.node a
  let cross := if minus then at' == 0 else at' + 1 == h.ring a
  let to' := if minus then (at' + h.ring a - 1) % h.ring a else (at' + 1) % h.ring a
  let dst := h.node - at' * 64 ^ a + to' * 64 ^ a
  let v := (words.map fun x => x.1.toNat).foldr (fun x acc => x + 2 ^ 256 * acc) 0
  let poison := (List.range 8).foldl (fun m j => m + bnat (words.getD j (0, false)).2 * 2 ^ j) 0
  let f := mkFlit 8 dst src blk 0xFF 0 pass n (CollWord.etype w) (BitVec.ofNat 2048 v) poison
  let vc := 4 + bnat (cross || vcIn == 5)
  match h.bypass p with
  | none => h.toPort p vc (Flit.onward f vc hops 0)
  | some side =>
    let far := if minus then (to' + h.ring a - 1) % h.ring a else (to' + 1) % h.ring a
    let f := { f with hdr := BitVec.ofNat 128 (f.hdr.toNat - dst * 2 ^ 8 + (h.node - at' * 64 ^ a + far * 64 ^ a) * 2 ^ 8) }
    h.toPort side 8 (Flit.onward f 8 hops (side + p * 8))

/-- Blocks of the chunks that the member at ring position `m` starts, with their directions; `r` turns the choice, which R365 leaves open. -/
def collBlocks (w : CollWord) (s m r : Nat) : List (Nat × Bool) :=
  let per := CollWord.len w / (256 * s * (1 + bnat (CollWord.both w)))
  (List.range (1 + bnat (CollWord.both w))).flatMap fun d =>
    (List.range s).flatMap fun q => if (q + r) % s = m then (List.range per).map fun b => ((d * s + q) * per + b, d == 1) else []

/-- Lines of device memory that the host may hold and blocks of a window access here (R382): contributions read, results written. -/
def Hw.collLines (h : Hw) (w : CollWord) (reads writes : List Nat) : List (Nat × Nat × Bool) :=
  (reads.flatMap fun b => h.nodeLines (blockWords (CollWord.cbase w) b) .er false) ++ writes.flatMap fun b => h.nodeLines (blockWords (CollWord.rbase w) b) .ew true

/-- A window started (R365, R367): GO reads 1, its fields are latched, a ring of one copies, and this member's chunks leave. -/
def Hw.windowStart (h : Hw) (n : Nat) : Hw :=
  let h := if bitAt (h.sread (winAddr n) 1) 1 then h
    else { h with sram := Memory.write h.sram (winAddr n) (BitVec.ofNat 8 (h.sread (winAddr n) 1 + 2)) }
  let w : CollWord := BitVec.ofNat 512 (h.sread (winAddr n) 64)
  let s := h.ring (CollWord.axis w)
  let all := List.range (CollWord.len w / 256)
  let h := h.setColl n (some ⟨w, all, false⟩)
  if ¬ h.hasCoord ∨ CollWord.bad w s then h.collStop n 1
  else if s = 1 then
    all.foldl (fun h b => match h.coll n with
      | some ⟨_, _, false⟩ => (match h.contribution w b with
        | (none, h) => h.collStop n 0
        | (some l, h) => h.collResult n b l)
      | _ => h) h
  else if h.fuses.variantS then h.collStop n 1
  else
    let (r, h) := h.free
    (collBlocks w s (nodeAxis h.node (CollWord.axis w)) r).foldl (fun h x => match h.coll n with
      | some ⟨_, _, false⟩ => (match h.contribution w x.1 with
        | (none, h) => h.collStop n 0
        | (some l, h) => h.reduceOut n w x.2 h.node x.1 0 0 4 l)
      | _ => h) h

/-- GO written to a window: nothing while it reads 1 already and the window runs or stands; else the window starts, once the host holds none of the
lines that the start accesses (R382). -/
def Hw.windowGo (h : Hw) (n : Nat) : Hw :=
  let w : CollWord := BitVec.ofNat 512 (h.sread (winAddr n) 64)
  let s := h.ring (CollWord.axis w)
  let all := List.range (CollWord.len w / 256)
  if bitAt (h.sread (winAddr n) 1) 1 ∧ (h.coll n).isSome then h
  else if ¬ h.hasCoord ∨ CollWord.bad w s then h.windowStart n
  else match h.claimAll (h.collLines w all (if s = 1 then all else [])) with
    | some h => h
    | none => h.windowStart n

/-- WINDOW_GO. -/
def execWindowGo (n : Fin 16) (s : State) : Host.Outcome State Fault Refusal := done s (s.hw.whenLocked fun h => h.windowGo n)

/-- Words of a block, the first poisoned where a data parity check has failed (R120). -/
def spoilFirst (bad : Bool) (l : List (Word × Bool)) : List (Word × Bool) :=
  match l with
  | (w, m) :: t => (w, m || bad) :: t
  | [] => []

/-- A REDUCE flit at this member (R365). Its contribution, or its result in the second pass, crosses a hub: a bad header there stops the window as a
refused access does, and a bad data word is poisoned (R120). -/
def Hw.reduce (h : Hw) (p : Nat) (f : Flit) : Hw :=
  let n := Flit.obj f
  match h.coll n with
  | none => h
  | some c =>
    let w : CollWord := c.word
    let a := CollWord.axis w
    let s := h.ring a
    let minus := p % 2 == 0
    let blk := Flit.addr f
    let me := nodeAxis h.node a
    let from' := nodeAxis (Flit.src f) a
    let d := if minus then (from' + s - me) % s else (me + s - from') % s
    let hops := Flit.hops f + 1
    let inWords := (List.range 8).map fun j => (Flit.word f j, bitAt (Flit.poison f) j)
    let h := match f.par with
      | some y => h.xbarPar (h.addrPath ((if Flit.core f = 0 then CollWord.cbase w else CollWord.rbase w) + 256 * blk) (58 + p / 2)) y (Flit.core f ≠ 0)
      | none => h
    let spoilt := f.par.isSome
    if f.par.any (·.header) then h.collStop n 0
    else if Flit.core f = 0 then
      match h.contribution w blk with
      | (none, h) => h.collStop n 0
      | (some l, h) =>
        let (pad, h) := h.free
        let sum := reduceBlock (CollWord.etype w) inWords (spoilFirst spoilt l) pad
        if d + 1 = s then (h.reduceOut n w minus (Flit.src f) blk 1 hops (Flit.vc f) sum).collResult n blk sum
        else h.reduceOut n w minus (Flit.src f) blk 0 hops (Flit.vc f) sum
    else
      let h := if d + 2 = s then h else h.reduceOut n w minus (Flit.src f) blk 1 hops (Flit.vc f) inWords
      h.collResult n blk (spoilFirst spoilt inWords)

/-- A REDUCE flit may be taken: its window has started here and runs, and the module is awake (R365, R372). -/
def Hw.reduceMay (h : Hw) (f : Flit) : Bool :=
  !h.flag PWR_FW.FW && !h.kick && (match h.coll (Flit.obj f) with
    | some c => !c.stopped
    | none => false)

/-- The oldest REDUCE flit that may be taken: one that waits holds back those behind it on its port and channel. -/
def Hw.nextReduce (h : Hw) : List (Nat × Nat) → List (Nat × Flit) → Option (Nat × Flit)
  | _, [] => none
  | stuck, x :: t =>
    if Flit.type x.2 ≠ 8 ∨ stuck.contains (x.1, Flit.vc x.2) then h.nextReduce stuck t
    else if h.reduceMay x.2 then some x else h.nextReduce ((x.1, Flit.vc x.2) :: stuck) t

/-- REDUCE: taken once the host holds none of its lines (R382). -/
def execReduce (s : State) : Host.Outcome State Fault Refusal :=
  let h := s.hw
  match if h.pllOff then none else h.nextReduce [] h.fab.inbox with
  | none => done s h
  | some x =>
    let w : CollWord := ((h.coll (Flit.obj x.2)).map (·.word)).getD 0
    let blk := [Flit.addr x.2]
    match h.claimAll (h.collLines w (if Flit.core x.2 = 0 then blk else []) blk) with
    | some h => done s h
    | none => done s ((h.outbox x).reduce x.1 x.2)

end Sys2Proof.Machine
end

