-- ==== Sys2Proof/Machine/Debug.lean ====
section
/-!
DEFINITION. Register access (R7 to R9, R481, R488 to R497), the event queue's host side (R501, R504), package breaks (R489), and the test
connector (R491).
-/
namespace Sys2Proof.Machine

/-- The module after a command that another register write stands for. -/
def Hw.via (h : Hw) (e : State → Host.Outcome State Fault Refusal) : Hw :=
  match e { hw := h } with
  | .next s => s.hw
  | _ => h

/-! ## Package breaks (R489) -/

/-- Every running core breaks. -/
def Hw.breakAll (h : Hw) : Hw := foldUp 64 (fun c h => h.askBreak c) h

/-- Every broken core resumes, or runs one core cycle. -/
def Hw.unbreakAll (h : Hw) (step : Bool) : Hw := foldUp 64 (fun c h => h.unbreak c step) h

/-- BRK_ALL. -/
def execBrkAll (s : State) : Host.Outcome State Fault Refusal := done s s.hw.breakAll
/-- RESUME_ALL. -/
def execResumeAll (s : State) : Host.Outcome State Fault Refusal := done s (s.hw.unbreakAll false)
/-- STEP_ALL. -/
def execStepAll (s : State) : Host.Outcome State Fault Refusal := done s (s.hw.unbreakAll true)

/-! ## The event queue -/

/-- EVT_HEAD written: records consumed, unless HEAD would pass TAIL. -/
def Hw.evtHead (h : Hw) (v : Nat) : Hw :=
  if (v + 1024 - h.get EVT_HEAD.HEAD) % 1024 ≤ h.evtUsed then h.put EVT_HEAD.HEAD v else h

/-- EVT_HEAD_WRITE. -/
def execEvtHeadWrite (v : BitVec 10) (s : State) : Host.Outcome State Fault Refusal := done s (s.hw.evtHead v.toNat)

/-- EVENT_COALESCE_END: the `n`-th open window ends with one record (R504). -/
def execEventCoalesceEnd (n : Nat) (s : State) : Host.Outcome State Fault Refusal :=
  done s (match s.hw.evt.wins[n]? with
    | some e => Hw.evWrite { s.hw with evt := { s.hw.evt with wins := s.hw.evt.wins.eraseIdx n } } e
    | none => s.hw)

/-! ## Where a register answers (R496) -/

/-- A block that reads 0 and discards writes: its domain is off, or it is a FAB block of the S variant. -/
def Hw.blockOff (h : Hw) (off : Nat) : Bool :=
  if off < 0x80000 then false
  else if off < 0x100000 then h.fuses.variantS || !h.flag (PWR_DOM.ON (26 + (off - 0x80000) / 0x20000))
  else if off < 0x200000 then !h.flag (PWR_DOM.ON (24 + (off - 0x100000) / 0x80000))
  else if off < 0x1000000 then false
  else
    let t := (off - 0x1000000) / 0x200000
    if (off - 0x1000000) % 0x200000 < 0x100000 then !h.flag (PWR_DOM.ON (8 + t)) else !h.flag (PWR_DOM.ON t)

/-- A size and alignment that BAR0 accepts (R493). -/
def accessOk (off size : Nat) : Bool := (size == 4 || size == 8) && off % size == 0 && decide (off < 2 ^ 25)

/-! ## Register writes -/

/-- A write as it reaches a register: offset, size, and the data in place in the register's 64 bits. -/
structure RegW where
  off : Nat
  size : Nat
  v : Nat

/-- Whether the write covers the half that holds a field's lowest bit. -/
def RegW.has (w : RegW) (l : Loc) : Bool := inWrite w.off w.size l.lo

/-- A 1 written to a one-bit field. -/
def RegW.hit (w : RegW) (l : Loc) : Bool := w.has l && bitAt w.v l.lo

/-- The value written to a field. -/
def RegW.val (w : RegW) (l : Loc) : Nat := bitsOf w.v l.lo l.width

/-- One field written by its access type. -/
def Hw.wr (h : Hw) (w : RegW) (l : Loc) : Hw := h.fieldWrite w.off w.size w.v l

/-- Every field of the register written by its access type. -/
def Hw.wrAll (h : Hw) (w : RegW) : Hw := h.regFields w.off w.size w.v

/-- A field brought to the nearest bound. -/
def Hw.clamp (h : Hw) (l : Loc) (lo hi : Nat) : Hw := h.put l (max lo (min hi (h.get l)))

/-- GID and EVT blocks. -/
def Hw.wrGidEvt (h : Hw) (w : RegW) (o : Nat) : Hw :=
  if o = GID_COORD.off then (if w.size = 8 then h.coordWrite w.v else h)
  else if o = EVT_HEAD.off then (if w.has EVT_HEAD.HEAD then h.evtHead (w.val EVT_HEAD.HEAD) else h)
  else if o = EVT_STAT.off then (if w.hit EVT_STAT.OVF ∧ ¬ h.setNow.contains (EVT_STAT.OVF.off, EVT_STAT.OVF.lo) then
      h.puts [(EVT_STAT.OVF, 0), (EVT_STAT.LOST, 0)] else h)
  else h.wrAll w

/-- Command window `n` (R402). -/
def Hw.wrCmd (h : Hw) (w : RegW) (n : Nat) (o : Nat) : Hw :=
  if o = CMD_CTRL.off n then
    let h := (h.wr w (CMD_CTRL.IEN n)).wr w (CMD_CTRL.SQ_ERR n)
    if ¬ w.has (CMD_CTRL.EN n) then h
    else if w.hit (CMD_CTRL.EN n) then h.windowEnable n
    else if h.flag (CMD_CTRL.EN n) then h.windowDisable n else h
  else if o = CMD_SQ.off n then (if h.flag (CMD_CTRL.EN n) then h else (h.wrAll w).clamp (CMD_SQ.LOG2 n) 4 12)
  else if o = CMD_CQ.off n then (if h.flag (CMD_CTRL.EN n) then h else (h.wrAll w).clamp (CMD_CQ.LOG2 n) 4 12)
  else if o = CMD_SQ_TAIL.off n then (if w.has (CMD_SQ_TAIL.TAIL n) then h.doorbell n (w.val (CMD_SQ_TAIL.TAIL n)) else h)
  else if o = CMD_CQ_HEAD.off n then (if w.has (CMD_CQ_HEAD.HEAD n) then h.cqHead n (w.val (CMD_CQ_HEAD.HEAD n)) else h)
  else if o = CMD_RES.off n then (if h.lapWindow n ∧ h.get IMG_STAT.STATE ≠ 4 then h else (h.wrAll w).clamp (CMD_RES.RES_COUNT n) 0 64)
  else h.wrAll w

/-- BRK_ALL, RESUME_ALL and STEP_ALL of TEL_CTRL. -/
def Hw.wrBreaks (h : Hw) (w : RegW) : Hw :=
  let h := if w.hit TEL_CTRL.BRK_ALL then h.breakAll else h
  let h := if w.hit TEL_CTRL.RESUME_ALL then h.unbreakAll false else h
  if w.hit TEL_CTRL.STEP_ALL then h.unbreakAll true else h

/-- PWR, THM, TRU, TEL and MAP blocks. WARM written here brings a warm start that finds nothing wrong; one that finds something is the row
WARM_START (log 27). -/
def Hw.wrRoot (h : Hw) (w : RegW) (o : Nat) : Hw :=
  if o = PWR_CAP.off then (h.wrAll w).clamp PWR_CAP.CAP_W 300 650
  else if o = PWR_FW.off then
    let h := h.wr w PWR_FW.FW_REFUSED
    let h := if w.hit PWR_FW.FW_REQ then h.freewheel else h
    if w.hit PWR_FW.WAKE then h.wake else h
  else if o = RST_CTRL.off then
    let h := h.wrAll w
    let h := if w.hit RST_CTRL.CORE_RST then h.coreReset (h.get RST_CTRL.CORE) else h
    if w.hit RST_CTRL.WARM then h.warmStart 1 false StartInputs.good else h
  else if o = TRU_MBOX.off then
    let h := (h.wr w TRU_MBOX.OPCODE).wr w TRU_MBOX.LEN
    if w.hit TRU_MBOX.GO then h.truGo else h
  else if o = TEL_CTRL.off then (h.wrAll w).wrBreaks w
  else if o = MAP_CTRL.off then
    let h := h.wrAll w
    if w.hit MAP_CTRL.COMMIT then h.mapCommit else h
  else if o = MAP_RESERVE.off then
    let h := (h.wrAll w).clamp MAP_RESERVE.RSV_NEXT 1 32
    h.modFlash fun f => { f with rsv := h.get MAP_RESERVE.RSV_NEXT }
  else if (List.range 16).any (fun n => o == MAP_RGN_A.off n || o == MAP_RGN_B.off n || o == MAP_RGN_C.off n) then
    if h.flag MAP_CTRL.BUSY then h.mark MAP_CTRL.STG_LOST else h.wrAll w
  else h.wrAll w

/-- FAB block of port `p`. -/
def Hw.wrFab (h : Hw) (w : RegW) (p : Fin 8) (o : Nat) : Hw :=
  if o = FAB_PCTRL.off p then
    if ¬ w.has (FAB_PCTRL.ENABLE p) then h
    else
      let h := (h.wr w (FAB_PCTRL.FEC_MIN p)).clamp (FAB_PCTRL.FEC_MIN p) 0 2
      let h := h.via (execPortEnableWrite p (w.hit (FAB_PCTRL.ENABLE p)))
      if w.hit (FAB_PCTRL.RETRAIN p) then h.portTrain p true else h
  else if o = FAB_PEERS.off then
    let old := h.get FAB_PEERS.TANDEM
    let h := (h.wrAll w).clamp FAB_PEERS.STALL_MS 1 1000
    if h.loaded then h.put FAB_PEERS.TANDEM old else h
  else if o = FAB_ROUTE.off then (h.wrAll w).bypassQueued
  else h.wrAll w

/-- Memory blocks of tower `t`. -/
def Hw.wrTower (h : Hw) (w : RegW) (t : Fin 8) (o : Nat) : Hw :=
  if o = TMC_CTRL.off t then (if w.has (TMC_CTRL.TEST_OPEN t) then h.via (execTestOpenWrite t (w.hit (TMC_CTRL.TEST_OPEN t))) else h)
  else if o = TMC_HOST.off t then (h.wrAll w).clamp (TMC_HOST.HOST_TGT t) 20 500
  else if o = PROT_CTRL.off t then
    let h := (h.wrAll w).clamp (PROT_CTRL.SCRUB_HOURS t) 1 168
    if w.hit (PROT_CTRL.SCRUB_NOW t) then h.passEnd t else h
  else if o = FZ_CTRL.off t then (if w.hit (FZ_CTRL.FORCE t) then h.via (execFzForce t) else h)
  else if o = FZ_TRIM_SEL.off t then
    (((h.wrAll w).clamp (FZ_TRIM_SEL.LEVEL t) 0 5).clamp (FZ_TRIM_SEL.WIRE t) 0 271).clamp (FZ_TRIM_SEL.GEAR t) 0 4
  else h.wrAll w

/-- Block of core `c`. A member ignores break, step and resume (R489). -/
def Hw.wrCore (h : Hw) (w : RegW) (c : Fin 64) (o : Nat) : Hw :=
  if o = CORE_CTRL.off c then
    let checks := [(CORE_CTRL.LAT_CHECK c, h.get (CORE_CTRL.LAT_CHECK c)), (CORE_CTRL.ARRIVAL_CHECK c, h.get (CORE_CTRL.ARRIVAL_CHECK c))]
    let h := (h.wrAll w).puts (if h.flag (CORE_STAT.RUN c) then checks else [])
    let h := if w.hit (CORE_CTRL.RESUME c) then h.unbreak c false else h
    let h := if w.hit (CORE_CTRL.STEP c) then h.unbreak c true else h
    if w.hit (CORE_CTRL.HALT_REQ c) then h.askBreak c else h
  else if o = CORE_BRK.off c ∨ o = CORE_BRK_XCNT.off c ∨ o = CORE_BRK_ACNT.off c then (if h.leads c then h.wrAll w else h)
  else if o = SYNC_CTRL.off c then
    let old := [(SYNC_CTRL.WD_MS c, h.get (SYNC_CTRL.WD_MS c)), (SYNC_CTRL.WD_EN c, h.get (SYNC_CTRL.WD_EN c))]
    let h := (h.wrAll w).clamp (SYNC_CTRL.DL_PERIOD c) 1 1000
    if h.flag (CORE_STAT.RUN c) then h.puts old else h.clamp (SYNC_CTRL.WD_MS c) 1 4095
  else if h1 : SYNC_VAL.off c 0 ≤ o ∧ o < SYNC_VAL.off c 48 ∧ (o - SYNC_VAL.off c 0) % 16 = 0 then
    let n : Fin 48 := ⟨(o - SYNC_VAL.off c 0) / 16, by simp only [SYNC_VAL.off] at *; omega⟩
    if w.has (SYNC_VAL.VALUE c n) then h.via (execSyncValWrite c n (BitVec.ofNat 32 (w.val (SYNC_VAL.VALUE c n)))) else h
  else h.wrAll w

/-- A write that reaches its register. -/
def Hw.wrAt (h : Hw) (w : RegW) (o : Nat) : Hw :=
  if o < 0x20000 then h.wrGidEvt w o
  else if o < 0x30000 then h.wrCmd w ((o - 0x20000) / 0x1000) o
  else if o < 0x80000 then h.wrRoot w o
  else if h1 : o < 0x100000 then h.wrFab w ⟨(o - 0x80000) / 0x10000 % 8, by omega⟩ o
  else if o < 0x1000000 then h.wrAll w
  else
    let t : Fin 8 := ⟨(o - 0x1000000) / 0x200000 % 8, by omega⟩
    let r := (o - 0x1000000) % 0x200000
    if r < 0x100000 then h.wrTower w t o
    else if r < 0x180000 then h.wrCore w ⟨8 * t.val + (r - 0x100000) / 0x10000 % 8, by omega⟩ o
    else h

/-- The data of a write in place: a 4-byte write changes only its half (R493). -/
def regData (off size v : Nat) : Nat := if size = 8 then v else v % 2 ^ 32 * 2 ^ (32 * (off / 4 % 2))

/-- A register write of any path (R493, R494, R496). -/
def Hw.regWrite (h : Hw) (off size v : Nat) : Hw :=
  if ¬ accessOk off size ∨ h.blockOff off then h else h.wrAt ⟨off, size, regData off size v⟩ (off / 8 * 8)

/-- REGISTER_WRITE: a BAR0 write of the host, which needs release and the link (R455). -/
def execRegisterWrite (off : BitVec 25) (size : Nat) (value : BitVec 64) (s : State) : Host.Outcome State Fault Refusal :=
  done s (if s.hw.released && s.hw.host.link && accessOk off.toNat size then
    s.hw.atPll (pllBlock off.toNat) (.write off.toNat size value.toNat) fun h => h.regWrite off.toNat size value.toNat else s.hw)

/-! ## Register reads (R481, R494, R496) -/

/-- Fields that show what stands elsewhere. -/
def Hw.shownFields (h : Hw) (o : Nat) : List (Loc × Nat) :=
  if o = GID_ID.off then [(GID_ID.SUBSYS, h.pciId.subsystem), (GID_ID.VARIANT, if h.fuses.variantS then 2 else 1)]
  else if o = GID_CAP0.off then (if h.fuses.variantS then [(GID_CAP0.PORTS, 0)] else [])
  else if o = GID_COORD.off then
    if h.fuses.variantS then [(GID_COORD.SX, 1), (GID_COORD.SY, 1), (GID_COORD.SZ, 1), (GID_COORD.VALID, 1)] else []
  else if o = GID_NODE.off then (if h.fuses.variantS then [(GID_NODE.CVALID, 1), (GID_NODE.CSRC, 3)] else [])
  else
  if 0x20000 ≤ o ∧ o < 0x30000 then
    let w := (o - 0x20000) / 0x1000
    if o = CMD_CTRL.off w then [(CMD_CTRL.LAPWIN w, bnat (h.loaded && h.img.lapWin == some w))] else []
  else if 0x1000000 ≤ o ∧ o < 0x2000000 then
    let t := (o - 0x1000000) / 0x200000
    let r := (o - 0x1000000) % 0x200000
    let c := 8 * t + (r - 0x100000) / 0x10000
    if o = FZ_TRIM_DATA.off t then [(⟨o, 0, 64, .ro, 0⟩, h.trimData t)]
    else if r < 0x100000 ∨ r ≥ 0x180000 then []
    else if o = CORE_STAT.off c then [(CORE_STAT.RUNAHEAD c, (h.core c).outstanding)]
    else if o = CORE_QSTAT.off c then
      let n := fun q => ((h.core c).queue q).length
      [(CORE_QSTAT.IQ0 c, n 0), (CORE_QSTAT.IQ1 c, n 1), (CORE_QSTAT.IQ2 c, n 2), (CORE_QSTAT.IQ3 c, n 3), (CORE_QSTAT.OQ0 c, n 4),
        (CORE_QSTAT.OQ1 c, n 5), (CORE_QSTAT.GATE c, (h.core c).gateUsed)]
    else if SYNC_VAL.off c 0 ≤ o ∧ o < SYNC_VAL.off c 48 ∧ (o - SYNC_VAL.off c 0) % 16 = 0 then
      let n := (o - SYNC_VAL.off c 0) / 16
      [(SYNC_VAL.WAITERS c n, h.waiterMap c n)]
    else []
  else []

/-- The 64 bits a read of a register returns: of a counter register the live count or its latched copy. No read changes a register. -/
def Hw.regRead64 (h : Hw) (o : Nat) (latched : Bool) : Nat :=
  if h.blockOff o then 0
  else if latched ∧ isCounter o then (tget Bar0.resetWord h.lat o).toNat
  else ((h.puts (h.shownFields o)).word o).toNat

/-- A register read of `size` bytes. -/
def Hw.regRead (h : Hw) (off size : Nat) (latched : Bool) : Nat :=
  if ¬ accessOk off size then 0
  else if size = 8 then h.regRead64 off latched
  else h.regRead64 (off / 8 * 8) latched / 2 ^ (32 * (off / 4 % 2)) % 2 ^ 32

/-! ## The sideband and the test connector (R488) -/

/-- Registers that both paths read: the TEL, GID, PWR and THM blocks and every counter register of R482. -/
def debugReads (off : Nat) : Bool :=
  let o := off / 8 * 8
  decide (o < 0x10000) || (decide (0x30000 ≤ o) && decide (o < 0x50000)) || (decide (0x60000 ≤ o) && decide (o < 0x70000)) || isCounter o ||
    (decide (0x1000000 ≤ o) && decide (o < 0x2000000) &&
      (let r := (o - 0x1000000) % 0x200000
       decide (0x100000 ≤ r) && decide (r < 0x180000) && (r % 0x10000 == 0x58 || (decide (0x1000 ≤ r % 0x10000) && decide (r % 0x10000 < 0x2000)))))

/-- Core registers that both paths write at level 1 or 2: CORE_CTRL, CORE_BRK, CORE_BRK_XCNT, CORE_BRK_ACNT, SYNC_VAL. -/
def debugWrites (off : Nat) : Bool :=
  let o := off / 8 * 8
  decide (0x1000000 ≤ o) && decide (o < 0x2000000) &&
    (let r := (o - 0x1000000) % 0x200000
     let k := r % 0x10000
     decide (0x100000 ≤ r) && decide (r < 0x180000) &&
      (k == 0 || k == 0x30 || k == 0x38 || k == 0x40 || (decide (0xA00 ≤ k) && decide (k < 0xD00) && k % 16 == 0)))

/-- An answer: status 0 with data, or 1 where the access is refused. `path` is 4 for the sideband, 5 for the test connector. -/
def Hw.debugReply (h : Hw) (path status : Nat) (data : List Byte) : Hw := h.send (.reply path status data)

/-- A register access by either path, once its block answers. A refused one changes nothing but is answered. -/
def Hw.debugNow (h : Hw) (path : Nat) (a : DebugAccess) : Hw :=
  if ¬ accessOk a.addr a.size then h.debugReply path 1 []
  else if ¬ a.write then
    if debugReads a.addr then h.debugReply path 0 (natLE a.size (h.regRead a.addr a.size (a.space.val == 1))) else h.debugReply path 1 []
  else if h.get TRU_STAT.DEBUG = 0 then h.debugReply path 1 []
  else if a.addr / 8 * 8 = TEL_CTRL.off then
    (h.wrBreaks ⟨a.addr, a.size, regData a.addr a.size a.value.toNat⟩).debugReply path 0 []
  else if debugWrites a.addr then (h.regWrite a.addr a.size a.value.toNat).debugReply path 0 []
  else h.debugReply path 1 []

/-- A register access by either path; one of a block that the root PLL clocks waits for its lock (R496). -/
def Hw.debugReg (h : Hw) (path : Nat) (a : DebugAccess) : Hw :=
  if h.pllOff ∧ pllBlock a.addr then
    h.modMode fun m => { m with regHeld := m.regHeld ++ [.debug path a] }
  else h.debugNow path a

/-! ## Accesses that waited for the root PLL (R435, R495, R496) -/

/-- A register access that has waited. -/
def Hw.heldAccess (h : Hw) : RegAccess → Hw
  | .write off size v => h.regWrite off size v
  | .testOpen t v => h.via (execTestOpenWrite t v)
  | .fzForce t => h.via (execFzForce t)
  | .scrubNow t => h.via (execScrubNow t)
  | .portEnable p v => h.via (execPortEnableWrite p v)
  | .retrain p => h.via (execRetrain p)
  | .doorbell w tail => h.doorbell w tail
  | .debug path a => h.debugNow path a

/-- What has waited for the root PLL: register accesses, then flits, each in the order in which they came. -/
def Hw.pllServe (h : Hw) : Hw := (h.mode.regHeld.foldl Hw.heldAccess (h.modMode fun m => { m with regHeld := [] })).flitsIn

/-- GEAR_PLL_LOCK (R434, R435). -/
def execGearPllLock (s : State) : Host.Outcome State Fault Refusal :=
  match s.hw.mode.gear with
  | none => done s s.hw
  | some g => if g.locked then done s s.hw else done s (s.hw.pllLock g).pllServe

/-- Bytes of the array address space that `Hw.dram` numbers (R14). -/
def dramEnd : Nat := 512 * 6 * 196608 * 1120

/-- A byte of the arrays in a row of a valid snapshot slot or of a spill list (R324): the spec says what these hold (R335, R336, R174) and not in what
layout, so the state keeps their contents as values and the bytes are open (log 34). -/
def Hw.unlaid (h : Hw) (a : Nat) : Bool :=
  let row := a / 1120
  let off := (row % 196608 * 6 + row / 196608 % 6) * 1024
  let d := h.rsvLo + ((off - h.rsvSlice) / 4096 * 512 + row / 196608 / 6) * 4096 + off % 4096
  let root := h.get MAP_PTROOT.ROOT * 4096
  let lists := match h.img.conf.bind (·.disp) with
    | some x => 2 * alignUp (x.limit * 16) mib2
    | none => 0
  decide (h.rsvSlice ≤ off) && ((h.snap ((dpaEnd - 1 - d) / (576 * 2 ^ 20))).isSome || (decide (root ≤ d + lists) && decide (d < root)))

/-- Raw bytes of the arrays as the test connector reads them; open ones are free values. -/
def Hw.rawBytes (h : Hw) (a n : Nat) : List Byte :=
  (List.range n).map fun i =>
    if h.unlaid (a + i) then BitVec.ofNat 8 (Config.freeValue (h.fresh + i)) else Memory.read h.dram (a + i)

/-- SRAM and array access of the test connector at level 2 (R422): raw bytes, past checks and marks. -/
def Hw.debugMem (h : Hw) (a : DebugAccess) : Hw :=
  let sram := a.space.val == 2
  if h.get TRU_STAT.DEBUG ≠ 2 ∨ a.size = 0 ∨ a.size > 8 ∨ a.addr + a.size > (if sram then sramEnd else dramEnd) then h.debugReply 5 1 []
  else if a.write then
    if sram then Hw.debugReply { h with sram := Memory.writeLE h.sram a.addr a.size a.value.toNat } 5 0 []
    else Hw.debugReply { h with dram := Memory.writeLE h.dram a.addr a.size a.value.toNat } 5 0 []
  else if sram then h.debugReply 5 0 (natLE a.size (Memory.readLE h.sram a.addr a.size))
  else Hw.debugReply { h with fresh := h.fresh + a.size } 5 0 (h.rawBytes a.addr a.size)

/-- SIDEBAND_ACCESS: registers only. The sideband answers once step 2 of a start has ended (R455). -/
def execSidebandAccess (acc : DebugAccess) (s : State) : Host.Outcome State Fault Refusal :=
  let h := s.hw
  if h.mode.phase = .off ∨ h.mode.phase = .heldOff ∨ h.mode.phase = .locked then done s h
  else done s (if acc.space.val ≤ 1 then h.debugReg 4 acc else h.debugReply 4 1 [])

/-- TEST_CONNECTOR_ACCESS. -/
def execTestConnectorAccess (acc : DebugAccess) (s : State) : Host.Outcome State Fault Refusal :=
  let h := s.hw
  if h.mode.phase = .off ∨ h.mode.phase = .heldOff ∨ h.mode.phase = .locked then done s h
  else done s (if acc.space.val ≤ 1 then h.debugReg 5 acc else h.debugMem acc)

/-! ## Boundary scan (R491) -/

/-- The bypass register selected. -/
def Hw.jtagBypass (h : Hw) : Hw := { h with jtag := { h.jtag with ir := 0, bypass := false } }

/-- JTAG_BYPASS. -/
def execJtagBypass (s : State) : Host.Outcome State Fault Refusal := done s s.hw.jtagBypass

/-- JTAG_SAMPLE_PRELOAD: the pins are captured and shifted out, and the boundary register is loaded. -/
def execJtagSamplePreload (pins : BitVec 17) (load : BitVec 17) (s : State) : Host.Outcome State Fault Refusal :=
  done s (Hw.send { s.hw with jtag := { s.hw.jtag with ir := 1, bsr := load } } (.reply 6 0 (natLE 3 pins.toNat)))

/-- JTAG_EXTEST: the boundary register drives the pins; released, or once release has begun, the bypass register is selected. -/
def execJtagExtest (s : State) : Host.Outcome State Fault Refusal :=
  done s (if s.hw.mode.phase = .released then s.hw.jtagBypass else { s.hw with jtag := { s.hw.jtag with ir := 2, pins := s.hw.jtag.bsr } })

/-- JTAG_IDCODE: the module has no identification register, so the bypass register is selected. -/
def execJtagIdcode (s : State) : Host.Outcome State Fault Refusal := done s s.hw.jtagBypass

end Sys2Proof.Machine
end

