-- ==== Sys2Proof/Machine/Dispatch.lean ====
section
/-!
DEFINITION. One arm per command: its meaning.
-/
namespace Sys2Proof.Machine

def exec (i : Instr) (s : State) : Host.Outcome State Fault Refusal :=
  match i with
  | .registerWrite off size value => Sys2Proof.Machine.execRegisterWrite off size value s
  | .hostMemRead hpa tag mv => Sys2Proof.Machine.execHostMemRead hpa tag mv s
  | .hostMemWrite hpa tag mv data poison => Sys2Proof.Machine.execHostMemWrite hpa tag mv data poison s
  | .hdmDecoderCommit n dec => Sys2Proof.Machine.execHdmDecoderCommit n dec s
  | .birspReceive line dirty keep => Sys2Proof.Machine.execBirspReceive line dirty keep s
  | .hostIoCompletion id data ok => Sys2Proof.Machine.execHostIoCompletion id data ok s
  | .atsTranslationCompletion page result => Sys2Proof.Machine.execAtsTranslationCompletion page result s
  | .pageGroupResponse page ok => Sys2Proof.Machine.execPageGroupResponse page ok s
  | .atsInvalidate page pages => Sys2Proof.Machine.execAtsInvalidate page pages s
  | .ideCheckFailed stream => Sys2Proof.Machine.execIdeCheckFailed stream s
  | .ideKmKeyProg stream key => Sys2Proof.Machine.execIdeKmKeyProg stream key s
  | .spdmRequest viaDoe req => Sys2Proof.Machine.execSpdmRequest viaDoe req s
  | .sqDoorbell w tail => Sys2Proof.Machine.execSqDoorbell w tail s
  | .cqHeadWrite w head => Sys2Proof.Machine.execCqHeadWrite w head s
  | .windowEnable w => Sys2Proof.Machine.execWindowEnable w s
  | .windowDisable w => Sys2Proof.Machine.execWindowDisable w s
  | .completionWrite w => Sys2Proof.Machine.execCompletionWrite w s
  | .loadImage w => Sys2Proof.Machine.execLoadImage w s
  | .imageReadComplete img => Sys2Proof.Machine.execImageReadComplete img s
  | .imageUnload w => Sys2Proof.Machine.execImageUnload w s
  | .start w => Sys2Proof.Machine.execStart w s
  | .stop w => Sys2Proof.Machine.execStop w s
  | .stopForce w => Sys2Proof.Machine.execStopForce w s
  | .stopTimeout => Sys2Proof.Machine.execStopTimeout s
  | .snapshot w => Sys2Proof.Machine.execSnapshot w s
  | .preemptQuiesced => Sys2Proof.Machine.execPreemptQuiesced s
  | .restore w => Sys2Proof.Machine.execRestore w s
  | .patchParams w => Sys2Proof.Machine.execPatchParams w s
  | .fill w => Sys2Proof.Machine.execFill w s
  | .copy w => Sys2Proof.Machine.execCopy w s
  | .transpose w => Sys2Proof.Machine.execTranspose w s
  | .erase w => Sys2Proof.Machine.execErase w s
  | .scrubRegion w => Sys2Proof.Machine.execScrubRegion w s
  | .setGearCap w => Sys2Proof.Machine.execSetGearCap w s
  | .kickstandEnter w => Sys2Proof.Machine.execKickstandEnter w s
  | .kickstandLeave w selfTest => Sys2Proof.Machine.execKickstandLeave w selfTest s
  | .fabricEnumOrigin w => Sys2Proof.Machine.execFabricEnumOrigin w s
  | .fabricEnumClear w => Sys2Proof.Machine.execFabricEnumClear w s
  | .queryCapacity w => Sys2Proof.Machine.execQueryCapacity w s
  | .queryImageState w => Sys2Proof.Machine.execQueryImageState w s
  | .queryNode w => Sys2Proof.Machine.execQueryNode w s
  | .queryGear w => Sys2Proof.Machine.execQueryGear w s
  | .queryReserve w => Sys2Proof.Machine.execQueryReserve w s
  | .identify => Sys2Proof.Machine.execIdentify s
  | .getEventRecords log => Sys2Proof.Machine.execGetEventRecords log s
  | .clearEventRecords log handles => Sys2Proof.Machine.execClearEventRecords log handles s
  | .identifyMemoryDevice => Sys2Proof.Machine.execIdentifyMemoryDevice s
  | .getPoisonList => Sys2Proof.Machine.execGetPoisonList s
  | .injectPoison dpa => Sys2Proof.Machine.execInjectPoison dpa s
  | .clearPoison dpa data => Sys2Proof.Machine.execClearPoison dpa data s
  | .perstAssert inp => Sys2Proof.Machine.execPerstAssert inp s
  | .perstDeassert => Sys2Proof.Machine.execPerstDeassert s
  | .hotReset inp => Sys2Proof.Machine.execHotReset inp s
  | .linkDisable inp => Sys2Proof.Machine.execLinkDisable inp s
  | .linkDown => Sys2Proof.Machine.execLinkDown s
  | .functionLevelReset => Sys2Proof.Machine.execFunctionLevelReset s
  | .cxlReset memClr inp => Sys2Proof.Machine.execCxlReset memClr inp s
  | .d3hotEntry => Sys2Proof.Machine.execD3hotEntry s
  | .d0Entry => Sys2Proof.Machine.execD0Entry s
  | .mapCommit => Sys2Proof.Machine.execMapCommit s
  | .mapInstallDone => Sys2Proof.Machine.execMapInstallDone s
  | .mapStagingWrite n reg value => Sys2Proof.Machine.execMapStagingWrite n reg value s
  | .rsvNextWrite v => Sys2Proof.Machine.execRsvNextWrite v s
  | .seqRequestArrive a => Sys2Proof.Machine.execSeqRequestArrive a s
  | .seqCreditReturn col => Sys2Proof.Machine.execSeqCreditReturn col s
  | .slotTransfer col slot x => Sys2Proof.Machine.execSlotTransfer col slot x s
  | .readDataReturn col k flips shadow par flt => Sys2Proof.Machine.execReadDataReturn col k flips shadow par flt s
  | .outerDecodeDone col => Sys2Proof.Machine.execOuterDecodeDone col s
  | .pacedBurstEnd col => Sys2Proof.Machine.execPacedBurstEnd col s
  | .hostUrgent col id => Sys2Proof.Machine.execHostUrgent col id s
  | .requestAged col id => Sys2Proof.Machine.execRequestAged col id s
  | .mergeEntryAgeClose col word => Sys2Proof.Machine.execMergeEntryAgeClose col word s
  | .refreshDue col level => Sys2Proof.Machine.execRefreshDue col level s
  | .refreshIssue col level => Sys2Proof.Machine.execRefreshIssue col level s
  | .owedRefreshFlush col => Sys2Proof.Machine.execOwedRefreshFlush col s
  | .cmdAlert col level kind => Sys2Proof.Machine.execCmdAlert col level kind s
  | .testOpenWrite t v => Sys2Proof.Machine.execTestOpenWrite t v s
  | .feedZoneStart col burst => Sys2Proof.Machine.execFeedZoneStart col burst s
  | .feedZoneEnd col => Sys2Proof.Machine.execFeedZoneEnd col s
  | .verifyFeedZone col reads => Sys2Proof.Machine.execVerifyFeedZone col reads s
  | .fzForce t => Sys2Proof.Machine.execFzForce t s
  | .coreHoldEnd c => Sys2Proof.Machine.execCoreHoldEnd c s
  | .scrubRow col reads => Sys2Proof.Machine.execScrubRow col reads s
  | .scrubNow t => Sys2Proof.Machine.execScrubNow t s
  | .patchStoreWrite t => Sys2Proof.Machine.execPatchStoreWrite t s
  | .translationWalkDone c va => Sys2Proof.Machine.execTranslationWalkDone c va s
  | .execWordIssue c flt => Sys2Proof.Machine.execExecWordIssue c flt s
  | .execResultLand c => Sys2Proof.Machine.execExecResultLand c s
  | .legacyConditionalWord c => Sys2Proof.Machine.execLegacyConditionalWord c s
  | .haltReq c => Sys2Proof.Machine.execHaltReq c s
  | .resume c => Sys2Proof.Machine.execResume c s
  | .step c => Sys2Proof.Machine.execStep c s
  | .fetch c => Sys2Proof.Machine.execFetch c s
  | .drain c => Sys2Proof.Machine.execDrain c s
  | .dma c => Sys2Proof.Machine.execDma c s
  | .sync c => Sys2Proof.Machine.execSync c s
  | .accessLoop c => Sys2Proof.Machine.execAccessLoop c s
  | .accessStop c => Sys2Proof.Machine.execAccessStop c s
  | .accessStreamResume c => Sys2Proof.Machine.execAccessStreamResume c s
  | .tileGenerate c queue flt => Sys2Proof.Machine.execTileGenerate c queue flt s
  | .add c => Sys2Proof.Machine.execAdd c s
  | .sub c => Sys2Proof.Machine.execSub c s
  | .and c => Sys2Proof.Machine.execAnd c s
  | .or c => Sys2Proof.Machine.execOr c s
  | .xor c => Sys2Proof.Machine.execXor c s
  | .sll c => Sys2Proof.Machine.execSll c s
  | .srl c => Sys2Proof.Machine.execSrl c s
  | .sra c => Sys2Proof.Machine.execSra c s
  | .slt c => Sys2Proof.Machine.execSlt c s
  | .sltu c => Sys2Proof.Machine.execSltu c s
  | .mul c => Sys2Proof.Machine.execMul c s
  | .mulh c => Sys2Proof.Machine.execMulh c s
  | .divu c => Sys2Proof.Machine.execDivu c s
  | .remu c => Sys2Proof.Machine.execRemu c s
  | .fadd c => Sys2Proof.Machine.execFadd c s
  | .fsub c => Sys2Proof.Machine.execFsub c s
  | .fmul c => Sys2Proof.Machine.execFmul c s
  | .fdiv c => Sys2Proof.Machine.execFdiv c s
  | .fsqrt c => Sys2Proof.Machine.execFsqrt c s
  | .fmin c => Sys2Proof.Machine.execFmin c s
  | .fmax c => Sys2Proof.Machine.execFmax c s
  | .feq c => Sys2Proof.Machine.execFeq c s
  | .flt c => Sys2Proof.Machine.execFlt c s
  | .fle c => Sys2Proof.Machine.execFle c s
  | .fcvtws c => Sys2Proof.Machine.execFcvtws c s
  | .fcvtsw c => Sys2Proof.Machine.execFcvtsw c s
  | .addi c => Sys2Proof.Machine.execAddi c s
  | .andi c => Sys2Proof.Machine.execAndi c s
  | .ori c => Sys2Proof.Machine.execOri c s
  | .xori c => Sys2Proof.Machine.execXori c s
  | .lui c => Sys2Proof.Machine.execLui c s
  | .lw c => Sys2Proof.Machine.execLw c s
  | .sw c => Sys2Proof.Machine.execSw c s
  | .beq c => Sys2Proof.Machine.execBeq c s
  | .bne c => Sys2Proof.Machine.execBne c s
  | .blt c => Sys2Proof.Machine.execBlt c s
  | .bge c => Sys2Proof.Machine.execBge c s
  | .bltu c => Sys2Proof.Machine.execBltu c s
  | .bgeu c => Sys2Proof.Machine.execBgeu c s
  | .jal c => Sys2Proof.Machine.execJal c s
  | .jr c => Sys2Proof.Machine.execJr c s
  | .prd c => Sys2Proof.Machine.execPrd c s
  | .pwr c => Sys2Proof.Machine.execPwr c s
  | .sig c => Sys2Proof.Machine.execSig c s
  | .wait c => Sys2Proof.Machine.execWait c s
  | .launch c => Sys2Proof.Machine.execLaunch c s
  | .rearm c => Sys2Proof.Machine.execRearm c s
  | .cyc c => Sys2Proof.Machine.execCyc c s
  | .lap c => Sys2Proof.Machine.execLap c s
  | .stops c => Sys2Proof.Machine.execStops c s
  | .lapRelease => Sys2Proof.Machine.execLapRelease s
  | .signalArrive c obj amount src => Sys2Proof.Machine.execSignalArrive c obj amount src s
  | .waitRelease c obj => Sys2Proof.Machine.execWaitRelease c obj s
  | .deferredSignalSend c stream => Sys2Proof.Machine.execDeferredSignalSend c stream s
  | .syncValWrite c obj v => Sys2Proof.Machine.execSyncValWrite c obj v s
  | .barrierArrival c bar => Sys2Proof.Machine.execBarrierArrival c bar s
  | .barHeldSend bar => Sys2Proof.Machine.execBarHeldSend bar s
  | .watchdog c stream => Sys2Proof.Machine.execWatchdog c stream s
  | .creditDeadlock unit target => Sys2Proof.Machine.execCreditDeadlock unit target s
  | .coreReset c => Sys2Proof.Machine.execCoreReset c s
  | .dmaBatchAccept chan => Sys2Proof.Machine.execDmaBatchAccept chan s
  | .dmaBlockComplete chan entry b => Sys2Proof.Machine.execDmaBlockComplete chan entry b s
  | .drlRecordIntake => Sys2Proof.Machine.execDrlRecordIntake s
  | .drlForwardRetry node => Sys2Proof.Machine.execDrlForwardRetry node s
  | .drlConsumeSignal ent => Sys2Proof.Machine.execDrlConsumeSignal ent s
  | .drlRefillDone x => Sys2Proof.Machine.execDrlRefillDone x s
  | .flitReceive p flit crcOk => Sys2Proof.Machine.execFlitReceive p flit crcOk s
  | .getReq => Sys2Proof.Machine.execGetReq s
  | .getData => Sys2Proof.Machine.execGetData s
  | .put => Sys2Proof.Machine.execPut s
  | .signal => Sys2Proof.Machine.execSignal s
  | .atomicAdd => Sys2Proof.Machine.execAtomicAdd s
  | .drl => Sys2Proof.Machine.execDrl s
  | .resp => Sys2Proof.Machine.execResp s
  | .reduce => Sys2Proof.Machine.execReduce s
  | .windowGo n => Sys2Proof.Machine.execWindowGo n s
  | .barrier => Sys2Proof.Machine.execBarrier s
  | .enumToken => Sys2Proof.Machine.execEnumToken s
  | .ringSizeNotice => Sys2Proof.Machine.execRingSizeNotice s
  | .enumReport => Sys2Proof.Machine.execEnumReport s
  | .fmNotice => Sys2Proof.Machine.execFmNotice s
  | .routeUpdate => Sys2Proof.Machine.execRouteUpdate s
  | .linkHandshake p peer => Sys2Proof.Machine.execLinkHandshake p peer s
  | .linkTag p ok => Sys2Proof.Machine.execLinkTag p ok s
  | .tagGroupClose p => Sys2Proof.Machine.execTagGroupClose p s
  | .rekey p => Sys2Proof.Machine.execRekey p s
  | .laneLockLoss p lane => Sys2Proof.Machine.execLaneLockLoss p lane s
  | .fecErrorRate p lane => Sys2Proof.Machine.execFecErrorRate p lane s
  | .portTrainingDone p res => Sys2Proof.Machine.execPortTrainingDone p res s
  | .neighborSilent p => Sys2Proof.Machine.execNeighborSilent p s
  | .portRetryTimer p => Sys2Proof.Machine.execPortRetryTimer p s
  | .fabStall p vc => Sys2Proof.Machine.execFabStall p vc s
  | .enumTokenTimeout => Sys2Proof.Machine.execEnumTokenTimeout s
  | .enumSizeTimeout => Sys2Proof.Machine.execEnumSizeTimeout s
  | .coordWrite value => Sys2Proof.Machine.execCoordWrite value s
  | .portEnableWrite p v => Sys2Proof.Machine.execPortEnableWrite p v s
  | .retrain p => Sys2Proof.Machine.execRetrain p s
  | .cageModuleChange p inserted => Sys2Proof.Machine.execCageModuleChange p inserted s
  | .cageOvercurrent p => Sys2Proof.Machine.execCageOvercurrent p s
  | .coldStart inp => Sys2Proof.Machine.execColdStart inp s
  | .recoveryFwUpdate fw sigOk inp => Sys2Proof.Machine.execRecoveryFwUpdate fw sigOk inp s
  | .warmStart inp => Sys2Proof.Machine.execWarmStart inp s
  | .inputLoss cause => Sys2Proof.Machine.execInputLoss cause s
  | .powerOffHoldEnd present third inp => Sys2Proof.Machine.execPowerOffHoldEnd present third inp s
  | .domainOvercurrent dom current => Sys2Proof.Machine.execDomainOvercurrent dom current s
  | .powerSampleFast w => Sys2Proof.Machine.execPowerSampleFast w s
  | .powerSampleSlow w vin doms => Sys2Proof.Machine.execPowerSampleSlow w vin doms s
  | .capWrite v => Sys2Proof.Machine.execCapWrite v s
  | .gearChangeStart => Sys2Proof.Machine.execGearChangeStart s
  | .gearPllLock => Sys2Proof.Machine.execGearPllLock s
  | .gearChangeEnd => Sys2Proof.Machine.execGearChangeEnd s
  | .freewheelRequest => Sys2Proof.Machine.execFreewheelRequest s
  | .wake => Sys2Proof.Machine.execWake s
  | .sensorSlowRound samples => Sys2Proof.Machine.execSensorSlowRound samples s
  | .sensorFastRound samples => Sys2Proof.Machine.execSensorFastRound samples s
  | .fastRoundExit sensor => Sys2Proof.Machine.execFastRoundExit sensor s
  | .hotRefreshExit die => Sys2Proof.Machine.execHotRefreshExit die s
  | .thresholdRelease die thr => Sys2Proof.Machine.execThresholdRelease die thr s
  | .brakeDwell => Sys2Proof.Machine.execBrakeDwell s
  | .heavyDwell => Sys2Proof.Machine.execHeavyDwell s
  | .limThermRise => Sys2Proof.Machine.execLimThermRise s
  | .getCerts => Sys2Proof.Machine.execGetCerts s
  | .getReport => Sys2Proof.Machine.execGetReport s
  | .challenge => Sys2Proof.Machine.execChallenge s
  | .challengeExpiry => Sys2Proof.Machine.execChallengeExpiry s
  | .enroll rec chal sigNew => Sys2Proof.Machine.execEnroll rec chal sigNew s
  | .transfer rec chal sigNew sigOld => Sys2Proof.Machine.execTransfer rec chal sigNew sigOld s
  | .setOwner rec chal sigOld => Sys2Proof.Machine.execSetOwner rec chal sigOld s
  | .debugUnlock level chal sigOwner sigOlucen => Sys2Proof.Machine.execDebugUnlock level chal sigOwner sigOlucen s
  | .fwWrite off data => Sys2Proof.Machine.execFwWrite off data s
  | .fwActivate sigOk => Sys2Proof.Machine.execFwActivate sigOk s
  | .fwCommit => Sys2Proof.Machine.execFwCommit s
  | .pldmFwUpdate fw sigOk => Sys2Proof.Machine.execPldmFwUpdate fw sigOk s
  | .brkAll => Sys2Proof.Machine.execBrkAll s
  | .resumeAll => Sys2Proof.Machine.execResumeAll s
  | .stepAll => Sys2Proof.Machine.execStepAll s
  | .sidebandAccess acc => Sys2Proof.Machine.execSidebandAccess acc s
  | .evtHeadWrite v => Sys2Proof.Machine.execEvtHeadWrite v s
  | .eventCoalesceEnd n => Sys2Proof.Machine.execEventCoalesceEnd n s
  | .jtagBypass => Sys2Proof.Machine.execJtagBypass s
  | .jtagSamplePreload pins load => Sys2Proof.Machine.execJtagSamplePreload pins load s
  | .jtagExtest => Sys2Proof.Machine.execJtagExtest s
  | .jtagIdcode => Sys2Proof.Machine.execJtagIdcode s
  | .hostLinkUp => Sys2Proof.Machine.execHostLinkUp s
  | .hostCleanEviction hpa => Sys2Proof.Machine.execHostCleanEviction hpa s
  | .eraseEnd verified => Sys2Proof.Machine.execEraseEnd verified s
  | .testConnectorAccess acc => Sys2Proof.Machine.execTestConnectorAccess acc s

end Sys2Proof.Machine
end

