-- ==== Sys2Proof/Machine/Step.lean ====
section
/-!
DEFINITION. One step of the machine: the command at the front of the queue, or one housekeeping cycle where none waits.
-/
namespace Sys2Proof.Machine

/-- One step. On an empty queue one housekeeping cycle passes (R487); nothing else happens by itself (log 9). -/
def step (s : State) : Host.Outcome State Fault Refusal :=
  match s.pending with
  | [] => .next { s with hw := s.hw.hkTick }
  | c :: rest => exec c { s with pending := rest }

/-- The command that a word spells put in front of the queue; `s` where it spells none. -/
def State.withFetchWord (s : State) (nbits w : Nat) : State :=
  match Sys2Proof.decodeTableWord nbits w with
  | some c => { s with pending := c :: s.pending }
  | none => s

end Sys2Proof.Machine
end

