-- ==== Sys2Proof/Safety.lean ====
section
/-!
DEFINITION. What counts as a safe run, in the terms that claims use: every waiting command is one of the table's, and the memories are in
canonical form.
-/
namespace Sys2Proof.Machine

/-- Every waiting command is well formed. -/
def State.queueWf (s : State) : Prop := ∀ c ∈ s.pending, c.wf = true

/-- The step answers a next state: no fault, no refusal. -/
def State.goesOn (s : State) : Prop := ∃ t, step s = .next t

/-- The byte memories, the poison marks and the register table are in canonical form, so that equal contents are equal data. -/
def Hw.memWf (h : Hw) : Bool :=
  Memory.wf h.dram && Memory.wf h.sram && twf (fun _ => false) h.marks && twf Bar0.resetWord h.csr

/-- The command answers a next state in which the same commands wait and the module meets `P`. -/
def State.becomes (s : State) (i : Instr) (P : Hw → Prop) : Prop := ∃ t, exec i s = .next t ∧ t.pending = s.pending ∧ P t.hw

/-- The command answers a next state that is the present one. -/
def State.stays (s : State) (i : Instr) : Prop := exec i s = .next s

/-- Every register but those at `offs` reads as before. -/
def Hw.regsBut (a b : Hw) (offs : List Nat) : Prop := ∀ o, o ∉ offs → b.word o = a.word o

/-- The word at byte `o` of column `c` reads clean as `d`. -/
def Hw.holds (h : Hw) (c o : Nat) (d : Word) : Prop := h.readWord c (o / 32) 0 = (.clean, d)

/-- The front entry of window `w` is `e`, it has opcode `op` and is well formed, the window can start it, its turn among the ordered commands of all
windows has come (R387), the module is released and its PLL is locked. -/
def Hw.fronts (h : Hw) (w : Nat) (e : BitVec 512) (op : Nat) : Prop :=
  h.released = true ∧ h.pllOff = false ∧ (∃ x rest, (h.win w).sq = x :: rest ∧ x.entry = e ∧ x.refused = none ∧ h.inOrder w x = true) ∧ (h.win w).run = none ∧ (h.win w).done = [] ∧ sqOp e = op ∧ sqBad e = none

/-- The same outside kickstand. -/
def Hw.starts (h : Hw) (w : Nat) (e : BitVec 512) (op : Nat) : Prop := h.fronts w e op ∧ h.kick = false

/-- Window `w` runs the entry that stood at its front. -/
def Hw.runs (a b : Hw) (w : Nat) (e : BitVec 512) : Prop := b.win w = { a.win w with run := some e, sq := (a.win w).sq.drop 1 }

/-- Window `w` has the completion of entry `e` with this status and detail to write, and runs nothing. -/
def Hw.completed (a b : Hw) (w : Nat) (e : BitVec 512) (status detail : Nat) : Prop :=
  (b.win w).run = none ∧ (b.win w).sq = (a.win w).sq.drop 1 ∧
    ∃ lap stamp, (b.win w).done = [⟨sqCid e, status, detail, 0, lap, stamp⟩]

/-! ## The scalar processor -/

/-- The instruction word `w` stands at the scalar pc of core `c` and can issue: the core's clocks run, the processor runs, the word is legal and
lies in the scalar area, and no result is on its way to a register it reads. -/
def Hw.scalarReady (h : Hw) (c : Nat) (w : W32) : Bool :=
  h.clocked c && (h.core c).sst == .running && decide ((h.core c).spc + 4 ≤ h.scEnd c) && h.scWord c == w && scLegal w && !h.scStalls c w

/-- The module with one more scalar instruction of core `c` counted as run. -/
def Hw.scRan (h : Hw) (c : Nat) : Hw := h.modCore c fun s => { s with sub := s.sub + 1 }

/-- Nothing but cores changed, of them only core `c`, and of that only its scalar registers, its count of instructions run, and its scalar pc, which
is `pc`. -/
def Hw.scalarMoved (a b : Hw) (c pc : Nat) : Prop :=
  b = { a with cores := b.cores } ∧ (∀ k, k ≠ c → b.core k = a.core k) ∧
    b.core c = { a.core c with s := (b.core c).s, sub := (a.core c).sub + 1, spc := pc }

/-- An S-slot result has landed in scalar register `d` in this cycle: it stands against a scalar write (R225). -/
def Hw.sStands (h : Hw) (c d : Nat) : Prop := tget (fun _ => none) (h.core c).sLast d = some (h.get (CORE_CYCLE.CYCLE c), (h.core c).sub)

/-- The scalar registers are as before but for `d`, which holds `v` unless an S-slot result of this cycle stands in it. -/
def Hw.scalarWrote (a b : Hw) (c d : Nat) (v : W32) : Prop :=
  (¬ a.sStands c d → b.sreg c d = v) ∧ (a.sStands c d → b.sreg c d = a.sreg c d) ∧ ∀ i, i ≠ d → b.sreg c i = a.sreg c i

/-- No write of another priority has met parameter register `i` in this cycle (R226). -/
def Hw.pQuiet (h : Hw) (c i : Nat) : Prop :=
  let x := h.pLastOf c i
  x.2.2.1 = 0 ∨ x.2.2.1 = 4 ∨ x.1 ≠ h.get (CORE_CYCLE.CYCLE c) ∨ x.2.1 < (h.core c).sub

/-- A scalar instruction that writes `v` to register `d` and goes on to the next one. -/
def Hw.scalarResult (a b : Hw) (c d : Nat) (v : W32) : Prop := a.scalarMoved b c ((a.core c).spc + 4) ∧ a.scalarWrote b c d v

end Sys2Proof.Machine
end

