-- ==== Sys2Proof/Certificates/Slice0/Obligations.lean ====
section
/-!
DEFINITION. The statements for the provers, family by family. Each says in which states a command completes with its own effect, what that effect
is, and what it leaves as it was.
-/
open Sys2Proof Sys2Proof.Machine

/-! ## The queue, the clock, and reset -/

/-- O1. A step with a command in front of the queue is that command's meaning on the state with the queue's rest. -/
def Obligations.StepRunsFront : Prop :=
  ∀ (c : Instr) (rest : List Instr) (h : Hw), step { pending := c :: rest, hw := h } = exec c { pending := rest, hw := h }

/-- O2. Every queue of well-formed commands runs dry in as many steps as it holds commands: no well-formed command faults, is refused, or adds or
removes another. -/
def Obligations.QueueRunsDry : Prop :=
  ∀ s : State, s.queueWf → ∃ t, Host.Core.run Sys2Proof.core s.pending.length s = .next t ∧ t.pending = []

/-- O3. On an empty queue a powered module counts one housekeeping cycle in TEL_TIME, and changes nothing but registers. A request of the trust mailbox
that a completion of the cycle before left set (R9) starts, or ends with its status where no command takes it. This is the model's own clock (log 9). -/
def Obligations.IdleCountsTime : Prop :=
  ∀ h : Hw, h.mode.phase ≠ .off → h.mode.phase ≠ .heldOff → h.mode.phase ≠ .locked →
    ∃ t : State, step { pending := [], hw := h } = .next t ∧ t.pending = [] ∧ t.hw.time = (h.time + 1) % 2 ^ 64 ∧
      (h.flag TRU_MBOX.GO = false ∨ h.flag TRU_MBOX.BUSY = true → t.hw = { h with csr := t.hw.csr, setNow := [], evt := { h.evt with now := [] } }) ∧
      (h.flag TRU_MBOX.GO = true → h.flag TRU_MBOX.BUSY = false →
        t.hw = { h with csr := t.hw.csr, setNow := [], evt := { h.evt with now := [] }, trust := { h.trust with op := h.get TRU_MBOX.OPCODE } } ∧
        (h.truBad = none → t.hw.flag TRU_MBOX.BUSY = true ∧ t.hw.flag TRU_MBOX.GO = true) ∧
        ∀ status, h.truBad = some status →
          t.hw.flag TRU_MBOX.BUSY = false ∧ t.hw.flag TRU_MBOX.GO = false ∧ t.hw.get TRU_MBOX.STATUS = status ∧ t.hw.get TRU_MBOX.RLEN = 0)

/-- O4. At reset every register reads its Reset value, no command waits, and every memory is empty and in canonical form. -/
def Obligations.ResetState : Prop :=
  State.reset.pending = [] ∧ (∀ off, State.reset.hw.word off = Bar0.resetWord off) ∧ State.reset.hw.memWf = true ∧
    (∀ a, Memory.read State.reset.hw.dram a = 0) ∧ State.reset.hw.get GID_ID.VENDOR = 0x1D5C ∧ State.reset.hw.get PWR_GEAR.GEAR = 4 ∧
    State.reset.hw.get PWR_CAP.CAP_W = 650 ∧ State.reset.hw.get EVT_TAIL.PHASE = 1

/-! ## The scalar processor (R263 to R265) -/

/-- The register-form integer operations: command, FUNC, result. -/
def Sys2Proof.Machine.intOps (c : Fin 64) : List (Instr × Nat × (W32 → W32 → W32)) :=
  [(.add c, 0, fun a b => a + b), (.sub c, 1, fun a b => a - b), (.and c, 2, fun a b => a &&& b), (.or c, 3, fun a b => a ||| b),
   (.xor c, 4, fun a b => a ^^^ b), (.sll c, 5, fun a b => a <<< (b.toNat % 32)), (.srl c, 6, fun a b => a >>> (b.toNat % 32)),
   (.sra c, 7, fun a b => a.sshiftRight (b.toNat % 32)), (.slt c, 8, fun a b => if a.toInt < b.toInt then 1 else 0),
   (.sltu c, 9, fun a b => if a.toNat < b.toNat then 1 else 0), (.mul c, 10, fun a b => BitVec.ofNat 32 (a.toNat * b.toNat)),
   (.mulh c, 11, fun a b => BitVec.ofInt 32 (a.toInt * b.toInt / 2 ^ 32)),
   (.divu c, 12, fun a b => if b.toNat = 0 then 0xFFFFFFFF#32 else BitVec.ofNat 32 (a.toNat / b.toNat)),
   (.remu c, 13, fun a b => if b.toNat = 0 then a else BitVec.ofNat 32 (a.toNat % b.toNat))]

/-- The register-form FP32 operations: command, FUNC, result. -/
def Sys2Proof.Machine.fpOps (c : Fin 64) : List (Instr × Nat × (W32 → W32 → W32)) :=
  [(.fadd c, 0, f32add), (.fsub c, 1, f32sub), (.fmul c, 2, f32mul), (.fdiv c, 3, f32div), (.fsqrt c, 4, fun a _ => f32sqrt a), (.fmin c, 5, f32min),
   (.fmax c, 6, f32max), (.feq c, 7, fun a b => if f32eq a b then 1 else 0), (.flt c, 8, fun a b => if f32lt a b then 1 else 0),
   (.fle c, 9, fun a b => if f32le a b then 1 else 0), (.fcvtws c, 10, fun a _ => f32toInt a), (.fcvtsw c, 11, fun a _ => intToF32 a)]

/-- The immediate-form operations: command, opcode, result of A and IMM16. -/
def Sys2Proof.Machine.immOps (c : Fin 64) : List (Instr × Nat × (W32 → Nat → W32)) :=
  [(.addi c, 0x08, fun a i => a + BitVec.signExtend 32 (BitVec.ofNat 16 i)), (.andi c, 0x09, fun a i => a &&& BitVec.ofNat 32 i),
   (.ori c, 0x0A, fun a i => a ||| BitVec.ofNat 32 i), (.xori c, 0x0B, fun a i => a ^^^ BitVec.ofNat 32 i),
   (.lui c, 0x0C, fun _ i => BitVec.ofNat 32 (i * 65536))]

/-- O5. ADD to REMU, FADD to FCVTSW and ADDI to LUI: D receives the operation's result of A and B, or of A and IMM16, which ADDI sign-extends, the logical
operations zero-extend, and LUI shifts by 16, unless an S-slot result of this cycle stands in D; no other register, no memory and no other unit
changes. -/
def Obligations.ScalarResults : Prop :=
  ∀ (c : Fin 64) (s : State) (w : W32), s.hw.scalarReady c w = true →
    (scOp w = 1 → ∀ x ∈ intOps c, scFunc w = x.2.1 → s.becomes x.1 fun t =>
      s.hw.scalarResult t c (scD w) (x.2.2 (s.hw.sreg c (scA w)) (s.hw.sreg c (scB w)))) ∧
    (scOp w = 2 → ∀ x ∈ fpOps c, scFunc w = x.2.1 → s.becomes x.1 fun t =>
      s.hw.scalarResult t c (scD w) (x.2.2 (s.hw.sreg c (scA w)) (s.hw.sreg c (scB w)))) ∧
    ∀ x ∈ immOps c, scOp w = x.2.1 → s.becomes x.1 fun t => s.hw.scalarResult t c (scD w) (x.2.2 (s.hw.sreg c (scA w)) (scImm w))

/-- O6. LW and SW at an aligned address within scalar data memory: LW writes D, SW stores four bytes at A + IMM16 and no others, and
changes no register; what a store to the descriptor table replaces is kept for a latch of the same cycle (R188). An address that is not aligned, or lies
beyond 0xFFFF, halts the core with code 0x02. -/
def Obligations.ScalarLoadStore : Prop :=
  ∀ (c : Fin 64) (s : State) (w : W32) (x : Nat), s.hw.scalarReady c w = true →
    x = (s.hw.sreg c (scA w) + BitVec.signExtend 32 (BitVec.ofNat 16 (scImm w))).toNat →
    (x % 4 = 0 → x ≤ 0xFFFF →
      (scOp w = 0x10 → s.becomes (.lw c) fun t =>
        s.hw.scalarResult t c (scD w) (BitVec.ofNat 32 (Memory.readLE s.hw.sram (sramScalar c + x) 4))) ∧
      (scOp w = 0x11 → s.becomes (.sw c) fun t =>
        t = { s.hw with cores := t.cores, sram := t.sram } ∧ Memory.readLE t.sram (sramScalar c + x) 4 = (s.hw.sreg c (scD w)).toNat ∧
        (∀ a, a < sramScalar c + x ∨ sramScalar c + x + 4 ≤ a → Memory.read t.sram a = Memory.read s.hw.sram a) ∧ (∀ k, k ≠ c.val → t.core k = s.hw.core k) ∧
        t.core c = { s.hw.core c with sub := (s.hw.core c).sub + 1, spc := (s.hw.core c).spc + 4, sold := if x < 0xC000 then (s.hw.core c).sold
          else (some (s.hw.get (CORE_CYCLE.CYCLE c), (s.hw.core c).sub, x, BitVec.ofNat 32 (Memory.readLE s.hw.sram (sramScalar c + x) 4))) })) ∧
    (¬ (x % 4 = 0 ∧ x ≤ 0xFFFF) → scOp w = 0x10 ∨ scOp w = 0x11 →
      s.becomes (if scOp w = 0x10 then .lw c else .sw c) fun t =>
        t = (s.hw.halt c 0x02 { stream := 2, pc := (s.hw.core c).spc }).scRan c ∧ t.sram = s.hw.sram)

/-- The branches: command, opcode, condition on A and B. -/
def Sys2Proof.Machine.branchOps (c : Fin 64) : List (Instr × Nat × (W32 → W32 → Bool)) :=
  [(.beq c, 0x18, fun a b => a == b), (.bne c, 0x19, fun a b => a != b), (.blt c, 0x1A, fun a b => decide (a.toInt < b.toInt)),
   (.bge c, 0x1B, fun a b => decide (b.toInt ≤ a.toInt)), (.bltu c, 0x1C, fun a b => decide (a.toNat < b.toNat)),
   (.bgeu c, 0x1D, fun a b => decide (b.toNat ≤ a.toNat))]

/-- O7. BEQ to BGEU: not taken, the next instruction follows, and the target is not checked; taken, the target; no register changes. In a branch A stands
in bits 10:6 and B in bits 15:11. JAL writes the return offset and jumps by IMM16 words; JR jumps to the offset in A. A taken branch or a jump out of the
scalar area halts the core with code 0x02. -/
def Obligations.ScalarControl : Prop :=
  (∀ (c : Fin 64) (s : State) (w : W32), s.hw.scalarReady c w = true → ∀ x ∈ branchOps c, scOp w = x.2.1 →
    let pc := (s.hw.core c).spc
    let target : Int := pc + 4 * (BitVec.ofNat 16 (scImm w)).toInt
    let taken := x.2.2 (s.hw.sreg c (scD w)) (s.hw.sreg c (scA w))
    (taken = false → s.becomes x.1 fun t => s.hw.scalarMoved t c (pc + 4) ∧ ∀ i, t.sreg c i = s.hw.sreg c i) ∧
    (taken = true → 0 ≤ target → target < s.hw.scEnd c →
      s.becomes x.1 fun t => s.hw.scalarMoved t c target.toNat ∧ ∀ i, t.sreg c i = s.hw.sreg c i) ∧
    (taken = true → ¬ (0 ≤ target ∧ target < s.hw.scEnd c) →
      s.becomes x.1 fun t => t = (s.hw.halt c 0x02 { stream := 2, pc := pc }).scRan c)) ∧
  ∀ (c : Fin 64) (s : State) (w : W32), s.hw.scalarReady c w = true →
    let pc := (s.hw.core c).spc
    let rel : Int := pc + 4 * (BitVec.ofNat 16 (scImm w)).toInt
    let abs := (s.hw.sreg c (scA w)).toNat
    (scOp w = 0x1E → 0 ≤ rel → rel < s.hw.scEnd c →
      s.becomes (.jal c) fun t => s.hw.scalarMoved t c rel.toNat ∧ s.hw.scalarWrote t c (scD w) (BitVec.ofNat 32 (pc + 4))) ∧
    (scOp w = 0x1E → ¬ (0 ≤ rel ∧ rel < s.hw.scEnd c) → s.becomes (.jal c) fun t => t = (s.hw.halt c 0x02 { stream := 2, pc := pc }).scRan c) ∧
    (scOp w = 0x1F → abs < s.hw.scEnd c →
      s.becomes (.jr c) fun t => s.hw.scalarMoved t c abs ∧ ∀ i, t.sreg c i = s.hw.sreg c i) ∧
    (scOp w = 0x1F → s.hw.scEnd c ≤ abs → s.becomes (.jr c) fun t => t = (s.hw.halt c 0x02 { stream := 2, pc := pc }).scRan c)

/-- O8. PRD reads a parameter register, and CYC half of CORE_CYCLE, into D, unless an S-slot result of this cycle stands in it. PWR writes one parameter
register where no write of another priority has met it in this core cycle, and leaves it where one of higher priority has, with P_COLLIDE set. REARM
writes the low 48 bits of D:A to a persistent slot of every core of the group. -/
def Obligations.ScalarParameters : Prop :=
  ∀ (c : Fin 64) (s : State) (w : W32), s.hw.scalarReady c w = true →
    (scOp w = 0x20 → s.becomes (.prd c) fun t =>
      s.hw.scalarResult t c (scD w) (BitVec.ofNat 32 (s.hw.get (CORE_PARAM.VALUE c (scImm w))))) ∧
    (scOp w = 0x26 → s.becomes (.cyc c) fun t =>
      s.hw.scalarResult t c (scD w) (BitVec.ofNat 32 (s.hw.get (CORE_CYCLE.CYCLE c) / (if scImm w = 0 then 1 else 2 ^ 32)))) ∧
    (scOp w = 0x21 → s.hw.pQuiet c (scImm w) → s.becomes (.pwr c) fun t =>
        t = { s.hw with csr := t.csr, cores := t.cores } ∧ t.get (CORE_PARAM.VALUE c (scImm w)) = (s.hw.sreg c (scA w)).toNat ∧
        (∀ l : Loc, l.off ≠ CORE_PARAM.off c (scImm w) → t.get l = s.hw.get l) ∧ (∀ i, t.sreg c i = s.hw.sreg c i) ∧
        (t.core c).spc = (s.hw.core c).spc + 4) ∧
    (scOp w = 0x21 → ¬ s.hw.pQuiet c (scImm w) → (s.hw.pLastOf c (scImm w)).2.2.1 < 4 → s.becomes (.pwr c) fun t =>
      t.get (CORE_PARAM.VALUE c (scImm w)) = s.hw.get (CORE_PARAM.VALUE c (scImm w)) ∧ t.flag (CORE_STAT.P_COLLIDE c) = true ∧
        (∀ i, t.sreg c i = s.hw.sreg c i) ∧ (t.core c).spc = (s.hw.core c).spc + 4) ∧
    (scOp w = 0x25 → s.becomes (.rearm c) fun t =>
        (∀ m ∈ s.hw.members c,
          t.get (STR_PBASE.BASE m (scImm w)) = ((s.hw.sreg c (scA w)).toNat + 2 ^ 32 * (s.hw.sreg c (scD w)).toNat) % 2 ^ 48) ∧
        s.hw.regsBut t ((s.hw.members c).map fun m => STR_PBASE.off m (scImm w)) ∧
        (∀ i, t.sreg c i = s.hw.sreg c i) ∧ (t.core c).spc = (s.hw.core c).spc + 4)

/-- O9. LAUNCH starts the execute stream, or the access stream of every core of the group, at the offset in A. STOPS stops the scalar processor. SIG and
WAIT of kind 0 are the next instruction. SIG of an amount outside 1 to 256 halts the core with 0x02; SIG adds to, or subtracts from, an object of its
group, and takes a signal route as `routeSignal` says; one that cannot is the halt with its code. WAIT on a count that stands completes, a take subtracting
it, and WAIT on a barrier whose recorded generation has passed; otherwise the processor waits; a void object halts with 0x0B, an aborted one with 0x11, a
barrier without a recorded generation with 0x02. LAP waits for the other lap cores, the last one brings the boundary, and a second LAP of one lap halts with
0x02. -/
def Obligations.ScalarStreams : Prop :=
  ∀ (c : Fin 64) (s : State) (w : W32), s.hw.scalarReady c w = true →
    let pc := (s.hw.core c).spc
    let l := s.hw.leader c
    let idx := scImm w / 4
    let amt := (s.hw.sreg c (scA w)).toNat
    let val := s.hw.get (SYNC_VAL.VALUE l idx)
    let halts := fun (code : Nat) (t : Hw) => t = (s.hw.halt c code { stream := 2, pc := pc }).scRan c
    (scOp w = 0x24 → scImm w = 0 → s.becomes (.launch c) fun t =>
      (t.core c).xst = .running ∧ (t.core c).xpc = amt ∧ t.flag (CORE_STAT.RUN c) = true ∧ (t.core c).spc = pc + 4) ∧
    (scOp w = 0x24 → scImm w = 1 → s.becomes (.launch c) fun t => (t.core c).spc = pc + 4 ∧
      ∀ m ∈ s.hw.members c, (t.core m).ast = .running ∧ (t.core m).apc = amt ∧ t.flag (CORE_STAT.RUN m) = true) ∧
    (scOp w = 0x28 → s.becomes (.stops c) fun t => (t.core c).sst = .stopped ∧ t = { s.hw with csr := t.csr, cores := t.cores }) ∧
    (scOp w = 0x22 → scImm w % 4 = 0 → s.becomes (.sig c) fun t => s.hw.scalarMoved t c (pc + 4) ∧ ∀ i, t.sreg c i = s.hw.sreg c i) ∧
    (scOp w = 0x22 → scImm w % 4 ≠ 0 → amt = 0 ∨ 256 < amt → s.becomes (.sig c) (halts 0x02)) ∧
    (scOp w = 0x22 → scImm w % 4 ≠ 0 → 1 ≤ amt → amt ≤ 256 →
      (scImm w % 4 = 1 → s.hw.flag (SYNC_VAL.VOID l idx) = false → val + amt < 2 ^ 32 → s.becomes (.sig c) fun t =>
        t.get (SYNC_VAL.VALUE l idx) = val + amt ∧ t.get (SYNC_LAST.SRC l idx) = 3 ∧ t.get (SYNC_LAST.CORE l idx) = c ∧
        s.hw.regsBut t [SYNC_VAL.off l idx, SYNC_LAST.off l idx] ∧ (t.core c).spc = pc + 4) ∧
      (scImm w % 4 = 3 → s.hw.flag (SYNC_VAL.VOID l idx) = false → amt ≤ val → s.becomes (.sig c) fun t =>
        t.get (SYNC_VAL.VALUE l idx) = val - amt ∧ s.hw.regsBut t [SYNC_VAL.off l idx, SYNC_LAST.off l idx] ∧ (t.core c).spc = pc + 4) ∧
      (scImm w % 4 = 1 ∨ scImm w % 4 = 3 → s.hw.flag (SYNC_VAL.VOID l idx) = true → s.becomes (.sig c) (halts 0x0B)) ∧
      (scImm w % 4 = 1 → s.hw.flag (SYNC_VAL.VOID l idx) = false → 2 ^ 32 ≤ val + amt → s.becomes (.sig c) (halts 0x0A)) ∧
      (scImm w % 4 = 3 → s.hw.flag (SYNC_VAL.VOID l idx) = false → val < amt → s.becomes (.sig c) (halts 0x09)) ∧
      (scImm w % 4 = 2 →
        let r := s.hw.routeSignal (s.hw.route c idx) c 2 pc amt
        (r.1 = 0 → s.becomes (.sig c) fun t => t = (r.2.scNext c).scRan c) ∧
        (r.1 ≠ 0 → s.becomes (.sig c) fun t => t = (r.2.halt c r.1 { stream := 2, pc := (r.2.core c).spc }).scRan c))) ∧
    (scOp w = 0x23 → scImm w % 4 = 0 → s.becomes (.wait c) fun t => s.hw.scalarMoved t c (pc + 4) ∧ ∀ i, t.sreg c i = s.hw.sreg c i) ∧
    (scOp w = 0x23 → scImm w % 4 = 1 ∨ scImm w % 4 = 2 →
      let v := s.hw.get (SYNC_VAL.VALUE c idx)
      (s.hw.flag (SYNC_VAL.VOID c idx) = true → s.becomes (.wait c) (halts 0x0B)) ∧
      (s.hw.flag (SYNC_VAL.VOID c idx) = false → s.hw.flag (SYNC_VAL.ABORTED c idx) = true → s.becomes (.wait c) (halts 0x11)) ∧
      (s.hw.flag (SYNC_VAL.VOID c idx) = false → s.hw.flag (SYNC_VAL.ABORTED c idx) = false → s.hw.standing c idx = [] → (s.hw.core c).swait = none →
        (amt ≤ v → s.becomes (.wait c) fun t => (t.core c).sst = .running ∧ (t.core c).swait = none ∧ (t.core c).spc = (pc + 4) % 0x20000 ∧
          t.get (SYNC_VAL.VALUE c idx) = (if scImm w % 4 = 2 then v - amt else v)) ∧
        (v < amt → s.becomes (.wait c) fun t => (t.core c).sst = .waiting ∧ (t.core c).spc = pc ∧ t.get (SYNC_VAL.VALUE c idx) = v ∧
          (t.core c).swait = some ⟨scImm w % 4, idx, amt, s.hw.get (CORE_CYCLE.CYCLE c), false, false⟩))) ∧
    (scOp w = 0x23 → scImm w % 4 = 3 →
      (tget (fun _ => none) (s.hw.core c).gens idx = none → s.becomes (.wait c) (halts 0x02)) ∧
      ∀ g, tget (fun _ => none) (s.hw.core c).gens idx = some g →
        (barPassed (s.hw.get (BAR_STAT.GEN idx)) g = true → s.becomes (.wait c) fun t =>
          (t.core c).sst = .running ∧ (t.core c).swait = none ∧ (t.core c).spc = (pc + 4) % 0x20000) ∧
        (barPassed (s.hw.get (BAR_STAT.GEN idx)) g = false → s.becomes (.wait c) fun t => (t.core c).sst = .waiting ∧ (t.core c).spc = pc)) ∧
    (scOp w = 0x27 →
      let g := ((s.hw.trace c 6 0 0 pc).scNext c).modCore c fun y => { y with lapD := scD w, sst := .lapWait, lapDone := true, lapLate := s.hw.img.relWait }
      ((s.hw.core c).lapDone = true → s.becomes (.lap c) (halts 0x02)) ∧
      ((s.hw.core c).lapDone = false → (s.hw.modCore c fun y => { y with lapDone := true }).lapReady = false → s.becomes (.lap c) fun t =>
        (t.core c).sst = .lapWait ∧ (t.core c).lapD = scD w ∧ (t.core c).lapDone = true ∧ (t.core c).lapLate = s.hw.img.relWait ∧ (t.core c).spc = pc + 4) ∧
      ((s.hw.core c).lapDone = false → (s.hw.modCore c fun y => { y with lapDone := true }).lapReady = true → s.becomes (.lap c) fun t =>
        t = g.lapBoundary.scRan c))

/-! ## Column sequencers (R46 to R76) -/

/-- O10. A request of any class, with no line cached by the host and no parity check failing, that finds its level in use and an entry of its class or a
shared one free, and none of its kind waiting ahead, is queued under the next number: a read at the end of the read queue; any write but a narrow one in the
write queue; a narrow write at an idle column opens a merge entry. One that finds no entry, or a stopped sequencer, waits at its source. One to a failed
level, or with a header that fails a crossbar's check, ends with a command error. Returned credit lets the oldest waiting request that has room enter. -/
def Obligations.ColumnArrival : Prop :=
  ∀ (s : State) (r : ColReq), r.word < 37748736 → r.classed = true → s.hw.filt = {} →
    let k := s.hw.col r.col
    let room := hasRoom (if r.op.isWrite then k.wq else k.rq) r.cls
    let ahead := k.waiting.any fun x => x.cls == r.cls && x.op.isWrite == r.op.isWrite
    (k.failed.contains (wordLevel r.word) = false →
      (room = true → ahead = false → k.selfRef = false → s.hw.pllOff = false →
        (r.op = .read → s.becomes (.seqRequestArrive ⟨r, none⟩) fun t =>
          (∃ q : QReq, (t.col r.col).rq = k.rq ++ [q] ∧ q.r = r ∧ q.id = s.hw.ids ∧ q.t0 = s.hw.time) ∧ t.ids = s.hw.ids + 1 ∧
          (t.flag (TMC_COL_B.PBURST r.col) = (r.cls == .paced || s.hw.flag (TMC_COL_B.PBURST r.col))) ∧
          t.dram = s.hw.dram ∧ ∀ j, j ≠ r.col.val → t.col j = s.hw.col j) ∧
        (r.op.isWrite = true → r.op.narrow = false → (∀ q ∈ k.wq, q.id < s.hw.ids) → s.becomes (.seqRequestArrive ⟨r, none⟩) fun t =>
          (∃ q ∈ (t.col r.col).wq, q.r = r ∧ q.id = s.hw.ids) ∧ t.dram = s.hw.dram) ∧
        (∀ d m, r.op = .write d m false → m ≠ 0xFFFFFFFF#32 → k = {} → s.becomes (.seqRequestArrive ⟨r, none⟩) fun t =>
          (t.col r.col).wq = [] ∧ (t.col r.col).merge = [⟨s.hw.ids, r.word, d, m, r.cls, r.req, r.src, false, false⟩] ∧ t.dram = s.hw.dram)) ∧
      (room = false ∨ ahead = true ∨ k.selfRef = true ∨ s.hw.pllOff = true → s.becomes (.seqRequestArrive ⟨r, none⟩) fun t =>
        (t.col r.col).waiting = k.waiting ++ [r] ∧ t = { s.hw with cols := t.cols })) ∧
    (k.failed.contains (wordLevel r.word) = true → s.becomes (.seqRequestArrive ⟨r, none⟩) fun t => t = s.hw.refuse r) ∧
    (∀ x : XbarFault, x.header = true → 2 ≤ (xbarPath r.col r.src).length → s.becomes (.seqRequestArrive ⟨r, some x⟩) fun t =>
      t = (s.hw.xbarPar (xbarPath r.col r.src) x true).refuse r) ∧
    (k.waiting.find? (fun y => hasRoom (if y.op.isWrite then k.wq else k.rq) y.cls) = some r → k.selfRef = false → s.hw.pllOff = false → r.op = .read →
      r.portCore = none ∨ (∃ c, r.portCore = some c ∧ (s.hw.core c).port = []) → s.becomes (.seqCreditReturn r.col) fun t =>
        (t.col r.col).waiting = k.waiting.erase r ∧ ∃ q : QReq, (t.col r.col).rq = k.rq ++ [q] ∧ q.r = r ∧ q.id = s.hw.ids) ∧
    (k.waiting.find? (fun y => hasRoom (if y.op.isWrite then k.wq else k.rq) y.cls) = none ∨ k.selfRef = true ∨ s.hw.pllOff = true →
      s.stays (.seqCreditReturn r.col))

/-- A column with one queued read and nothing else. -/
def Sys2Proof.Machine.Col.lone (k : Col) (q : QReq) : Prop :=
  k.rq = [q] ∧ k.wq = [] ∧ k.merge = [] ∧ k.slow = [] ∧ k.failed = [] ∧ k.flushQ = [] ∧ k.selfRef = false

/-- A column with one queued whole-word write and nothing else. -/
def Sys2Proof.Machine.Col.loneWrite (k : Col) (q : QReq) : Prop :=
  k.rq = [] ∧ k.wq = [q] ∧ k.merge = [] ∧ k.slow = [] ∧ k.flight = [] ∧ k.failed = [] ∧ k.flushQ = [] ∧ k.selfRef = false

/-- O11. A slot that the mask does not reserve and no feed zone takes moves the one queued read, of any class that may be served, whose row is open and
whose bank is ready: the read leaves the queue, is in flight, and is counted; only the column, registers and the frame counter change. It moves the one
queued write likewise, and the word then reads as written; it moves nothing where no request is ready, and nothing at a stopped sequencer. The word of a host line that comes back clean completes the line,
which is answered with both halves. The oldest slow path that ends leaves the column; with none, nothing happens. -/
def Obligations.ColumnTransfers : Prop :=
  (∀ (c : Fin 512) (slot : Fin 64) (ready : List Nat) (flips : Wires) (shadow : BitVec 16) (s : State) (q : QReq), q.r.col = c →
    (q.r.cls = .paced → s.hw.mode.verify.contains c.val = false) → s.hw.rowHit c q.r.word = true → q.id ∈ ready → s.hw.get (TMC_COL_A.RSV_MASK c) = 0 →
    s.hw.pllOff = false → s.hw.flag (FZ_COL_A.ACTIVE c) = false →
    let count := if q.r.cls = .paced then TEL_COL_A.PACED c else TEL_COL_A.OTHER c
    ((s.hw.col c).lone q → q.r.op = .read → s.becomes (.slotTransfer c slot ⟨ready, flips, shadow⟩) fun t =>
      (t.col c).rq = [] ∧ (t.col c).flight = (s.hw.col c).flight ++ [q] ∧ t.get count = satAdd count.width (s.hw.get count) 1 ∧
      t = { s.hw with csr := t.csr, cols := t.cols, mode := { s.hw.mode with frame := t.mode.frame } } ∧ ∀ j, j ≠ c.val → t.col j = s.hw.col j) ∧
    (∀ d, (s.hw.col c).loneWrite q → q.r.op = .write d 0xFFFFFFFF#32 false → q.r.word < 37748736 → s.becomes (.slotTransfer c slot ⟨ready, flips, shadow⟩) fun t =>
      (t.col c).wq = [] ∧ t.readWord c q.r.word 0 = (.clean, d) ∧ t.get count = satAdd count.width (s.hw.get count) 1 ∧ ∀ j, j ≠ c.val → t.col j = s.hw.col j)) ∧
  (∀ (c : Fin 512) (slot : Fin 64) (x : SlotInput) (s : State),
    (x.ready = [] → (s.hw.col c).wq = [] → (s.hw.col c).selfRef = false → s.hw.pllOff = false → s.hw.flag (FZ_COL_A.ACTIVE c) = false →
      s.becomes (.slotTransfer c slot x) fun t => t = s.hw.slotNow c slot) ∧
    ((s.hw.col c).selfRef = true ∨ s.hw.pllOff = true → s.stays (.slotTransfer c slot x))) ∧
  (∀ (c : Fin 512) (shadow : BitVec 16) (s : State) (q : QReq) (tag : Nat) (lo d : Word), (s.hw.col c).flight = [q] → q.r.col = c →
    q.r.src = .host tag true → s.hw.lines = [⟨tag, some (lo, false), none⟩] → s.hw.readWord c q.r.word 0 = (.clean, d) →
    (∀ x ∈ (s.hw.col c).slow, x.word ≠ q.r.word) → s.becomes (.readDataReturn c 0 0 shadow none []) fun t =>
      t.out = .memData tag (d ++ lo) false :: s.hw.out ∧ t.lines = [] ∧ (t.col c).flight = [] ∧ t.dram = s.hw.dram) ∧
  (∀ (c : Fin 512) (s : State),
    (∀ x rest, (s.hw.col c).slow = x :: rest → x.id ∉ rest.map (·.id) → s.becomes (.outerDecodeDone c) fun t => (t.col c).slow = rest) ∧
    ((s.hw.col c).slow = [] → s.stays (.outerDecodeDone c)))

/-- O12. HOST_URGENT marks the host requests of its number in both queues. REQUEST_AGED promotes the request of its number, in either queue, and counts one;
where none of that number is left to promote nothing changes. MERGE_ENTRY_AGE_CLOSE closes the merge entries of its word. Each changes nothing else. -/
def Obligations.ColumnMarks : Prop :=
  ∀ (c : Fin 512) (s : State) (id word : Nat),
    let k := s.hw.col c
    let left := fun (t : Hw) => t = { s.hw with csr := t.csr, cols := t.cols } ∧ ∀ j, j ≠ c.val → t.col j = s.hw.col j
    (s.becomes (.hostUrgent c id) fun t => left t ∧ t.csr = s.hw.csr ∧
      t.col c = { k with rq := k.rq.map fun q => if q.id = id ∧ q.r.cls = .host then { q with urgent := true } else q,
                         wq := k.wq.map fun q => if q.id = id ∧ q.r.cls = .host then { q with urgent := true } else q }) ∧
    ((∃ q ∈ k.rq ++ k.wq, q.id = id ∧ q.aged = false) → s.becomes (.requestAged c id) fun t => left t ∧
      t.col c = { k with rq := k.rq.map fun q => if q.id = id then { q with aged := true } else q,
                         wq := k.wq.map fun q => if q.id = id then { q with aged := true } else q } ∧
      t.get (TEL_COL_B.AGED c) = satAdd 16 (s.hw.get (TEL_COL_B.AGED c)) 1 ∧ ∀ l : Loc, l.off ≠ TEL_COL_B.off c → t.get l = s.hw.get l) ∧
    ((∀ q ∈ k.rq ++ k.wq, q.id = id → q.aged = true) → s.stays (.requestAged c id)) ∧
    (s.becomes (.mergeEntryAgeClose c word) fun t => left t ∧ t.csr = s.hw.csr ∧
      t.col c = { k with merge := k.merge.map fun m => if m.word = word then { m with closed := true } else m })

/-- O13. A refresh that falls due moves its due time on. In self-refresh and on a failed level it does nothing else; in a PACED burst, or with the PLL
unlocked, it is owed, up to four; else the bank's row closes. An owed refresh that no request hinders is issued, its bank's row clean or closed; a flush
clears what its bank owes; the end of the burst clears every owed refresh. Each does nothing where it has nothing to do, or the sequencer's clock stands. -/
def Obligations.RefreshAccounting : Prop :=
  ∀ (c : Fin 512) (l : Fin 6) (s : State),
    let k := s.hw.col c
    let clean := ∀ r, k.openOf l = some r → r.dirty = false ∧ r.inl = 0
    let busy := (k.rq ++ k.wq).any fun q => wordLevel q.r.word == l.val
    let paced := (k.rq ++ k.wq).any fun q => q.r.cls == .paced
    (k.selfRef = true ∨ k.failed.contains l.val = true → s.becomes (.refreshDue c l) fun t => t = { s.hw with cols := t.cols } ∧
      t.col c = { k with refAt := listSet k.refAt l (k.refAt.getD l 0 + s.hw.refInterval c l) } ∧ ∀ j, j ≠ c.val → t.col j = s.hw.col j) ∧
    (k.selfRef = false → k.failed.contains l.val = false →
      (s.hw.flag (TMC_COL_B.PBURST c) = true ∨ s.hw.pllOff = true → s.becomes (.refreshDue c l) fun t =>
        t.owed c l = min 4 (s.hw.owed c l + 1) ∧ (∀ m : Fin 6, m ≠ l → t.owed c m = s.hw.owed c m) ∧ t.dram = s.hw.dram ∧
        (t.col c).refAt = listSet k.refAt l (k.refAt.getD l 0 + s.hw.refInterval c l)) ∧
      (s.hw.flag (TMC_COL_B.PBURST c) = false → s.hw.pllOff = false → s.becomes (.refreshDue c l) fun t => (t.col c).openOf l = none)) ∧
    (s.hw.colClock c = true →
      (s.hw.owed c l ≠ 0 → k.failed.contains l.val = false → k.flushQ.contains l.val = false → busy = false → clean →
        s.becomes (.refreshIssue c l) fun t => t.owed c l = s.hw.owed c l - 1 ∧ (∀ m : Fin 6, m ≠ l → t.owed c m = s.hw.owed c m) ∧ (t.col c).openOf l = none) ∧
      (s.hw.owed c l = 0 ∨ k.failed.contains l.val = true ∨ k.flushQ.contains l.val = true ∨ busy = true → s.stays (.refreshIssue c l)) ∧
      (∀ rest, k.flushQ = l.val :: rest → clean → s.becomes (.owedRefreshFlush c) fun t =>
        t.owed c l = 0 ∧ (∀ m : Fin 6, m ≠ l → t.owed c m = s.hw.owed c m) ∧ (t.col c).flushQ = rest ∧ (rest = [] → t.flag (TMC_COL_B.FLUSH c) = false)) ∧
      (k.flushQ = [] → s.stays (.owedRefreshFlush c)) ∧
      (paced = false → s.becomes (.pacedBurstEnd c) fun t =>
        t.flag (TMC_COL_B.PBURST c) = false ∧ t.get (TMC_COL_B.OWED c) = 0 ∧ (t.col c).flushQ = []) ∧
      (paced = true → s.stays (.pacedBurstEnd c))) ∧
    (s.hw.colClock c = false → s.stays (.refreshIssue c l) ∧ s.stays (.owedRefreshFlush c) ∧ s.stays (.pacedBurstEnd c))

/-- A feed zone may start at column `c` (R85, R89). -/
def Sys2Proof.Machine.Hw.zoneMay (h : Hw) (c : Nat) : Prop :=
  h.flag (FZ_COL_A.ACTIVE c) = false ∧ (h.col c).selfRef = false ∧ h.pllOff = false ∧ h.mode.verify.contains c = false ∧ h.mode.trained = true ∧
    h.flag (PWR_DOM.ON (8 + c / 64)) = true ∧ h.flag (PWR_DOM.ON (16 + c / 64)) = true

/-- O14. A feed zone that may start, without a pattern burst or with a pass kept, is ACTIVE and no longer due, and takes for decision the wire-levels whose
counters are full, of the kept pass where there is one, which it spends; one that may not start starts nothing. One that ends is not ACTIVE, has nothing
left to decide and is counted; where none is in progress nothing ends. FORCE makes a zone due on all 64 columns of the tower. A verification zone whose
words all read clean admits the column's PACED traffic again and owes no refresh; one that finds corrected words shows VERIFY_FAIL; a column that owes no
zone, or whose clock stands, stays. -/
def Obligations.FeedZones : Prop :=
  (∀ (c : Fin 512) (burst : List BurstRead) (s : State),
    (s.hw.zoneMay c → burst = [] ∨ s.hw.flag (FZ_COL_A.PASS_KEPT c) = true → s.becomes (.feedZoneStart c burst) fun t =>
      t.flag (FZ_COL_A.ACTIVE c) = true ∧ t.flag (FZ_COL_A.PASS_KEPT c) = false ∧ (t.col c).due = false ∧
      (t.col c).zone.cells = fullCells (if s.hw.flag (FZ_COL_A.PASS_KEPT c) then (s.hw.col c).kept else (s.hw.col c).samples) ∧
      t = { s.hw with csr := t.csr, cols := t.cols } ∧ ∀ j, j ≠ c.val → t.col j = s.hw.col j) ∧
    (¬ s.hw.zoneMay c → s.stays (.feedZoneStart c burst))) ∧
  (∀ (c : Fin 512) (s : State),
    (s.hw.flag (FZ_COL_A.ACTIVE c) = true → s.becomes (.feedZoneEnd c) fun t =>
      t.flag (FZ_COL_A.ACTIVE c) = false ∧ (t.col c).zone = {} ∧
      t.get (FZ_COL_B.ZONES c) = satAdd (FZ_COL_B.ZONES c).width (s.hw.get (FZ_COL_B.ZONES c)) 1 ∧ t.dram = s.hw.dram) ∧
    (s.hw.flag (FZ_COL_A.ACTIVE c) = false → s.stays (.feedZoneEnd c))) ∧
  (∀ (k : Fin 8) (s : State), s.hw.pllOff = false → s.becomes (.fzForce k) fun t =>
    (∀ j, j / 64 = k.val → t.col j = { s.hw.col j with due := true }) ∧ (∀ j, j / 64 ≠ k.val → t.col j = s.hw.col j) ∧ t = { s.hw with cols := t.cols }) ∧
  (∀ (c : Fin 512) (reads : List BurstRead) (s : State),
    let cls := fun (r : BurstRead) => (s.hw.readCal c r.level r.word r.flips).1
    (s.hw.mode.verify.contains c.val = true → s.hw.colClock c = true →
      ((∀ r ∈ reads, cls r = .clean) → s.becomes (.verifyFeedZone c reads) fun t =>
        t.mode.verify.contains c.val = false ∧ t.get (TMC_COL_B.OWED c) = 0) ∧
      ((∀ r ∈ reads, (∃ w, cls r = .corrected w) ∧ (s.hw.col c).failed.contains r.level.val = false) → reads ≠ [] → s.becomes (.verifyFeedZone c reads) fun t =>
        t.mode.verify.contains c.val = false ∧ t.flag (FZ_COL_A.VERIFY_FAIL c) = true ∧ t.get (FZ_COL_A.INTERVAL c) = 1)) ∧
    (s.hw.mode.verify.contains c.val = false ∨ s.hw.colClock c = false → s.stays (.verifyFeedZone c reads)))

/-- O15. A command alert records the error, unless one is already recorded, which then sets MORE, and its time: at a column with no request of the level;
at one whose queued host read it covers, which ends with poison for its half of the line; at one whose queued host write it covers, which the host sees as
an internal error. TEST_OPEN opens the order where no image runs, and is ignored where one does. -/
def Obligations.ColumnErrors : Prop :=
  (∀ (c : Fin 512) (l : Fin 6) (kind : Fin 6) (s : State),
    let k := s.hw.col c
    let logs := fun (t : Hw) => (t.col c).alerts = [(l.val, s.hw.time)] ∧
      (s.hw.flag (TMC_ERRLOG.VALID (c / 64)) = true → t.flag (TMC_ERRLOG.MORE (c / 64)) = true) ∧
      (s.hw.flag (TMC_ERRLOG.VALID (c / 64)) = false → t.flag (TMC_ERRLOG.VALID (c / 64)) = true ∧
        t.get (TMC_ERRLOG.COLUMN (c / 64)) = c % 64 ∧ t.get (TMC_ERRLOG.LEVEL (c / 64)) = l ∧ t.get (TMC_ERRLOG.KIND (c / 64)) = kind)
    k.openOf l = none → k.flight = [] → k.alerts = [] →
      (k.rq = [] → k.wq = [] → s.becomes (.cmdAlert c l kind) logs) ∧
      (∀ q tag half, k.rq = [q] → k.wq = [] → wordLevel q.r.word = l.val → kind.val = 1 → q.r.src = .host tag half → s.becomes (.cmdAlert c l kind) fun t =>
        logs t ∧ (t.col c).rq = [] ∧ t.lines = (s.hw.hostWord tag half 0 true).lines) ∧
      (∀ q tag half, k.rq = [] → k.wq = [q] → k.merge = [] → k.slow = [] → wordLevel q.r.word = l.val → kind.val = 2 → q.r.src = .hostWrite tag half →
        s.becomes (.cmdAlert c l kind) fun t => logs t ∧ (t.col c).wq = [] ∧ t.host.rasInternal = true)) ∧
  (∀ (k : Fin 8) (v : Bool) (s : State), s.hw.pllOff = false → s.hw.get IMG_STAT.STATE < 3 → s.becomes (.testOpenWrite k v) fun t =>
    t.flag (TMC_CTRL.TEST_OPEN k) = v ∧ t.flag (TMC_CTRL.OPEN k) = (v || s.hw.kick || !s.hw.released) ∧ t = { s.hw with csr := t.csr }) ∧
  (∀ (k : Fin 8) (v : Bool) (s : State), s.hw.pllOff = false → 3 ≤ s.hw.get IMG_STAT.STATE → s.stays (.testOpenWrite k v))

/-- O16. A calibration row that the patrol may have, and that reads clean under its outer code, moves the patrol on by one row and changes no memory; a row
of a failed level is passed over; with the patrol off, or a row that it may not have, nothing happens. SCRUB_NOW ends the pass at row 0 and does not count
it. PATCH_STORE_WRITE puts the tower's new patch entries into flash. -/
def Obligations.Patrol : Prop :=
  (∀ (c : Fin 512) (s : State), s.hw.flag (PROT_CTRL.SCRUB_EN (c / 64)) = true → s.hw.colClock c = true → (s.hw.col c).patrol + 1 < passRows →
    let n := (s.hw.col c).patrol
    let moves := fun (t : Hw) => (t.col c).patrol = n + 1 ∧ t = { s.hw with csr := t.csr, cols := t.cols } ∧
      t.get (PROT_SCRUBPOS.PASSES (c / 64)) = s.hw.get (PROT_SCRUBPOS.PASSES (c / 64))
    ((s.hw.col c).failed.contains (n % 6) = false → s.hw.scrubMay c (n % 6) (n / 6) = true → (s.hw.col c).rows = [] → 1179648 ≤ n →
      (∀ i, i < 32 → s.hw.readCal c (n % 6) i 0 = (.clean, s.hw.calWord c (n % 6) i)) → s.becomes (.scrubRow c []) moves) ∧
    ((s.hw.col c).failed.contains (n % 6) = true → ∀ l, s.becomes (.scrubRow c l) moves)) ∧
  (∀ (c : Fin 512) (l : List (Fin 32 × Wires × BitVec 16)) (s : State),
    let n := (s.hw.col c).patrol
    s.hw.flag (PROT_CTRL.SCRUB_EN (c / 64)) = false ∨ s.hw.colClock c = false ∨
      ((s.hw.col c).failed.contains (n % 6) = false ∧ s.hw.scrubMay c (n % 6) (n / 6) = false) → s.stays (.scrubRow c l)) ∧
  (∀ (k : Fin 8) (s : State), s.hw.pllOff = false → s.becomes (.scrubNow k) fun t =>
    t.get (PROT_SCRUBPOS.SEQ k) = 0 ∧ (∀ j, j / 64 = k.val → (t.col j).patrol = 0) ∧
    t.get (PROT_SCRUBPOS.PASSES k) = s.hw.get (PROT_SCRUBPOS.PASSES k) ∧ t.dram = s.hw.dram) ∧
  (∀ (k : Fin 8) (s : State), (∀ n ∈ (s.hw.tower k).unsaved, n < 16) → s.becomes (.patchStoreWrite k) fun t =>
    (t.tower k).unsaved = [] ∧ (∀ n ∈ (s.hw.tower k).unsaved, tget (fun _ => 0) t.flash.patches (16 * k + n) = s.hw.word (PROT_PATCH.off k n)) ∧
    t.csr = s.hw.csr ∧ t.dram = s.hw.dram)

/-! ## The host port (R376 to R385, R398 to R401) -/

/-- O17. An HDM decoder that meets R379 is committed at the end of the decoder below plus its skip; one that does not sets Error Not Committed; a
locked one stands. HOST_CLEAN_EVICTION takes its line from the filter, and no other. A BIRsp without data that keeps nothing takes its line from the
filter and ends the snoop; where the host has taken the line again meanwhile, its entry stays, and only the eviction ends. -/
def Obligations.HostCoherence : Prop :=
  (∀ (n : Fin 4) (d : HdmDecoder) (s : State), s.hw.hdmLocked n = false →
    s.becomes (.hdmDecoderCommit n d) fun t => t = { s.hw with host := t.host } ∧
      t.hdm n = (if s.hw.hdmOk n d then some ⟨d, s.hw.hdmBase n d.skip⟩ else none) ∧ (∀ m, m ≠ n.val → t.hdm m = s.hw.hdm m) ∧
      tget (fun _ => false) t.host.hdmErr n = !s.hw.hdmOk n d) ∧
  (∀ (n : Fin 4) (d : HdmDecoder) (s : State), s.hw.hdmLocked n = true → s.stays (.hdmDecoderCommit n d)) ∧
  (∀ (hpa : BitVec 52) (s : State) (d : Nat), hpa.toNat % 64 = 0 → s.hw.hostDpa hpa.toNat = some d →
    s.becomes (.hostCleanEviction hpa) fun t => t = { s.hw with filt := t.filt } ∧ t.filt.find (d / 64) = none ∧
      ∀ m, m ≠ d / 64 → t.filt.find m = s.hw.filt.find m) ∧
  (∀ (line : BitVec 40) (s : State) (inv : Bool), (s.hw.filt.snoops.find? fun x => x.line == line.toNat) = some ⟨line.toNat, inv, [], false⟩ →
    s.hw.hostHeld = [] → (∀ w, w < 16 → (s.hw.win w).due = [] ∧ s.hw.screen w = s.hw) → s.becomes (.birspReceive line none false) fun t =>
      t = { s.hw with filt := t.filt } ∧ t.filt.find line.toNat = none ∧ (∀ x ∈ t.filt.snoops, x.line ≠ line.toNat) ∧
      ∀ m, m ≠ line.toNat → t.filt.find m = s.hw.filt.find m) ∧
  (∀ (line : BitVec 40) (keep : Bool) (s : State) (inv : Bool),
    (s.hw.filt.snoops.find? fun x => x.line == line.toNat) = some ⟨line.toNat, inv, [], true⟩ → (s.hw.filt.evict.erase line.toNat).contains line.toNat = false →
    s.hw.hostHeld = [] → (∀ w, w < 16 → (s.hw.win w).due = [] ∧ s.hw.screen w = s.hw) → s.becomes (.birspReceive line none keep) fun t =>
      t = { s.hw with filt := t.filt } ∧ t.filt.sets = s.hw.filt.sets ∧ t.filt.evict = s.hw.filt.evict.erase line.toNat ∧
      ∀ x ∈ t.filt.snoops, x.line ≠ line.toNat)

/-- The module decodes host addresses: released, the link up and trained for CXL, and nothing that makes requests wait. -/
def Sys2Proof.Machine.Hw.hostOpen (h : Hw) : Prop := h.released = true ∧ h.host.link = true ∧ h.host.cxl = true ∧ h.hostWaits = false

/-- O18. A host line of a region that is not HDM-DB is read or written as two words of one column, at an idle column in order; a read or a write of
an address of no decoder does nothing; under a shut port a read is answered with poison and a write is discarded. -/
def Obligations.HostMemory : Prop :=
  ∀ (hpa : BitVec 52) (tag : BitVec 16) (mv : MetaValue) (data : Line) (p : Bool) (s : State), s.hw.hostOpen → hpa.toNat % 64 = 0 →
    (s.hw.hostDpa hpa.toNat = none → s.stays (.hostMemRead hpa tag ⟨mv, none⟩) ∧ s.stays (.hostMemWrite hpa tag ⟨mv, none⟩ data p)) ∧
    (∀ d, s.hw.hostDpa hpa.toNat = some d →
      (s.hw.hostShut = true → (s.becomes (.hostMemRead hpa tag ⟨mv, none⟩) fun t => t = s.hw.send (.memData tag.toNat 0 true)) ∧
        s.becomes (.hostMemWrite hpa tag ⟨mv, none⟩ data p) fun t => t = s.hw.send (.memCmp tag.toNat)) ∧
      (∀ c o, s.hw.hostShut = false → (∀ n, s.hw.regionOf d = some n → (s.hw.region n).coh = 0) → c < 512 → s.hw.col c = {} →
        (s.hw.mapAccess d .hr false = .at' c o → s.becomes (.hostMemRead hpa tag ⟨mv, none⟩) fun t =>
          ((t.col c).rq.map (·.r) = [hostReq c (o / 32) .read (.host tag.toNat false), hostReq c (o / 32 + 1) .read (.host tag.toNat true)]) ∧
          t.out = s.hw.out ∧ t.dram = s.hw.dram ∧ ∀ j, j ≠ c → t.col j = s.hw.col j) ∧
        (s.hw.mapAccess d .hw false = .at' c o → s.becomes (.hostMemWrite hpa tag ⟨mv, none⟩ data p) fun t =>
          ((t.col c).wq.map (·.r) =
            [hostReq c (o / 32) (.write (BitVec.ofNat 256 data.toNat) 0xFFFFFFFF#32 p) (.hostWrite tag.toNat false),
             hostReq c (o / 32 + 1) (.write (BitVec.ofNat 256 (data.toNat / 2 ^ 256)) 0xFFFFFFFF#32 p) (.hostWrite tag.toNat true)]) ∧
          t.out = .memCmp tag.toNat :: s.hw.out ∧ t.dram = s.hw.dram ∧ t.trust.erase.clean = false)))

/-- O19. A staging write outside an install stores every writable field and no other register; while BUSY it is lost. MAP_COMMIT reports the first
failing entry and changes no entry, or, where every entry passes and no tracked line changes, sets BUSY; MAP_INSTALL_DONE makes the staging entries
the installed ones but for their LOCK bits. RSV_NEXT is stored within 1 to 32, and in flash. -/
def Obligations.RegionMap : Prop :=
  (∀ (n : Fin 16) (reg : Fin 3) (v : BitVec 64) (s : State), s.hw.flag MAP_CTRL.BUSY = false →
    s.becomes (.mapStagingWrite n reg v) fun t => t = { s.hw with csr := t.csr } ∧
      (∀ l ∈ (if reg.val = 0 then MAP_RGN_A.fields n else if reg.val = 1 then MAP_RGN_B.fields n else MAP_RGN_C.fields n),
        t.get l = if l.acc = .rw then bitsOf v.toNat l.lo l.width else s.hw.get l) ∧
      s.hw.regsBut t [if reg.val = 0 then MAP_RGN_A.off n else if reg.val = 1 then MAP_RGN_B.off n else MAP_RGN_C.off n]) ∧
  (∀ (n : Fin 16) (reg : Fin 3) (v : BitVec 64) (s : State), s.hw.flag MAP_CTRL.BUSY = true →
    s.becomes (.mapStagingWrite n reg v) fun t => t.flag MAP_CTRL.STG_LOST = true ∧ ∀ m, t.staged m = s.hw.staged m) ∧
  (∀ s : State, s.hw.flag MAP_CTRL.BUSY = false →
    let res := mapErr ((List.range 16).map s.hw.staged) (fun n => (s.hw.region n).lock) s.hw.rsvLo s.hw.rsvSlice (s.hw.get IMG_STAT.STATE == 3)
    (∀ n k, res = some (n, k) → s.becomes .mapCommit fun t =>
      t = { s.hw with csr := t.csr } ∧ t.get MAP_CTRL.ERR = k ∧ t.get MAP_CTRL.ERR_ENTRY = n ∧ t.flag MAP_CTRL.BUSY = false ∧
      s.hw.regsBut t [MAP_CTRL.off]) ∧
    (res = none → s.hw.changedLines = [] → s.becomes .mapCommit fun t =>
      t = { s.hw with csr := t.csr } ∧ t.flag MAP_CTRL.BUSY = true ∧ t.get MAP_CTRL.ERR = 0 ∧ s.hw.regsBut t [MAP_CTRL.off])) ∧
  (∀ s : State, s.hw.flag MAP_CTRL.BUSY = true → s.hw.changedLines = [] → s.hw.hostHeld = [] → s.becomes .mapInstallDone fun t =>
    t = { s.hw with csr := t.csr } ∧ t.flag MAP_CTRL.BUSY = false ∧
    ∀ n, n < 16 → t.region n = { s.hw.staged n with lock := (s.hw.region n).lock } ∧ t.staged n = s.hw.staged n) ∧
  (∀ (v : BitVec 6) (s : State), s.becomes (.rsvNextWrite v) fun t =>
    t.flash.rsv = max 1 (min 32 v.toNat) ∧ t.get MAP_RESERVE.RSV_NEXT = max 1 (min 32 v.toNat) ∧ t.rsvLo = s.hw.rsvLo ∧
    s.hw.regsBut t [MAP_RESERVE.off])

/-- O20. A doorbell fetches the new entry in order; a tail outside the ring sets SQ_ERR. CQ_HEAD moves within the entries written, else SQ_ERR. EN sets
where both queues lie in usable regions, else BASE_ERR; a window that runs nothing closes at once, but not the lap window of a running image. A waiting completion is written at CQ_TAIL with the
current phase. -/
def Obligations.CommandWindows : Prop :=
  (∀ (w : Fin 16) (tail : BitVec 12) (s : State), s.hw.mode.regHeld = [] → s.hw.flag (CMD_CTRL.EN w) = true → (s.hw.win w).closing = false →
    let n := 2 ^ s.hw.get (CMD_SQ.LOG2 w)
    let head := s.hw.get (CMD_SQ_HEAD.HEAD w)
    let a := s.hw.get (CMD_SQ.BASE w) * 4096 + 64 * head
    (n ≤ tail.toNat → s.becomes (.sqDoorbell w tail) fun t => t.flag (CMD_CTRL.SQ_ERR w) = true ∧ t.win w = s.hw.win w) ∧
    (∀ c o lo hi, tail.toNat < n → head < n → tail.toNat = (head + 1) % n → 1 < n → s.hw.mapAccess a .hr false = .at' c o →
      s.hw.mapAccess (a + 32) .hr false = .at' c (o + 32) → s.hw.col c = {} → s.hw.holds c o lo → s.hw.holds c (o + 32) hi →
      sqBad (hi ++ lo) = none → s.hw.win w = {} → s.hw.filt = {} → s.becomes (.sqDoorbell w tail) fun t =>
        t.win w = { sq := [⟨hi ++ lo, s.hw.bells, none⟩] } ∧ t.get (CMD_SQ_HEAD.HEAD w) = tail.toNat ∧ t.get (CMD_SQ_TAIL.TAIL w) = tail.toNat ∧
        t.bells = s.hw.bells + 1 ∧ t.dram = s.hw.dram ∧ s.hw.regsBut t [CMD_SQ_HEAD.off w, CMD_SQ_TAIL.off w, FZ_COL_A.off c, FZ_COL_B.off c])) ∧
  (∀ (w : Fin 16) (head : BitVec 12) (s : State),
    let n := 2 ^ s.hw.get (CMD_CQ.LOG2 w)
    let old := s.hw.get (CMD_CQ_HEAD.HEAD w)
    let room := (s.hw.get (CMD_CQ_TAIL.TAIL w) + n - old) % n
    (head.toNat < n → (head.toNat + n - old) % n ≤ room → s.becomes (.cqHeadWrite w head) fun t =>
      t.get (CMD_CQ_HEAD.HEAD w) = head.toNat ∧ s.hw.regsBut t [CMD_CQ_HEAD.off w] ∧ t.dram = s.hw.dram) ∧
    (¬ (head.toNat < n ∧ (head.toNat + n - old) % n ≤ room) → s.becomes (.cqHeadWrite w head) fun t =>
      t.flag (CMD_CTRL.SQ_ERR w) = true ∧ t.get (CMD_CQ_HEAD.HEAD w) = old)) ∧
  (∀ (w : Fin 16) (s : State), s.hw.flag (CMD_CTRL.EN w) = false →
    let ok := s.hw.queueOk (s.hw.get (CMD_SQ.BASE w) * 4096) (64 * 2 ^ s.hw.get (CMD_SQ.LOG2 w)) &&
      s.hw.queueOk (s.hw.get (CMD_CQ.BASE w) * 4096) (32 * 2 ^ s.hw.get (CMD_CQ.LOG2 w))
    s.becomes (.windowEnable w) fun t => t = { s.hw with csr := t.csr } ∧ t.flag (CMD_CTRL.EN w) = ok ∧ t.flag (CMD_CTRL.BASE_ERR w) = !ok ∧
      s.hw.regsBut t [CMD_CTRL.off w]) ∧
  (∀ (w : Fin 16) (s : State), s.hw.lapWindow w = true → s.hw.get IMG_STAT.STATE ≠ 4 → s.stays (.windowDisable w)) ∧
  (∀ (w : Fin 16) (s : State), s.hw.lapWindow w = false ∨ s.hw.get IMG_STAT.STATE = 4 → (s.hw.win w).run = none → (s.hw.win w).done = [] →
    s.becomes (.windowDisable w) fun t => t.flag (CMD_CTRL.EN w) = false ∧ t.win w = {} ∧ t.get (CMD_SQ_HEAD.HEAD w) = 0 ∧
      t.get (CMD_CQ_TAIL.TAIL w) = 0 ∧ t.get (CMD_CQ_HEAD.HEAD w) = 0 ∧ t.get (CMD_CQ_TAIL.PHASE w) = 1 ∧ t.dram = s.hw.dram) ∧
  (∀ (w : Fin 16) (s : State) (x : Cpl) (rest : List Cpl) (c o : Nat),
    let n := 2 ^ s.hw.get (CMD_CQ.LOG2 w)
    let tail := s.hw.get (CMD_CQ_TAIL.TAIL w)
    let d := s.hw.get (CMD_CQ.BASE w) * 4096 + 32 * tail
    (s.hw.win w).done = x :: rest → (s.hw.win w).sq = [] → (s.hw.win w).closing = false → 2 ≤ s.hw.cqFree w → s.hw.get (CMD_CQ.LOG2 w) ≤ 12 →
    tail < n → s.hw.claim d (d + 32) true = none → s.hw.mapAccess d .hw false = .at' c o → c < 512 → s.hw.col c = {} →
    s.becomes (.completionWrite w) fun t => (t.win w).done = rest ∧ t.get (CMD_CQ_TAIL.TAIL w) = (tail + 1) % n ∧
      t.get (CMD_CQ_TAIL.PHASE w) = (if tail + 1 = n then 1 - s.hw.get (CMD_CQ_TAIL.PHASE w) else s.hw.get (CMD_CQ_TAIL.PHASE w)) ∧
      t.holds c o (x.word (s.hw.get (CMD_CQ_TAIL.PHASE w)) w (s.hw.get (CMD_SQ_HEAD.HEAD w))))

/-- A mailbox command of a released module answers `data` with code `code` and vector 17, whose message is sent, or whose pending bit stands where it is
masked, and does nothing else. -/
def Sys2Proof.Machine.State.answers (s : State) (i : Instr) (code : Nat) (data : List Byte) : Prop :=
  s.becomes i fun t => t = { s.hw with out := t.out, msix := t.msix } ∧
    (s.hw.msix.sends 17 = true → t.out = .msix 17 :: .mailbox code data :: s.hw.out ∧ t.msix = s.hw.msix) ∧
    (s.hw.msix.sends 17 = false → t.out = .mailbox code data :: s.hw.out ∧ 17 ∈ t.msix.pending)

/-- O21. The memory-device mailbox: IDENTIFY, the event logs, capacity, the poison list, and injecting and clearing poison, which leave both words of
the line poisoned, or clean with the supplied bytes. The code of a bad handle is the model's choice (log 23). -/
def Obligations.Mailbox : Prop :=
  ∀ s : State, s.hw.released = true → s.hw.pllOff = false →
    s.answers .identify 0 (natLE 2 (s.hw.get GID_ID.VENDOR) ++ natLE 2 (s.hw.get GID_ID.DEVICE)) ∧
    (∀ log : Fin 4, s.answers (.getEventRecords log) 0 ((s.hw.evt.logs.getD log []).flatMap Ev.bytes)) ∧
    (∀ (log : Fin 4) (e : Ev) (rest : List Ev), s.hw.evt.logs.getD log [] = e :: rest →
      (s.becomes (.clearEventRecords log [1]) fun t => t.evt.logs.getD log [] = rest ∧ (∀ k, k ≠ log.val → t.evt.logs.getD k [] = s.hw.evt.logs.getD k [])
        ∧ (s.hw.msix.sends 17 = true → t.out = .msix 17 :: .mailbox 0 [] :: s.hw.out) ∧
        (s.hw.msix.sends 17 = false → t.out = .mailbox 0 [] :: s.hw.out)) ∧
      (s.becomes (.clearEventRecords log ((List.range (rest.length + 1)).map (· + 1))) fun t => t.evt.logs.getD log [] = [])) ∧
    s.answers .identifyMemoryDevice 0 (natLE 8 (s.hw.rsvLo / 2 ^ 28) ++ natLE 8 (s.hw.rsvLo / 2 ^ 28) ++ natLE 8 0 ++ natLE 4 2048 ++ natLE 4 2048) ∧
    (s.hw.host.sources = [] → s.answers .getPoisonList 0 (s.hw.poison.flatMap (natLE 8) ++ natLE 1 (bnat s.hw.poisonOver))) ∧
    (∀ (dpa : BitVec 40) (data : Line), s.hw.mappedLine dpa.toNat = none →
      s.answers (.injectPoison dpa) 0x0F [] ∧ s.answers (.clearPoison dpa data) 0x0F []) ∧
    (∀ (dpa : BitVec 40) (data : Line) (c o : Nat), s.hw.mappedLine dpa.toNat = some (c, o) → c < 512 → o % 64 = 0 → s.hw.col c = {} →
      s.hw.claim dpa.toNat (dpa.toNat + 64) true = none →
      (s.hw.host.sources = [] → s.becomes (.injectPoison dpa) fun t => (t.readWord c (o / 32) 0).1 = .poison ∧ (t.readWord c (o / 32 + 1) 0).1 = .poison) ∧
      (s.becomes (.clearPoison dpa data) fun t =>
        t.holds c o (BitVec.ofNat 256 data.toNat) ∧ t.holds c (o + 32) (BitVec.ofNat 256 (data.toNat / 2 ^ 256))))

/-- O22. A stream whose IDE check fails is Insecure and AER reports it, by vector 0; IDE_KM keys make it Secure, but not on a module with ID_FAULT. SPDM answers
certificates, measurements 1 to 8, the report as index 0xFD, and a signed response over a nonce; an index of none, and any request under ID_FAULT, is an error. -/
def Obligations.LinkProtection : Prop :=
  ∀ s : State,
    (s.becomes (.ideCheckFailed .io) fun t => t.host.ideIo = false ∧ t = { (s.hw.send (.err 0 0)).raise 0 with host := { s.hw.host with ideIo := false, aerIde := true } }) ∧
    (s.becomes (.ideCheckFailed .mem) fun t => t.host.ideMem = false ∧ t = { (s.hw.send (.err 0 1)).raise 0 with host := { s.hw.host with ideMem := false, aerIde := true } }) ∧
    (∀ key, s.hw.flag TRU_STAT.ID_FAULT = false →
      (s.becomes (.ideKmKeyProg .io key) fun t => t = { s.hw with host := { s.hw.host with ideIo := true, keyIo := key } }) ∧
      (s.becomes (.ideKmKeyProg .mem key) fun t => t = { s.hw with host := { s.hw.host with ideMem := true, keyMem := key } })) ∧
    (∀ st key, s.hw.flag TRU_STAT.ID_FAULT = true → s.stays (.ideKmKeyProg st key)) ∧
    (∀ doe, s.hw.released = true → s.hw.host.link = true → s.hw.trust.ak ≠ 0 →
      (∀ req, s.hw.flag TRU_STAT.ID_FAULT = true → s.becomes (.spdmRequest doe req) fun t => t = s.hw.send (.reply 1 1 [])) ∧
      (s.hw.flag TRU_STAT.ID_FAULT = false →
        (s.becomes (.spdmRequest doe .getCertificate) fun t => t = s.hw.send (.reply 1 0 s.hw.certChain)) ∧
        (∀ i x, i < 8 → s.becomes (.spdmRequest doe (.getMeasurements (i + 1) x)) fun t => t = s.hw.send (.reply 1 0 (s.hw.measure i))) ∧
        (∀ i x, (i = 0 ∨ 8 < i) → i ≠ 0xFD → s.becomes (.spdmRequest doe (.getMeasurements i x)) fun t => t = s.hw.send (.reply 1 1 [])) ∧
        (∀ x, s.becomes (.spdmRequest doe (.getMeasurements 0xFD x)) fun t => t = s.hw.send (.reply 1 0 (s.hw.report (natLE 32 x.toNat)))) ∧
        (∀ x, s.becomes (.spdmRequest doe (.challenge x)) fun t => t = s.hw.send (.reply 1 0 (signField s.hw.trust.akSeed (natLE 32 x.toNat))))))

/-! ## Images (R317 to R339) -/

/-- O23. LOAD_IMAGE resets every core and begins the read in state LOADING; an image that passes every check makes the state READY under its
DIGEST, one whose header fails leaves EMPTY with status 0x21, and one without an owner, or whose signature block does not stand, with 0x22; an unload leaves EMPTY with LOCK and the page table root clear; START runs the
declared scalar processors from offset 0 at lap 0. -/
def Obligations.ImageLife : Prop :=
  (∀ (w : Fin 16) (e : BitVec 512) (s : State), s.hw.starts w e 1 → s.hw.loadRefused = false →
    (sqArg e 1 ≠ 0 → s.becomes (.loadImage w) fun t => s.hw.runs t w e ∧ t.img.load = some (w.val, sqArg e 0, sqArg e 1) ∧ t.img.conf = none ∧
      t.get IMG_STAT.STATE = 1 ∧ (∀ c, c < 64 → (t.core c).sst = .stopped ∧ (t.core c).xst = .stopped ∧ (t.core c).ast = .stopped) ∧
      t.dram = s.hw.dram ∧ t.sram = s.hw.sram) ∧
    (sqArg e 1 = 0 → s.becomes (.imageUnload w) fun t => s.hw.completed t w e 0 0 ∧ t.img.conf = none ∧ t.get IMG_STAT.STATE = 0 ∧
      t.flag MAP_PTROOT.PTV = false ∧ (∀ n, n < 16 → (t.region n).lock = false) ∧ t.dram = s.hw.dram ∧ t.sram = s.hw.sram)) ∧
  (∀ (g : Image) (s : State) (w a len : Nat) (e : BitVec 512), s.hw.img.load = some (w, a, len) → (s.hw.win w).run = some e →
    (∀ o, imgHeadErr g len = some o → s.becomes (.imageReadComplete g) fun t =>
      t.get IMG_STAT.STATE = 0 ∧ t.img.load = none ∧ t.img.conf = s.hw.img.conf ∧ (t.win w).run = none ∧ t.dram = s.hw.dram ∧
      ((t.win w).done.map fun x => (x.status, x.detail)) = ((s.hw.win w).done.map fun x => (x.status, x.detail)) ++ [(0x21, o % 2 ^ 32)]) ∧
    (imgHeadErr g len = none → alignUp len mib2 + (imgConf g len).snapSlots * 576 * 2 ^ 20 ≤ s.hw.rsvBytes - 64 * 2 ^ 20 → imgHeaderErr g = none →
      imgTableErr g len = none → s.hw.flag TRU_STAT.OWNED = true → imgSigned g len s.hw.trust.sel = true → s.hw.cols = [] → s.hw.filt = {} →
      s.hw.loadErr (imgConf g len) ((imgMap g).map fun x => Region.ofWords x.1 x.2.1 x.2.2) len ((imgSect g 2).getD ⟨2, 0, 0⟩).len = none →
      s.becomes (.imageReadComplete g) fun t =>
        t.get IMG_STAT.STATE = 2 ∧ t.img.load = none ∧ t.img.conf = some (imgConf g len) ∧ (t.win w).run = none ∧
        t.flag MAP_PTROOT.PTV = true ∧ t.get PWR_GEAR.LIM_IMG = (imgConf g len).topGear ∧
        ((t.win w).done.map fun x => (x.status, x.detail)) = ((s.hw.win w).done.map fun x => (x.status, x.detail)) ++ [(0, 0)]) ∧
    (imgHeadErr g len = none → alignUp len mib2 + (imgConf g len).snapSlots * 576 * 2 ^ 20 ≤ s.hw.rsvBytes - 64 * 2 ^ 20 → imgHeaderErr g = none →
      imgTableErr g len = none → s.hw.flag TRU_STAT.OWNED = false ∨ imgSigned g len s.hw.trust.sel = false → s.hw.cols = [] → s.becomes (.imageReadComplete g) fun t =>
        t.get IMG_STAT.STATE = 0 ∧ t.img.load = none ∧ t.img.conf = s.hw.img.conf ∧ (t.win w).run = none ∧
        ((t.win w).done.map fun x => (x.status, x.detail)) = ((s.hw.win w).done.map fun x => (x.status, x.detail)) ++ [(0x22, 0)])) ∧
  (∀ (w : Fin 16) (e : BitVec 512) (s : State) (k : ImgConf), s.hw.starts w e 2 → s.hw.get IMG_STAT.STATE = 2 → s.hw.img.conf = some k →
    max (s.hw.get PWR_GEAR.LIM_IMG) (s.hw.get PWR_GEAR.LIM_HOST) ≤ s.hw.get PWR_GEAR.GEAR → s.hw.flag PWR_GEAR.CHANGING = false →
    (k.cool = false ∨ s.hw.hotDie = none) →
    s.becomes (.start w) fun t => s.hw.completed t w e 0 0 ∧ t.get IMG_STAT.STATE = 3 ∧ t.get IMG_LAP.LAP = 0 ∧ t.img.lapWin = some w.val ∧
      t.img.patches = [] ∧ (∀ c ∈ launched k, (t.core c).sst = .running ∧ (t.core c).spc = 0) ∧ t.dram = s.hw.dram)

/-- O24. STOP waits for the lap boundary in RUNNING; with FORCE, and in FAULTED, it holds every core at once; in EMPTY to READY it completes with 0x20.
A timeout ends the stop or the snapshot that has waited longest with 0x34, and the image runs on; once traffic has ended a stop leaves READY
with every core reset, and a snapshot is valid and the image goes on, RUNNING or FAULTED. SNAPSHOT waits for the boundary; outside RUNNING, or with one
pending, it ends with 0x20, and for a slot that is not there with 0x02. RESTORE brings back the snapshot's SRAM, but the instruction memory that the image has loaded, and its lap number; without a READY image
it ends with 0x20, for a slot not valid with 0x02 and for another image's with 0x35. -/
def Obligations.ImageStops : Prop :=
  (∀ (w : Fin 16) (e : BitVec 512) (s : State), s.hw.starts w e 3 →
    (sqFlags e = 0 → s.hw.get IMG_STAT.STATE = 3 → s.becomes (.stop w) fun t => s.hw.runs t w e ∧ t.flag IMG_STAT.PEND_STOP = true ∧
      t.img.stopW = s.hw.img.stopW ++ [w.val] ∧ t.get IMG_STAT.STATE = 3 ∧ s.hw.regsBut t [IMG_STAT.off]) ∧
    (sqFlags e = 1 → s.hw.get IMG_STAT.STATE = 3 ∨ s.hw.get IMG_STAT.STATE = 4 → s.hw.img.snapW = none → s.becomes (.stopForce w) fun t =>
      s.hw.runs t w e ∧ t.get IMG_STAT.STATE = 5 ∧ t.img.quiesce = some (.stop (s.hw.img.stopW ++ [w.val]) 0) ∧
      (∀ c, c < 64 → (t.core c).imgHold = true ∧ t.flag (CORE_STAT.HOLD c) = true) ∧ t.dram = s.hw.dram) ∧
    (sqFlags e = 0 → s.hw.get IMG_STAT.STATE = 4 → s.hw.img.snapW = none → s.becomes (.stop w) fun t =>
      s.hw.runs t w e ∧ t.get IMG_STAT.STATE = 5 ∧ t.img.quiesce = some (.stop (s.hw.img.stopW ++ [w.val]) 0) ∧
      (∀ c, c < 64 → (t.core c).imgHold = true ∧ t.flag (CORE_STAT.HOLD c) = true) ∧ t.dram = s.hw.dram) ∧
    (sqFlags e < 2 → s.hw.get IMG_STAT.STATE < 3 → s.becomes (if sqFlags e = 0 then .stop w else .stopForce w) fun t =>
      s.hw.completed t w e 0x20 (s.hw.get IMG_STAT.STATE) ∧ t = { s.hw with wins := t.wins })) ∧
  (∀ (w : Nat) (rest : List Nat) (e : BitVec 512) (s : State), s.hw.img.stopW = w :: rest → s.hw.img.snapW = none ∨ s.hw.img.snapAt ≠ 0 → (s.hw.win w).run = some e →
    s.becomes .stopTimeout fun t => t.flag IMG_STAT.PEND_STOP = (s.hw.img.hotStop || !rest.isEmpty) ∧ t.img.stopW = rest ∧ t.get IMG_STAT.STATE = s.hw.get IMG_STAT.STATE ∧
      (t.win w).run = none ∧ ((t.win w).done.map (·.status)) = ((s.hw.win w).done.map (·.status)) ++ [0x34] ∧ t.cores = s.hw.cores) ∧
  (∀ (w slot : Nat) (after : Bool) (e : BitVec 512) (s : State), s.hw.img.stopW = [] ∨ s.hw.img.snapAt = 0 → s.hw.img.snapW = some (w, slot, after) →
    (s.hw.win w).run = some e →
    s.becomes .stopTimeout fun t => t.flag IMG_STAT.PEND_SNAP = false ∧ t.img.snapW = none ∧ t.get IMG_STAT.STATE = s.hw.get IMG_STAT.STATE ∧
      (t.win w).run = none ∧ ((t.win w).done.map (·.status)) = ((s.hw.win w).done.map (·.status)) ++ [0x34] ∧ t.cores = s.hw.cores) ∧
  (∀ s : State, s.hw.img.stopW = [] → s.hw.img.snapW = none → s.stays .stopTimeout) ∧
  (∀ (w : Nat) (e : BitVec 512) (s : State), s.hw.quiet = true → s.hw.img.quiesce = some (.stop [w] 0) → (s.hw.win w).run = some e →
    s.becomes .preemptQuiesced fun t => t.get IMG_STAT.STATE = 2 ∧ t.img.quiesce = none ∧ t.img.patches = [] ∧ (t.win w).run = none ∧
      ((t.win w).done.map (·.status)) = ((s.hw.win w).done.map (·.status)) ++ [0] ∧ (∀ c, c < 64 → (t.core c).sst = .stopped ∧ (t.core c).xst = .stopped) ∧
      t.sram = s.hw.sram ∧ t.dram = s.hw.dram) ∧
  (∀ (slot w : Nat) (e : BitVec 512) (s : State), s.hw.quiet = true → s.hw.img.quiesce = some (.snap slot (some w) false []) → slot < 8 →
    (s.hw.win w).run = some e →
    s.becomes .preemptQuiesced fun t => t.get IMG_STAT.STATE = (if (List.range 64).any (fun c => s.hw.flag (CORE_STAT.HALTED c)) then 4 else 3) ∧
      t.img.quiesce = none ∧ bitAt (t.get IMG_STAT.SNAP_VALID) slot = true ∧ (t.win w).run = none ∧
      ((t.win w).done.map (·.status)) = ((s.hw.win w).done.map (·.status)) ++ [0] ∧
      (t.snap slot).map (·.lap) = some (s.hw.get IMG_LAP.LAP) ∧ (t.snap slot).map (·.sram) = some (snapSram s.hw.sram) ∧ t.sram = s.hw.sram ∧ t.dram = s.hw.dram) ∧
  (∀ (w : Fin 16) (e : BitVec 512) (s : State), s.hw.starts w e 4 → s.hw.get IMG_STAT.STATE = 3 → s.hw.flag IMG_STAT.PEND_SNAP = false →
    sqArg e 0 < s.hw.get IMG_STAT.SNAP_SLOTS → s.becomes (.snapshot w) fun t => s.hw.runs t w e ∧ t.flag IMG_STAT.PEND_SNAP = true ∧
      t.img.snapW = some (w.val, sqArg e 0, sqFlags e % 2 == 1) ∧ t.get IMG_STAT.STATE = 3 ∧ s.hw.regsBut t [IMG_STAT.off]) ∧
  (∀ (w : Fin 16) (e : BitVec 512) (s : State), s.hw.starts w e 4 →
    let P := fun (status detail : Nat) (t : Hw) => s.hw.completed t w e status detail ∧ t = { s.hw with wins := t.wins }
    (s.hw.get IMG_STAT.STATE ≠ 3 ∨ s.hw.flag IMG_STAT.PEND_SNAP = true → s.becomes (.snapshot w) (P 0x20 (s.hw.get IMG_STAT.STATE))) ∧
    (s.hw.get IMG_STAT.STATE = 3 → s.hw.flag IMG_STAT.PEND_SNAP = false → s.hw.get IMG_STAT.SNAP_SLOTS ≤ sqArg e 0 → s.becomes (.snapshot w) (P 0x02 0))) ∧
  (∀ (w : Fin 16) (e : BitVec 512) (s : State), s.hw.starts w e 5 →
    let P := fun (status detail : Nat) (t : Hw) => s.hw.completed t w e status detail ∧ t = { s.hw with wins := t.wins }
    (s.hw.img.conf = none ∨ s.hw.get IMG_STAT.STATE ≠ 2 → s.becomes (.restore w) (P 0x20 (s.hw.get IMG_STAT.STATE))) ∧
    (s.hw.img.conf ≠ none → s.hw.get IMG_STAT.STATE = 2 →
      (s.hw.snap (sqArg e 0) = none → s.becomes (.restore w) (P 0x02 0)) ∧
      (∀ x, s.hw.snap (sqArg e 0) = some x → x.digest ≠ leNat s.hw.digestBytes → s.becomes (.restore w) (P 0x35 0)))) ∧
  (∀ (w : Fin 16) (e : BitVec 512) (s : State) (k : ImgConf) (x : Snap), s.hw.starts w e 5 → s.hw.img.conf = some k → s.hw.get IMG_STAT.STATE = 2 →
    s.hw.snap (sqArg e 0) = some x → x.digest = leNat s.hw.digestBytes → s.becomes (.restore w) fun t =>
      s.hw.completed t w e 0 0 ∧ t.get IMG_STAT.STATE = 3 ∧ t.get IMG_LAP.LAP = x.lap % 2 ^ 64 ∧ t.sram = restoreSram s.hw.sram x.sram ∧ t.img.lapWin = some w.val ∧ t.dram = s.hw.dram)

/-- A descriptor's or list's 64 bytes at `a` in device memory, as `v`, in words that read clean. -/
def Sys2Proof.Machine.Hw.lineAt (h : Hw) (a : Nat) (v : BitVec 512) : Prop :=
  ∃ c o lo hi, h.mapAccess a .hr false = .at' c o ∧ h.mapAccess (a + 32) .hr false = .at' c (o + 32) ∧ h.col c = {} ∧ h.holds c o lo ∧ h.holds c (o + 32) hi ∧ v = hi ++ lo

/-- O25. A patch list of one entry for a core that runs is queued whole; a core that does not run refuses it with 0x33. LAP_RELEASE gives the waiting
scalar processors the lap number and lets them run; one whose LAP has come since the boundary goes on waiting. -/
def Obligations.LapsAndPatches : Prop :=
  (∀ (w : Fin 16) (e : BitVec 512) (s : State) (v : BitVec 512) (p : Patch) (k : ImgConf), s.hw.starts w e 6 → s.hw.get IMG_STAT.STATE = 3 → s.hw.filt = {} →
    sqArg e 0 % 32 = 0 → sqArg e 1 = 1 → s.hw.lineAt (sqArg e 0) v → patchEntry (bitsOf v.toNat 0 128) = some p → s.hw.img.conf = some k →
    ((∃ x ∈ k.cores, x.core = p.core ∧ fusedMember x = false ∧ x.scalarCode = true) → s.hw.img.patches.length < 1024 →
      s.becomes (.patchParams w) fun t => s.hw.completed t w e 0 0 ∧ t.img.patches = s.hw.img.patches ++ [p] ∧
        t.get IMG_PATCHQ.USED = s.hw.img.patches.length + 1 ∧ t.dram = s.hw.dram) ∧
    ((∀ x ∈ k.cores, x.core ≠ p.core) → s.becomes (.patchParams w) fun t => s.hw.completed t w e 0x33 0 ∧ t.img.patches = s.hw.img.patches)) ∧
  (∀ s : State, s.hw.img.relWait = true → s.hw.get IMG_STAT.STATE ≠ 5 → s.hw.cqFree (s.hw.img.lapWin.getD 0) ≠ 0 →
    (s.hw.win (s.hw.img.lapWin.getD 0)).done.any (fun c => c.kind == 1) = false →
    s.hw.get (CMD_RES.RES_COUNT (s.hw.img.lapWin.getD 0)) = 0 → s.becomes .lapRelease fun t => t.img.relWait = false ∧ t.csr = s.hw.csr ∧ t.sram = s.hw.sram ∧
      ∀ c, c < 64 →
        ((s.hw.core c).lapLate = true → t.core c = { s.hw.core c with lapLate := false }) ∧
        ((s.hw.core c).lapLate = false → (t.core c).lapDone = false ∧ (t.core c).spc = (s.hw.core c).spc ∧
          (if (s.hw.core c).sst = .lapWait then (t.core c).sst = .running ∧ t.sreg c (s.hw.core c).lapD =
              BitVec.ofNat 32 (s.hw.get IMG_LAP.LAP)
            else (t.core c).sst = (s.hw.core c).sst)))

/-! ## Memory commands and queries (R199, R202, R389 to R391, R418) -/

/-- No request waits or runs at any column, and every level is in use. -/
def Sys2Proof.Machine.Hw.calm (h : Hw) : Prop :=
  ∀ c, (h.col c).rq = [] ∧ (h.col c).wq = [] ∧ (h.col c).merge = [] ∧ (h.col c).flight = [] ∧ (h.col c).slow = [] ∧ (h.col c).failed = []

/-- O26. FILL over usable memory completes and leaves a one-line range reading as the pattern; FILL and SCRUB_REGION report an unaligned argument with
0x02 and the first address that the map refuses with 0x03, and change no word then; a scrub of usable memory completes. COPY and TRANSPOSE move the
bytes of a contiguous tensor of hub SRAM and no others. ERASE begins with the host's lines invalidated; its end leaves every memory zero, recorded,
and completes with the sequence number. -/
def Obligations.MemoryCommands : Prop :=
  (∀ (w : Fin 16) (e : BitVec 512) (s : State), s.hw.starts w e 8 → s.hw.filt = {} →
    (∀ n, rangeArgs e = some n → s.becomes (.fill w) fun t => s.hw.completed t w e 0x02 n ∧ t.dram = s.hw.dram) ∧
    (∀ a r, rangeArgs e = none → s.hw.mapFault (sqArg e 0) (sqArg e 1) .hw = some (a, r) → s.becomes (.fill w) fun t =>
      s.hw.completed t w e 0x03 (a % 2 ^ 32) ∧ t.dram = s.hw.dram) ∧
    (rangeArgs e = none → s.hw.mapFault (sqArg e 0) (sqArg e 1) .hw = none → s.hw.calm →
      s.becomes (.fill w) fun t => s.hw.completed t w e 0 0 ∧ t.sram = s.hw.sram) ∧
    (∀ c o, rangeArgs e = none → sqArg e 1 = 64 → s.hw.mapAccess (sqArg e 0) .hw false = .at' c o →
      s.hw.mapAccess (sqArg e 0 + 32) .hw false = .at' c (o + 32) → c < 512 → o % 64 = 0 → s.hw.col c = {} → s.becomes (.fill w) fun t =>
        t.holds c o (patternWord (sqArg e 2)) ∧ t.holds c (o + 32) (patternWord (sqArg e 2)))) ∧
  (∀ (w : Fin 16) (e : BitVec 512) (s : State), s.hw.starts w e 0x0C → s.hw.filt = {} →
    (∀ n, rangeArgs e = some n → s.becomes (.scrubRegion w) fun t => s.hw.completed t w e 0x02 n ∧ t.dram = s.hw.dram) ∧
    (∀ a r, rangeArgs e = none → s.hw.mapFault (sqArg e 0) (sqArg e 1) .hr = some (a, r) → s.becomes (.scrubRegion w) fun t =>
      s.hw.completed t w e 0x03 (a % 2 ^ 32) ∧ t.dram = s.hw.dram) ∧
    (rangeArgs e = none → s.hw.mapFault (sqArg e 0) (sqArg e 1) .hr = none → s.hw.calm →
      s.becomes (.scrubRegion w) fun t => (∃ d, s.hw.completed t w e 0 d) ∧ t.sram = s.hw.sram)) ∧
  (∀ (w : Fin 16) (e : BitVec 512) (s : State) (x : Copy) (n : Nat), (∃ op, (op = 9 ∨ op = 0x0A) ∧ s.hw.starts w e op) → s.hw.filt = {} →
    s.hw.get IMG_STAT.STATE < 2 → s.hw.marks = [] → sqArg e 0 % 64 = 0 → sqArg e 1 % 64 = 0 → sqArg e 2 < 2 ^ 12 → s.hw.lineAt (sqArg e 0) x.s →
    s.hw.lineAt (sqArg e 1) x.d → x = sqCopy e x.s x.d → x.refuse = none → x.s.space = 3 → x.d.space = 3 → x.overlap = false → x.bytes = n →
    n ≤ 32 → x.s.vbase % 32 = 0 → x.d.vbase % 32 = 0 → (∀ i, i < n → x.at' i = .ok (x.s.vbase + i, x.d.vbase + i)) →
    s.becomes (if sqOp e = 9 then .copy w else .transpose w) fun t => s.hw.completed t w e 0 0 ∧
      t.sread (sramHub + x.d.vbase) n = s.hw.sread (sramHub + x.s.vbase) n ∧
      (∀ a, a < sramHub + x.d.vbase ∨ sramHub + x.d.vbase + n ≤ a → Memory.read t.sram a = Memory.read s.hw.sram a) ∧ t.dram = s.hw.dram) ∧
  (∀ (w : Fin 16) (e : BitVec 512) (s : State), s.hw.starts w e 0x0B → s.hw.get IMG_STAT.STATE = 0 → s.hw.mode.erase = none → s.hw.filt = {} →
    s.becomes (.erase w) fun t => s.hw.runs t w e ∧ t.mode.erase = some (.command w (sqFlags e % 2 == 1)) ∧ t.dram = s.hw.dram ∧ t.csr = s.hw.csr) ∧
  (∀ (v check : Bool) (w : Nat) (e : BitVec 512) (s : State), s.hw.mode.erase = some (.command w check) → s.hw.filt = {} → s.hw.calm → (s.hw.win w).run = some e →
    s.becomes (.eraseEnd v) fun t => t.mode.erase = none ∧ t.dram = [] ∧ t.marks = [] ∧ t.poison = [] ∧ t.img.snaps = [] ∧
      t.trust.erase.seq = s.hw.trust.erase.seq + 1 ∧ t.trust.erase.complete = !(check && !v) ∧ (s.hw.mode.kick = [] → t.sram = []) ∧
      ((t.win w).done.map fun x => (x.status, x.detail)) = ((s.hw.win w).done.map fun x => (x.status, x.detail)) ++
        [(if check && !v then 0x04 else 0, (s.hw.trust.erase.seq + 1) % 2 ^ 32)])

/-- O27. QUERY completes with its item's value and changes nothing but the window. -/
def Obligations.Queries : Prop :=
  ∀ (w : Fin 16) (e : BitVec 512) (s : State), s.hw.starts w e 0x13 →
    let gives := fun (i : Instr) (v : Nat) => s.becomes i fun t => s.hw.completed t w e 0 (v % 2 ^ 32) ∧ t = { s.hw with wins := t.wins } ∧
      ∀ k, k ≠ w.val → t.win k = s.hw.win k
    (sqArg e 0 = 0 → gives (.queryCapacity w) ((dpaEnd - s.hw.get MAP_RESERVE.RSV_NOW * 2 ^ 31) / 2 ^ 28)) ∧
    (sqArg e 0 = 1 → gives (.queryImageState w) (s.hw.get IMG_STAT.STATE + s.hw.get IMG_STAT.SNAP_VALID * 8)) ∧
    (sqArg e 0 = 2 → gives (.queryNode w) (s.hw.node + s.hw.get GID_COORD.VALID * 2 ^ 31)) ∧
    (sqArg e 0 = 3 → gives (.queryGear w) (s.hw.gearInForce + max (s.hw.get PWR_GEAR.LIM_IMG) (s.hw.get PWR_GEAR.LIM_HOST) * 16)) ∧
    (sqArg e 0 = 4 → gives (.queryReserve w) (s.hw.get MAP_RESERVE.RSV_NOW + s.hw.get MAP_RESERVE.RSV_NEXT * 2 ^ 8))

/-- O28. Kickstand is entered with the image unloaded and the compute domains off, whatever the image state, and left with them on but for those off for a fault; with cause
fault it is not left. -/
def Obligations.ModuleCommands : Prop :=
  (∀ (w : Fin 16) (e : BitVec 512) (s : State), s.hw.starts w e 0x11 → sqArg e 0 = 0 → s.hw.calm → s.becomes (.kickstandEnter w) fun t =>
    s.hw.completed t w e 0 0 ∧ t.kick = true ∧ t.get KICK_STAT.CAUSE = 1 ∧ t.get IMG_STAT.STATE = 0 ∧ (∀ d, d < 8 → t.flag (PWR_DOM.ON d) = false) ∧
    (s.hw.get PWR_GEAR.GEAR = 4 → s.hw.flag PWR_FW.FW = false → t.dram = s.hw.dram)) ∧
  (∀ (w : Fin 16) (e : BitVec 512) (s : State), s.hw.fronts w e 0x11 → sqArg e 0 = 1 → s.hw.kick = true →
    (s.hw.get KICK_STAT.CAUSE ≠ 3 → (s.hw.get KICK_STAT.CAUSE = 2 → s.hw.get THM_STAT.LEVEL < 2) → s.becomes (.kickstandLeave w 0) fun t =>
      s.hw.completed t w e 0 0 ∧ t.kick = false ∧ t.get KICK_STAT.CAUSE = 0 ∧ t.dram = s.hw.dram ∧
      ∀ d, d < 8 → (s.hw.flag (PWR_DOM.FAULT d) = false → t.flag (PWR_DOM.ON d) = true) ∧ t.flag (TMC_CTRL.OPEN d) = s.hw.flag (TMC_CTRL.TEST_OPEN d)) ∧
    (∀ bad, s.hw.get KICK_STAT.CAUSE = 3 → s.becomes (.kickstandLeave w bad) fun t => s.hw.completed t w e 0x60 0 ∧ t.csr = s.hw.csr))

/-- O29. FABRIC_ENUM with ORIGIN makes the module node 0 of the session it names; with its X port up it sends the token and waits, and alone it ends
with sizes 1, 1, 1. Without ORIGIN its coordinates are cleared. -/
def Obligations.EnumCommands : Prop :=
  ∀ (w : Fin 16) (e : BitVec 512) (s : State), s.hw.starts w e 0x12 → s.hw.fuses.variantS = false → s.hw.loaded = false → sqArg e 0 < 2 ^ 16 →
    (sqFlags e = 1 →
      (s.hw.portUp 0 = true → s.becomes (.fabricEnumOrigin w) fun t => s.hw.runs t w e ∧ t.fab.enum.origin = true ∧ t.fab.enum.cmd = some w.val ∧
        t.fab.enum.tokens = [0] ∧ t.node = 0 ∧ t.hasCoord = true ∧ t.get FAB_ENUM.SESSION = sqArg e 0 ∧ t.get FAB_ENUM.ESTAT = 1) ∧
      (s.hw.portUp 0 = false → s.hw.portUp 2 = false → s.hw.portUp 4 = false → s.becomes (.fabricEnumOrigin w) fun t =>
        s.hw.completed t w e 0 0x10101 ∧ t.node = 0 ∧ t.hasCoord = true ∧ t.ring 0 = 1 ∧ t.ring 1 = 1 ∧ t.ring 2 = 1 ∧ t.get FAB_ENUM.ESTAT = 2)) ∧
    (sqFlags e = 0 → s.becomes (.fabricEnumClear w) fun t => s.hw.completed t w e 0 0 ∧ t.node = 0 ∧ t.hasCoord = false ∧ t.ring 0 = 0 ∧
      t.get FAB_ENUM.SESSION = 0 ∧ t.get FAB_ENUM.ESTAT = 0 ∧ t.fab.enum = {})

/-! ## Power, gears and heat (R424 to R453) -/

/-- O30. The cap is stored within 300 W to 650 W. A 50 µs average more than a tenth above it, or a 1 ms average above it, lowers the gear limit by one
while it is above G4; a 1 ms sample shows power, voltage and domains; a list of other than 30 domains is no sample. -/
def Obligations.PowerCap : Prop :=
  (∀ (v : BitVec 10) (s : State), s.becomes (.capWrite v) fun t => t = { s.hw with csr := t.csr } ∧ t.get PWR_CAP.CAP_W = max 300 (min 650 v.toNat) ∧
    s.hw.regsBut t [PWR_CAP.off]) ∧
  (∀ (w : BitVec 10) (s : State), s.hw.powered = true → s.hw.since s.hw.mode.capDown 20000 = true → s.hw.get PWR_GEAR.LIM_PWR < 4 →
    11 * s.hw.mode.cap < w.toNat * 10 → s.becomes (.powerSampleFast w) fun t => t.get PWR_GEAR.LIM_PWR = s.hw.get PWR_GEAR.LIM_PWR + 1 ∧
      t.mode.capDown = some s.hw.time ∧ s.hw.regsBut t [PWR_GEAR.off, TEL_MOD.off]) ∧
  (∀ (w : BitVec 10) (s : State), w.toNat * 10 ≤ 11 * s.hw.mode.cap → s.stays (.powerSampleFast w)) ∧
  (∀ (w vin : BitVec 10) (doms : List (BitVec 10)) (s : State), doms.length = 30 → s.hw.powered = true →
    s.becomes (.powerSampleSlow w vin doms) fun t => t.get PWR_MEAS.POWER_W = w.toNat ∧ t.get PWR_MEAS.VIN = vin.toNat ∧
      t.mode.cap = s.hw.get PWR_CAP.CAP_W ∧ (∀ n, n < 30 → t.get (PWR_DOM.POWER n) = (doms.getD n 0).toNat) ∧ t.dram = s.hw.dram ∧
      (s.hw.get PWR_CAP.CAP_W < w.toNat → s.hw.get PWR_GEAR.LIM_PWR < 4 → t.get PWR_GEAR.LIM_PWR = s.hw.get PWR_GEAR.LIM_PWR + 1) ∧
      (w.toNat ≤ s.hw.get PWR_CAP.CAP_W → t.get PWR_GEAR.LIM_PWR ≤ s.hw.get PWR_GEAR.LIM_PWR)) ∧
  (∀ (w vin : BitVec 10) (doms : List (BitVec 10)) (s : State), doms.length ≠ 30 → exec (.powerSampleSlow w vin doms) s = .fault .malformed)

/-- O31. A gear change holds every core while the clocks restart at the gear in force; every column then owes a verification zone, and a register access
or a flit that waited for the root PLL is served; once no zone is owed the cores go on together and the change is counted. -/
def Obligations.GearChange : Prop :=
  (∀ s : State, s.hw.mode.gear = none → s.hw.powered = true → s.hw.flag PWR_FW.FW = false → s.hw.get PWR_GEAR.GEAR ≠ s.hw.gearInForce →
    s.hw.calm →
    s.becomes .gearChangeStart fun t => t.mode.gear = some ⟨false, s.hw.gearInForce, s.hw.get PWR_GEAR.GEAR⟩ ∧ t.flag PWR_GEAR.CHANGING = true ∧
      t.get PWR_GEAR.GEAR = s.hw.get PWR_GEAR.GEAR ∧ (∀ c, c < 64 → (t.core c).gearHold = true) ∧ t.sram = s.hw.sram) ∧
  (∀ (s : State) (g : GearSt), s.hw.mode.gear = some g → g.locked = false → s.hw.mode.regHeld = [] → s.hw.fab.arrived = [] → s.becomes .gearPllLock fun t =>
    t = { s.hw with csr := t.csr, mode := t.mode, cols := t.cols } ∧ t.get PWR_GEAR.GEAR = s.hw.gearInForce ∧ t.pllOff = false ∧ s.hw.regsBut t [PWR_GEAR.off] ∧
    ∀ c, c < 512 → t.mode.verify.contains c = true) ∧
  (∀ (s : State) (g : GearSt), s.hw.mode.gear = some g → g.locked = false →
    (∀ k : Fin 8, s.hw.mode.regHeld = [.fzForce k] → s.hw.fab.arrived = [] → s.becomes .gearPllLock fun t =>
      t.mode.regHeld = [] ∧ t.pllOff = false ∧ (∀ c, c / 64 = k.val → (t.col c).due = true) ∧ ∀ c, c / 64 ≠ k.val → (t.col c).due = (s.hw.col c).due) ∧
    (∀ (p : Fin 8) (f : Flit), s.hw.mode.regHeld = [] → s.hw.fab.arrived = [(p.val, f, true)] → s.hw.portUp p = true → s.hw.flag (FAB_PSTAT.ENC p) = true →
      (s.hw.port p).q = [] → Flit.seq f = (s.hw.port p).got → Flit.type f ≠ 11 → bitAt f.trl.toNat 24 = false → s.becomes .gearPllLock fun t =>
        t.fab.arrived = [] ∧ (t.port p).rx = (s.hw.port p).rx ++ [f] ∧ (t.port p).got = ((s.hw.port p).got + 1) % 4096)) ∧
  (∀ (s : State) (g : GearSt), s.hw.mode.gear = some g → g.locked = true → s.hw.mode.verify = [] → s.hw.issuedEnded = true →
    s.hw.mode.freeWaits = false → s.hw.hostHeld = [] →
    s.becomes .gearChangeEnd fun t => t.mode.gear = none ∧ t.flag PWR_GEAR.CHANGING = false ∧ t.get PWR_GEAR.GEAR = s.hw.get PWR_GEAR.GEAR ∧
      t.get PWR_GEAR.CHANGES = satAdd PWR_GEAR.CHANGES.width (s.hw.get PWR_GEAR.CHANGES) 1 ∧ (∀ c, c < 64 → (t.core c).gearHold = false) ∧
      t.dram = s.hw.dram ∧ t.sram = s.hw.sram)

/-- O32. SET_GEAR_CAP with ARG0 above 4 completes with status 0x02. Otherwise it sets LIM_HOST, and completes at once where the running gear is at or below
the cap or the cap lies above another limit; else it waits, and completes with the gear change that brings the running gear down to the cap. -/
def Obligations.GearCapCommand : Prop :=
  (∀ (w : Fin 16) (e : BitVec 512) (s : State), s.hw.starts w e 0x10 →
    let cap := sqArg e 0
    let others := max (s.hw.get PWR_GEAR.LIM_IMG) (max (s.hw.get PWR_GEAR.LIM_THERM) (s.hw.get PWR_GEAR.LIM_PWR))
    (4 < cap → s.becomes (.setGearCap w) fun t => s.hw.completed t w e 0x02 0 ∧ t.csr = s.hw.csr) ∧
    (cap ≤ 4 → cap ≤ s.hw.get PWR_GEAR.GEAR ∨ cap < min 4 others → s.becomes (.setGearCap w) fun t =>
      s.hw.completed t w e 0 0 ∧ t.get PWR_GEAR.LIM_HOST = cap ∧ s.hw.regsBut t [PWR_GEAR.off]) ∧
    (cap ≤ 4 → s.hw.get PWR_GEAR.GEAR < cap → others ≤ cap → s.becomes (.setGearCap w) fun t =>
      s.hw.runs t w e ∧ t.get PWR_GEAR.LIM_HOST = cap ∧ t.img.gearW = s.hw.img.gearW ++ [w.val] ∧ s.hw.regsBut t [PWR_GEAR.off])) ∧
  (∀ (w : Fin 16) (e : BitVec 512) (g : GearSt) (s : State), s.hw.mode.gear = some g → g.locked = true → s.hw.mode.verify = [] → s.hw.mode.freeWaits = false →
    s.hw.issuedEnded = true → s.hw.hostHeld = [] → s.hw.img.gearW = [w.val] → (s.hw.win w).run = some e →
    (sqArg e 0 ≤ s.hw.get PWR_GEAR.GEAR → s.becomes .gearChangeEnd fun t => (t.win w).run = none ∧ t.img.gearW = [] ∧
      ∃ lap stamp, (t.win w).done = (s.hw.win w).done ++ [⟨sqCid e, 0, 0, 0, lap, stamp⟩]) ∧
    (s.hw.get PWR_GEAR.GEAR < sqArg e 0 → s.becomes .gearChangeEnd fun t => t.win w = s.hw.win w ∧ t.img.gearW = [w.val]))

/-- O33. Freewheel is entered by a request or by D3hot where nothing runs, at G4 with every column in self-refresh and the compute domains off, and
refused where something runs, and one that meets a gear change waits; a wake, or D0, ends it with every column owing a verification zone. -/
def Obligations.Freewheel : Prop :=
  (∀ s : State, s.hw.released = true → s.hw.flag PWR_FW.FW = false → s.hw.mayFreewheel = true → s.hw.mode.gear = none →
    let P := fun (t : Hw) => t.flag PWR_FW.FW = true ∧ t.get PWR_GEAR.GEAR = 4 ∧ (∀ c, c < 512 → (t.col c).selfRef = true) ∧
      ∀ d, d < 8 → t.flag (PWR_DOM.ON d) = false
    s.becomes .freewheelRequest P ∧ s.becomes .d3hotEntry fun t => P t ∧ t.host.d3hot = true) ∧
  (∀ s : State, s.hw.released = true → s.hw.flag PWR_FW.FW = false → s.hw.mayFreewheel = false → s.hw.mode.gear = none → s.becomes .freewheelRequest fun t =>
    t = { s.hw with csr := t.csr, setNow := t.setNow } ∧ t.flag PWR_FW.FW_REFUSED = true ∧ t.flag PWR_FW.FW = false ∧ s.hw.regsBut t [PWR_FW.off]) ∧
  (∀ (s : State) (g : GearSt), s.hw.released = true → s.hw.flag PWR_FW.FW = false → s.hw.mode.gear = some g → s.becomes .freewheelRequest fun t =>
    t = { s.hw with mode := { s.hw.mode with freeWaits := true } }) ∧
  (∀ s : State, s.hw.flag PWR_FW.FW = true → s.hw.hostHeld = [] →
    let P := fun (t : Hw) => t.flag PWR_FW.FW = false ∧ t.dram = s.hw.dram ∧ (∀ c, c < 512 → (t.col c).selfRef = false ∧ t.mode.verify.contains c = true) ∧
      ∀ d, d < 8 → s.hw.flag (PWR_DOM.FAULT d) = false → t.flag (PWR_DOM.ON d) = true
    s.becomes .wake P ∧ s.becomes .d0Entry fun t => P t ∧ t.host.d3hot = false)

/-- O34. A slow round shows the sample of every sensor that works, where no sample reaches a threshold; a fast round shows
its own; a second sample at TRIP powers the module off. A sensor 7 °C below BRAKE leaves the fast round, a cool die the hot state, and a threshold
releases, no other with it. -/
def Obligations.Sensors : Prop :=
  (∀ (l : List (BitVec 13)) (s : State), l.length = 193 → s.hw.powered = true → (∀ x ∈ l, -640 ≤ x.toInt ∧ x.toInt ≤ 640) →
    s.becomes (.sensorSlowRound l) fun t => t.dram = s.hw.dram ∧ t.mode = s.hw.mode ∧ ∀ n, n < 193 → s.hw.flag (THM_SENS.FAILED n) = false →
      t.get (THM_SENS.TEMP n) = (l.getD n 0).toNat) ∧
  (∀ (n : Nat) (x : BitVec 13) (s : State), n < 192 → s.hw.powered = true → s.hw.flag (THM_SENS.FAST n) = true → s.hw.flag (THM_SENS.FAILED n) = false →
    (-640 ≤ x.toInt → x.toInt ≤ 640 → s.becomes (.sensorFastRound [(n, x)]) fun t => t.get (THM_SENS.TEMP n) = x.toNat ∧ t.mode = s.hw.mode ∧
      ∀ m, m < 193 → m ≠ n → t.get (THM_SENS.TEMP m) = s.hw.get (THM_SENS.TEMP m)) ∧
    (∀ d, sensorDie n = some d → threshold d 3 ≤ s.hw.prevSample n → threshold d 3 ≤ x.toInt → x.toInt ≤ 2400 → s.hw.engaged d 3 = false →
      s.becomes (.sensorFastRound [(n, x)]) fun t => t.mode.phase = .heldOff ∧ t.dram = [] ∧ t.sram = [] ∧ t.flash.trips ≠ [])) ∧
  (∀ (n : Fin 193) (d : Nat) (s : State), sensorDie n = some d → s.hw.flag (THM_SENS.FAST n) = true → s.hw.temp n < threshold d 1 - 112 →
    s.becomes (.fastRoundExit n) fun t => t.flag (THM_SENS.FAST n) = false ∧ tget (fun _ => []) t.therm.fast n = [] ∧ s.hw.regsBut t [THM_SENS.off n, THM_DIE.off d]) ∧
  (∀ (d : Fin 48) (s : State), s.hw.goodSensors d ≠ [] → (∀ n ∈ s.hw.goodSensors d, s.hw.temp n < 1296) → s.becomes (.hotRefreshExit d) fun t =>
    bitAt (t.get THM_HOTREF.HOT) d = false ∧ t.get (THM_DIE.HOTREF d) = 0 ∧ t = { s.hw with csr := t.csr } ∧
    ∀ k, k < 48 → k ≠ d.val → bitAt (t.get THM_HOTREF.HOT) k = bitAt (s.hw.get THM_HOTREF.HOT) k) ∧
  (∀ (d : Fin 64) (k : Fin 3) (s : State), s.hw.goodSensors d ≠ [] → (∀ n ∈ s.hw.goodSensors d, s.hw.temp n ≤ threshold d k - 48) →
    s.becomes (.thresholdRelease d k) fun t => t.engaged d k = false ∧ (∀ j, j ≠ k.val → t.engaged d j = s.hw.engaged d j) ∧
      ∀ e, e ≠ d.val → ∀ j, t.engaged e j = s.hw.engaged e j)

/-- O35. A further millisecond at BRAKE lowers the thermal limit by one gear; 100 ms of HEAVY at G4 enter kickstand with cause thermal; 10 ms without a
die at BRAKE raise the limit by one. -/
def Obligations.Heat : Prop :=
  (∀ (s : State) (d n : Nat), s.hw.brakeDie = some (d, n) → s.becomes .brakeDwell fun t =>
    t.get PWR_GEAR.LIM_THERM = max (s.hw.get PWR_GEAR.LIM_THERM) (min 4 (s.hw.get PWR_GEAR.LIM_THERM + 1)) ∧
    t.get TEL_MOD.THERM_DN = satAdd TEL_MOD.THERM_DN.width (s.hw.get TEL_MOD.THERM_DN) 1 ∧ t.dram = s.hw.dram) ∧
  (∀ s : State, s.hw.get PWR_GEAR.GEAR = 4 → s.hw.powered = true → (∃ d, d < 64 ∧ s.hw.engaged d 2 = true) → s.becomes .heavyDwell fun t =>
    t.kick = true ∧ (s.hw.kick = false → t.get KICK_STAT.CAUSE = 2 ∧ t.get IMG_STAT.STATE = 0) ∧ t.dram = s.hw.dram) ∧
  (∀ s : State, (∀ d, d < 64 → s.hw.dieLevel d < 2) → s.hw.since s.hw.therm.rateAt 1000000 = true → s.becomes .limThermRise fun t =>
    t = { s.hw with csr := t.csr } ∧ t.get PWR_GEAR.LIM_THERM = s.hw.get PWR_GEAR.LIM_THERM - 1 ∧ s.hw.regsBut t [PWR_GEAR.off])

/-- O36. Input loss on a powered module keeps fuses and owner records, adds a trip record, and loses every memory; an overcurrent switches its domain
off for good and enters kickstand with cause fault; after the hold of 5 s the module stays locked, off, or cold-starts. -/
def Obligations.PowerLoss : Prop :=
  (∀ (k : Fin 3) (s : State), s.hw.mode.phase ≠ .off → s.hw.mode.phase ≠ .heldOff → s.hw.mode.phase ≠ .locked → s.becomes (.inputLoss k) fun t =>
    t.mode.phase = .heldOff ∧ t.dram = [] ∧ t.sram = [] ∧ t.csr = [] ∧ t.fuses = s.hw.fuses ∧ t.flash.owner0 = s.hw.flash.owner0 ∧
    t.flash.rsv = s.hw.flash.rsv ∧ (t.flash.trips.map (·.seq)).getLast? = some (match lastTrip s.hw.flash.trips with
      | some r => r.seq + 1
      | none => 1)) ∧
  (∀ (d : Fin 30) (x : BitVec 16) (s : State), s.hw.flag (PWR_DOM.ON d) = true → s.hw.kick = false → s.becomes (.domainOvercurrent d x) fun t =>
    t.flag (PWR_DOM.ON d) = false ∧ t.flag (PWR_DOM.FAULT d) = true ∧ t.kick = true ∧ t.get KICK_STAT.CAUSE = 3 ∧ t.get KICK_STAT.DOMAIN = d ∧
    t.get IMG_STAT.STATE = 0) ∧
  (∀ (present third : Bool) (inp : StartInputs) (s : State), s.hw.mode.phase = .heldOff → s.becomes (.powerOffHoldEnd present third inp) fun t =>
    (third = true → t.mode.phase = .locked) ∧ (third = false → present = false → t.mode.phase = .off) ∧
    (third = false → present = true → inp.bist = false → t.mode.phase = .unreleased ∧ t.get RST_STAT.FAILSTEP = 2 ∧ t.mode.boot = s.hw.mode.boot + 1))

/-! ## Starts and resets (R454 to R471) -/

/-- What a start finds where every part is good: both slots' signatures, the PLL, nothing that fails. -/
def Sys2Proof.Machine.Hw.goodStart (h : Hw) (b : Bool) (inp : StartInputs) : Prop :=
  inp.bist = true ∧ inp.pllOk = true ∧ h.slotOk (h.slotMem b) (if b then inp.sigB else inp.sigA) = true

/-- O37. A cold start of good parts releases the module, with memory empty and the erase recorded; one whose engine self-test fails stays unreleased
with FAILSTEP 2. A recovered firmware image goes to slot A and starts the module, or is answered 0x54 where it does not pass. -/
def Obligations.ColdStart : Prop :=
  (∀ (inp : StartInputs) (s : State), s.hw.mode.phase = .off →
    (s.hw.goodStart s.hw.preferred inp → s.hw.mode.perst = false → s.becomes (.coldStart inp) fun t =>
      t.released = true ∧ t.host.link = true ∧ t.get RST_STAT.STEP = 12 ∧ t.mode.boot = s.hw.mode.boot + 1 ∧ t.dram = [] ∧
      t.flag TRU_STAT.CLEAN = true ∧ t.running = s.hw.preferred ∧ t.fuses = s.hw.fuses) ∧
    (s.hw.goodStart s.hw.preferred inp → s.hw.mode.perst = true → s.becomes (.coldStart inp) fun t => t.mode.phase = .linkWait) ∧
    (inp.bist = false → s.becomes (.coldStart inp) fun t => t.mode.phase = .unreleased ∧ t.get RST_STAT.FAILSTEP = 2 ∧ t.get RST_STAT.STEP = 1)) ∧
  (∀ (fw : Firmware) (sig : Bool) (inp : StartInputs) (s : State), s.hw.mode.phase = .recovery → fw.bytes.length ≤ 2 ^ 26 →
    (s.hw.slotOk (Memory.writeBytes [] 0 fw.bytes) sig = true → s.becomes (.recoveryFwUpdate fw sig inp) fun t =>
      t.flash.slotA = Memory.writeBytes [] 0 fw.bytes ∧ t.mode.boot = s.hw.mode.boot + 1 ∧ ∃ o, t.out = .reply 2 0 [] :: o) ∧
    (s.hw.slotOk (Memory.writeBytes [] 0 fw.bytes) sig = false → s.becomes (.recoveryFwUpdate fw sig inp) fun t =>
      t.mode.phase = .recovery ∧ t.out = .reply 2 0x54 [] :: s.hw.out))

/-- What a warm start finds where the parts it needs are good: the PLL, and a firmware slot that passes. -/
def Sys2Proof.Machine.Hw.goodWarm (h : Hw) (inp : StartInputs) : Prop :=
  inp.pllOk = true ∧ (h.slotOk h.flash.slotA inp.sigA = true ∨ h.slotOk h.flash.slotB inp.sigB = true)

/-- The commands that request a warm start of a released module. -/
def Sys2Proof.Machine.warmRequests (inp : StartInputs) : List Instr :=
  [.warmStart inp, .perstAssert inp, .hotReset inp, .linkDisable inp, .cxlReset false inp, .cxlReset true inp]

/-- O38. The warm starts of a released module: software, PERST#, Hot Reset, Link Disable, CXL Reset. With a firmware slot that passes and the PLL locked,
each unloads the image, loses SRAM but for the kickstand record, keeps both firmware slots, the fuses, and the snapshots with SNAP_VALID, and says in
LAST which it was; it ends at the link, which PERST# and Link Disable hold, and which an erase asked for by Mem Clr holds. With no slot that passes
each leaves recovery, and with no lock an unreleased module. From a module neither released nor waiting for its link none starts anything: PERST# and
Link Disable leave their hold of the link, the others nothing. -/
def Obligations.WarmStarts : Prop :=
  (∀ (inp : StartInputs) (s : State), s.hw.released = true → s.hw.goodWarm inp →
    let P := fun (last : Nat) (t : Hw) => t.get RST_STAT.LAST = last ∧ t.get IMG_STAT.STATE = 0 ∧ t.img.conf = none ∧ t.img.snaps = s.hw.img.snaps ∧
      t.get IMG_STAT.SNAP_VALID = s.hw.get IMG_STAT.SNAP_VALID ∧ t.mode.boot = s.hw.mode.boot + 1 ∧ t.fuses = s.hw.fuses ∧
      t.flash.slotA = s.hw.flash.slotA ∧ t.flash.slotB = s.hw.flash.slotB ∧ (∀ c, c < 64 → (t.core c).sst = .stopped) ∧
      (∀ i, i < t.mode.kick.length → t.sread (kickAddr + i) 1 = (t.mode.kick.getD i 0).toNat) ∧
      (∀ a, a < kickAddr ∨ kickAddr + t.mode.kick.length ≤ a → t.sread a 1 = 0)
    (s.becomes (.perstAssert inp) fun t => P 2 t ∧ t.mode.perst = true ∧ t.mode.phase = .linkWait) ∧
    (s.becomes (.linkDisable inp) fun t => P 4 t ∧ t.mode.linkDisabled = true ∧ t.mode.phase = .linkWait) ∧
    (s.hw.mode.perst = false → s.hw.mode.linkDisabled = false →
      (s.becomes (.warmStart inp) fun t => P 1 t ∧ t.released = true) ∧ (s.becomes (.hotReset inp) fun t => P 3 t ∧ t.released = true) ∧
      (s.becomes (.cxlReset false inp) fun t => P 5 t ∧ t.released = true)) ∧
    s.becomes (.cxlReset true inp) fun t => P 5 t ∧ t.mode.phase = .linkWait ∧ t.mode.erase = some .cxlReset) ∧
  (∀ (inp : StartInputs) (s : State), s.hw.released = true → ∀ i ∈ warmRequests inp,
    (s.hw.slotOk s.hw.flash.slotA inp.sigA = false → s.hw.slotOk s.hw.flash.slotB inp.sigB = false →
      s.becomes i fun t => t.mode.phase = .recovery ∧ t.get IMG_STAT.STATE = 0 ∧ t.mode.boot = s.hw.mode.boot + 1) ∧
    (s.hw.slotOk s.hw.flash.slotA inp.sigA = true ∨ s.hw.slotOk s.hw.flash.slotB inp.sigB = true → inp.pllOk = false →
      s.becomes i fun t => t.mode.phase = .unreleased ∧ t.get IMG_STAT.STATE = 0 ∧ t.mode.boot = s.hw.mode.boot + 1)) ∧
  (∀ (inp : StartInputs) (m : Bool) (s : State), s.hw.mode.phase ≠ .released → s.hw.mode.phase ≠ .linkWait →
    s.stays (.warmStart inp) ∧ s.stays (.hotReset inp) ∧ s.stays (.cxlReset m inp) ∧
    (s.becomes (.perstAssert inp) fun t => t = { s.hw with mode := { s.hw.mode with perst := true } }) ∧
    (s.becomes (.linkDisable inp) fun t => t = { s.hw with mode := { s.hw.mode with linkDisabled := true } }))

/-- O39. The link comes up when PERST# is deasserted or the link is enabled, and what waits for it is released; where something else holds the link, or
nothing waits for it, the event ends its own hold alone. A link down resets the host port alone; a function-level reset stops a running image by force,
and any other it leaves as it is, and closes every window that runs nothing; a core reset leaves that core's registers at their Reset values, its streams
stopped, and its SRAM as it was; the other cores of its group halt, with code 0x0B where the leader is reset. -/
def Obligations.PortAndCoreResets : Prop :=
  (∀ s : State, s.hw.mode.phase = .linkWait → s.hw.mode.erase = none →
    (s.hw.mode.linkDisabled = false → s.becomes .perstDeassert fun t => t.released = true ∧ t.host.link = true ∧ t.mode.perst = false ∧ t.dram = s.hw.dram) ∧
    (s.hw.mode.perst = false → s.becomes .hostLinkUp fun t => t.released = true ∧ t.host.link = true ∧ t.mode.linkDisabled = false ∧ t.dram = s.hw.dram)) ∧
  (∀ s : State, s.hw.mode.phase ≠ .linkWait ∨ s.hw.mode.linkDisabled = true ∨ s.hw.mode.erase.isSome = true → s.becomes .perstDeassert fun t =>
    t = { s.hw with mode := { s.hw.mode with perst := false } }) ∧
  (∀ s : State, s.hw.mode.phase ≠ .linkWait ∨ s.hw.mode.perst = true ∨ s.hw.mode.erase.isSome = true → s.becomes .hostLinkUp fun t =>
    t = { s.hw with mode := { s.hw.mode with linkDisabled := false }, host := { s.hw.host with link := s.hw.host.link || s.hw.released } }) ∧
  (∀ s : State, s.becomes .linkDown fun t => t.host.link = false ∧ t.host.hdm = [] ∧ t.host.ideMem = false ∧ t.host.sources = s.hw.host.sources ∧
    t.filt = {} ∧ t.hostHeld = [] ∧ t.lines = [] ∧ t.msix = {} ∧
    t = { s.hw with host := t.host, filt := t.filt, hostHeld := t.hostHeld, lines := t.lines, msix := t.msix }) ∧
  (∀ s : State, s.becomes .functionLevelReset fun t => (∀ w, w < 16 → t.flag (CMD_CTRL.EN w) = false ∧
      ((s.hw.win w).run = none → (s.hw.win w).done = [] → t.win w = {})) ∧ t.dram = s.hw.dram ∧ t.sram = s.hw.sram ∧
    (s.hw.get IMG_STAT.STATE = 3 ∨ s.hw.get IMG_STAT.STATE = 4 → t.get IMG_STAT.STATE = 5 ∧ t.img.quiesce = some (.stop s.hw.img.stopW 0) ∧
      ∀ c, c < 64 → (t.core c).imgHold = true ∧ t.flag (CORE_STAT.HOLD c) = true) ∧
    (s.hw.get IMG_STAT.STATE ≠ 3 → s.hw.get IMG_STAT.STATE ≠ 4 → t.get IMG_STAT.STATE = s.hw.get IMG_STAT.STATE ∧
      t.img = { s.hw.img with quiesce := s.hw.img.quiesce.map Quiesce.thenStops } ∧ t.cores = s.hw.cores)) ∧
  (∀ (c : Fin 64) (s : State), s.becomes (.coreReset c) fun t =>
    (t.core c).sst = .stopped ∧ (t.core c).xst = .stopped ∧ (t.core c).ast = .stopped ∧ (t.core c).armed = [] ∧ (t.core c).s = [] ∧
    (∀ i, i < 32 → t.get (CORE_PARAM.VALUE c i) = 0) ∧ t.flag (CORE_STAT.RUN c) = false ∧ t.sram = s.hw.sram ∧ t.dram = s.hw.dram ∧
    (s.hw.groupSize c = 1 → ∀ k, k < 64 → k ≠ c.val → t.core k = s.hw.core k) ∧
    ∀ m ∈ s.hw.members c, m ≠ c.val → t.flag (CORE_STAT.HALTED m) = true ∧ t.flag (CORE_STAT.RUN m) = false ∧
      (s.hw.leader c = c.val → t.get (CORE_HALT_INFO.CODE m) = 0x0B))

/-! ## Trust (R403 to R423) -/

/-- The trust mailbox runs the command with this opcode. -/
def Sys2Proof.Machine.Hw.asked (h : Hw) (op : Nat) : Prop := h.flag TRU_MBOX.BUSY = true ∧ h.trust.op = op ∧ h.mode.erase = none

/-- The trust mailbox has ended its command with this status and response. GO is clear, but set where software has written it in this housekeeping cycle
(R9). -/
def Sys2Proof.Machine.Hw.replied (a h : Hw) (status : Nat) (resp : List Byte) : Prop :=
  h.flag TRU_MBOX.BUSY = false ∧ h.flag TRU_MBOX.GO = a.setNow.contains (TRU_MBOX.GO.off, TRU_MBOX.GO.lo) ∧ h.get TRU_MBOX.STATUS = status ∧ h.get TRU_MBOX.RLEN = resp.length ∧
    ∀ i, i < resp.length → bitsOf (h.word (TRU_RESP.off (i / 8))).toNat (i % 8 * 8) 8 = (resp.getD i 0).toNat

/-- O40. GET_CERTS answers the certificate chain; GET_REPORT the report over the request's nonce, but 0x55 under ID_FAULT and 0x02 for a request of
another length; CHALLENGE 32 bytes that then stand as the challenge, until they expire. -/
def Obligations.Attestation : Prop :=
  (∀ s : State, s.hw.asked 0x01 → s.becomes .getCerts fun t => s.hw.replied t 0 s.hw.certChain ∧ t = { s.hw with csr := t.csr }) ∧
  (∀ s : State, s.hw.asked 0x02 →
    (s.hw.flag TRU_STAT.ID_FAULT = true → s.becomes .getReport fun t => s.hw.replied t 0x55 []) ∧
    (s.hw.flag TRU_STAT.ID_FAULT = false → s.hw.get TRU_MBOX.LEN ≠ 32 → s.becomes .getReport fun t => s.hw.replied t 0x02 []) ∧
    (s.hw.flag TRU_STAT.ID_FAULT = false → s.hw.get TRU_MBOX.LEN = 32 → s.becomes .getReport fun t =>
      s.hw.replied t 0 (s.hw.report ((List.range 32).map s.hw.reqByte)) ∧ t = { s.hw with csr := t.csr })) ∧
  (∀ s : State, s.hw.asked 0x03 → s.becomes .challenge fun t => ∃ x, x < 2 ^ 256 ∧ s.hw.replied t 0 (natLE 32 x) ∧ t.fresh = s.hw.fresh + 1 ∧
    t = { s.hw with csr := t.csr, trust := { s.hw.trust with challenge := s.hw.trust.challenge ++ [x] }, fresh := t.fresh }) ∧
  (∀ s : State, s.becomes .challengeExpiry fun t => t = { s.hw with trust := { s.hw.trust with challenge := s.hw.trust.challenge.drop 1 } })

/-- O41. ENROLL on an unowned and TRANSFER on an owned module begin the erase that precedes the new record, once their challenge stands and their
signatures verify; SET_OWNER stores the new policy at once, keeping the owner key; a level 1 debug unlock that the owner signs is shown and recorded. A
stale challenge ends each with 0x51, the wrong ownership with 0x52. -/
def Obligations.Ownership : Prop :=
  ∀ (r : OwnerRec) (x : BitVec 256) (sig sigOld : Bool) (s : State), recOk r = true →
    (s.hw.asked 0x10 → s.hw.get IMG_STAT.STATE = 0 → s.hw.fuses.epoch < 32 →
      (s.hw.trust.sel = none → x.toNat ∈ s.hw.trust.challenge → s.becomes (.enroll r x true) fun t =>
        t.mode.erase = some (.owner r) ∧ t.trust.challenge = s.hw.trust.challenge.erase x.toNat ∧ t.flag TRU_MBOX.BUSY = true ∧ t.flash = s.hw.flash ∧ t.fuses = s.hw.fuses) ∧
      (s.hw.trust.sel = none → x.toNat ∉ s.hw.trust.challenge → s.becomes (.enroll r x sig) fun t => s.hw.replied t 0x51 [] ∧ t.mode.erase = none) ∧
      (s.hw.trust.sel.isSome = true → s.becomes (.enroll r x sig) fun t => s.hw.replied t 0x52 [] ∧ t.mode.erase = none)) ∧
    (s.hw.asked 0x11 → s.hw.get IMG_STAT.STATE = 0 → s.hw.fuses.epoch < 32 →
      (s.hw.trust.sel.isSome = true → x.toNat ∈ s.hw.trust.challenge → s.becomes (.transfer r x true true) fun t =>
        t.mode.erase = some (.owner r) ∧ t.trust.challenge = s.hw.trust.challenge.erase x.toNat ∧ t.flag TRU_MBOX.BUSY = true ∧ t.flash = s.hw.flash ∧ t.fuses = s.hw.fuses) ∧
      (s.hw.trust.sel = none → s.becomes (.transfer r x sig sigOld) fun t => s.hw.replied t 0x52 [] ∧ t.mode.erase = none)) ∧
    (∀ old, s.hw.asked 0x12 → s.hw.trust.sel = some old → recOk old = true → x.toNat ∈ s.hw.trust.challenge → s.becomes (.setOwner r x true) fun t =>
      s.hw.replied t 0 [] ∧ t.get TRU_STAT.POLICY = r.policy.toNat ∧ t.flash.owner0 = t.trust.sel.map (fun x => (x, ownerTag x)) ∧ t.flash.owner1 = t.flash.owner0 ∧
      (t.trust.sel.map ownerKey = some (ownerKey old)) ∧ t.trust.sel.map (·.epoch) = some old.epoch ∧ t.fuses = s.hw.fuses) ∧
    (s.hw.asked 0x20 → x.toNat ∈ s.hw.trust.challenge → (s.hw.trust.sel.isSome = true → bitAt (s.hw.get TRU_STAT.POLICY) 2 = true) →
      s.becomes (.debugUnlock 1 x true sig) fun t => s.hw.replied t 0 [] ∧ t.get TRU_STAT.DEBUG = max 1 (s.hw.get TRU_STAT.DEBUG) ∧ t.trust.unlocks = s.hw.trust.unlocks ++ [(1, s.hw.time)] ∧
        t.dram = s.hw.dram)

/-- O42. FW_WRITE puts its bytes into the slot that does not run, and no others; FW_ACTIVATE names that slot where it passes, else 0x54; FW_COMMIT
raises the fuse count to the running firmware's, never lowering it; firmware over PLDM is written whole and activated. -/
def Obligations.FirmwareSlots : Prop :=
  ∀ s : State,
    (∀ (off : Nat) (data : List Byte), s.hw.asked 0x30 → data ≠ [] → data.length ≤ 16384 → off + data.length ≤ 2 ^ 26 →
      s.becomes (.fwWrite off data) fun t => s.hw.replied t 0 [] ∧ Memory.readBytes (t.slotMem !s.hw.running) off data.length = data ∧
        (∀ a, a < off ∨ off + data.length ≤ a → Memory.read (t.slotMem !s.hw.running) a = Memory.read (s.hw.slotMem !s.hw.running) a) ∧
        t.slotMem s.hw.running = s.hw.slotMem s.hw.running ∧ t.flash.bootPref = s.hw.flash.bootPref) ∧
    (∀ sig, s.hw.asked 0x31 →
      (s.hw.slotOk (s.hw.slotMem !s.hw.running) sig = true → s.becomes (.fwActivate sig) fun t =>
        s.hw.replied t 0 [] ∧ t.flash = { s.hw.flash with bootPref := some !s.hw.running }) ∧
      (s.hw.slotOk (s.hw.slotMem !s.hw.running) sig = false → s.becomes (.fwActivate sig) fun t => s.hw.replied t 0x54 [] ∧ t.flash = s.hw.flash)) ∧
    (s.hw.asked 0x32 → s.hw.fuses.svn ≤ 64 →
      (s.hw.running = s.hw.preferred → s.becomes .fwCommit fun t => s.hw.replied t 0 [] ∧ t.fuses.svn = max s.hw.fuses.svn (min 64 (s.hw.get TRU_STAT.SVN_RUN)) ∧
        t.get TRU_STAT.SVN_FUSE = t.fuses.svn ∧ t.fuses.epoch = s.hw.fuses.epoch) ∧
      (s.hw.running ≠ s.hw.preferred → s.becomes .fwCommit fun t => s.hw.replied t 0x52 [] ∧ t.fuses = s.hw.fuses)) ∧
    (∀ (fw : Firmware) sig, s.hw.powered = true → fw.bytes.length ≤ 2 ^ 26 →
      let m := Memory.writeBytes [] 0 fw.bytes
      s.becomes (.pldmFwUpdate fw sig) fun t => t.slotMem (!s.hw.running) = m ∧ t.slotMem s.hw.running = s.hw.slotMem s.hw.running ∧ t.csr = s.hw.csr ∧
        t.flash.bootPref = (if s.hw.slotOk m sig then some !s.hw.running else s.hw.flash.bootPref) ∧
        t.out = .reply 2 (if s.hw.slotOk m sig then 0 else 0x54) [] :: s.hw.out)

/-! ## Ports and links (R340 to R345, R369 to R374) -/

/-- O43. The STATE, and for a trained port the lanes and FEC mode, that each port event leaves; in every other STATE the event leaves the module as it
was. A port trains, degrades, falls silent, retries, is enabled and disabled, and loses or regains its cage; one that may not train keeps its STATE, or
takes 6 on a module without its identity. On variant S, which has no ports, enabling and the cage leave nothing. -/
def Obligations.PortStates : Prop :=
  ∀ (p : Fin 8) (s : State),
    (∀ r : TrainResult,
      let left := legalLanes (r.lanes.toNat - (r.lanes.toNat &&& (s.hw.port p).lanesOut))
      (s.hw.get (FAB_PSTAT.STATE p) ≠ 1 → s.stays (.portTrainingDone p r)) ∧
      (s.hw.get (FAB_PSTAT.STATE p) = 1 →
        (r.reach.val = 3 → s.becomes (.portTrainingDone p r) fun t => t.get (FAB_PSTAT.STATE p) = 5) ∧
        (r.reach.val ≠ 3 → r.ok = false ∨ left = 0 → s.becomes (.portTrainingDone p r) fun t => t.get (FAB_PSTAT.STATE p) = 4 ∧
          t.get (FAB_PERR.DOWNS p) = satAdd 8 (s.hw.get (FAB_PERR.DOWNS p)) 1) ∧
        (r.reach.val ≠ 3 → r.ok = true → left ≠ 0 → s.becomes (.portTrainingDone p r) fun t =>
          t.get (FAB_PSTAT.STATE p) = (if (s.hw.port p).auth then 3 else 2) ∧ t.get (FAB_PSTAT.LANES p) = left ∧
          t.get (FAB_PSTAT.FEC p) = max r.reach.val (max (s.hw.get (FAB_PCTRL.FEC_MIN p)) r.fecPeer.val) ∧ t.dram = s.hw.dram))) ∧
    (∀ lane : Fin 4,
      let left := legalLanes (s.hw.get (FAB_PSTAT.LANES p) - 2 ^ lane.val)
      let P := fun (t : Hw) => (left ≠ 0 → t.get (FAB_PSTAT.STATE p) = 1 ∧ t.get (FAB_PSTAT.LANES p) = left ∧
          t.get (FAB_PERR.DEGRADES p) = satAdd 8 (s.hw.get (FAB_PERR.DEGRADES p)) 1) ∧
        (left = 0 → t.get (FAB_PSTAT.STATE p) = 4)
      (s.hw.portUp p = true → bitAt (s.hw.get (FAB_PSTAT.LANES p)) lane = true → s.becomes (.laneLockLoss p lane) P ∧ s.becomes (.fecErrorRate p lane) P) ∧
      (s.hw.portUp p = false ∨ bitAt (s.hw.get (FAB_PSTAT.LANES p)) lane = false → s.stays (.laneLockLoss p lane) ∧ s.stays (.fecErrorRate p lane))) ∧
    (s.hw.portUp p = true ∨ s.hw.get (FAB_PSTAT.STATE p) = 2 → s.becomes (.neighborSilent p) fun t => t.get (FAB_PSTAT.STATE p) = 4 ∧ t.flag (FAB_PSTAT.ENC p) = false ∧
      t.get (FAB_PERR.DOWNS p) = satAdd 8 (s.hw.get (FAB_PERR.DOWNS p)) 1) ∧
    (s.hw.portUp p = false → s.hw.get (FAB_PSTAT.STATE p) ≠ 2 → s.stays (.neighborSilent p)) ∧
    (s.hw.get (FAB_PSTAT.STATE p) ≠ 4 → s.hw.get (FAB_PSTAT.STATE p) ≠ 6 → s.stays (.portRetryTimer p)) ∧
    (s.hw.portMay p = true →
      (s.hw.get (FAB_PSTAT.STATE p) = 4 ∨ s.hw.get (FAB_PSTAT.STATE p) = 6 → s.becomes (.portRetryTimer p) fun t => t.get (FAB_PSTAT.STATE p) = 1) ∧
      (s.hw.pllOff = false → s.becomes (.retrain p) fun t => t.get (FAB_PSTAT.STATE p) = 1 ∧ t.flag (FAB_PSTAT.ENC p) = false ∧ s.hw.regsBut t [FAB_PSTAT.off p])) ∧
    (s.hw.pllOff = false → s.hw.fuses.variantS = false → s.hw.flag TRU_STAT.ID_FAULT = true → s.becomes (.retrain p) fun t => t.get (FAB_PSTAT.STATE p) = 6 ∧
      s.hw.regsBut t [FAB_PSTAT.off p]) ∧
    (s.hw.portMay p = false → s.hw.fuses.variantS = true ∨ s.hw.flag TRU_STAT.ID_FAULT = false → (s.hw.pllOff = false → s.stays (.retrain p)) ∧ s.stays (.portRetryTimer p)) ∧
    (s.hw.fuses.variantS = true → ∀ v, (s.hw.pllOff = false → s.stays (.portEnableWrite p v)) ∧ s.stays (.cageModuleChange p v) ∧ s.stays (.cageOvercurrent p)) ∧
    (s.hw.fuses.variantS = false →
      (s.hw.pllOff = false → s.becomes (.portEnableWrite p false) fun t => t.get (FAB_PSTAT.STATE p) = 0 ∧ t.flag (FAB_PCTRL.ENABLE p) = false ∧
        s.hw.regsBut t [FAB_PSTAT.off p, FAB_PCTRL.off p]) ∧
      (s.hw.flag (FAB_PCTRL.ENABLE p) = true → s.hw.pllOff = false → s.stays (.portEnableWrite p true)) ∧
      (s.hw.flag (FAB_PCTRL.ENABLE p) = false → s.hw.flag TRU_STAT.ID_FAULT = false → s.hw.pllOff = false → s.becomes (.portEnableWrite p true) fun t =>
        t.get (FAB_PSTAT.STATE p) = (if (s.hw.port p).cageOff then s.hw.get (FAB_PSTAT.STATE p) else 1) ∧ t.flag (FAB_PCTRL.ENABLE p) = true) ∧
      (s.becomes (.cageModuleChange p false) fun t => t.get (FAB_PSTAT.STATE p) = if s.hw.portUp p then 4 else s.hw.get (FAB_PSTAT.STATE p)) ∧
      (s.hw.flag (FAB_PCTRL.ENABLE p) = true → s.hw.flag TRU_STAT.ID_FAULT = false → s.becomes (.cageModuleChange p true) fun t =>
        t.get (FAB_PSTAT.STATE p) = 1 ∧ (t.port p).cageOff = false) ∧
      (s.hw.flag (FAB_PCTRL.ENABLE p) = false → s.hw.portUp p = false → s.hw.flag TRU_STAT.ID_FAULT = false → s.becomes (.cageModuleChange p true) fun t =>
        t.get (FAB_PSTAT.STATE p) = s.hw.get (FAB_PSTAT.STATE p) ∧ (t.port p).cageOff = false) ∧
      (s.becomes (.cageOvercurrent p) fun t => t.get (FAB_PSTAT.STATE p) = 5 ∧ (t.port p).cageOff = true ∧ t.dram = s.hw.dram))

/-- A flit that this node takes to its endpoint: no reserved field, not credits, addressed to it. -/
def Sys2Proof.Machine.Hw.ours (h : Hw) (f : Flit) : Prop := Flit.bad f = false ∧ Flit.type f ≠ 11 ∧ h.hasCoord = true ∧ Flit.dst f = h.node

/-- O44. While the root PLL is unlocked flits wait at their port, and what has been delivered waits too. Once it is locked: a handshake that verifies brings the port up with a key of each direction, one that does not holds it in STATE 6. A flit with the expected number
is acknowledged, and delivered, or held for its group's tag; one whose CRC fails is NAKed, and one with another number is dropped. A good tag delivers
what it holds, the first bad one asks for it again, the second takes the port down. The open group is closed by one LINK flit with its tag; a rekey after
2^40 flits closes it, counts a key and sets both; a channel without credit that stalls discards its flits, and answers a request of this module with
RESP 0x23. Which keys, tags and ciphertexts result, and whether a bad CRC counts as an uncorrectable codeword, the model leaves free (log 45). -/
def Obligations.Links : Prop :=
  (∀ (p : Fin 8) (s : State), s.hw.pllOff = true → s.hw.portUp p = true → ∀ f ok, (s.becomes (.flitReceive p f ok) fun t =>
      t = { s.hw with fab := { s.hw.fab with arrived := s.hw.fab.arrived ++ [(p.val, f, ok)] } }) ∧
    s.stays (.linkTag p ok) ∧ s.stays (.tagGroupClose p) ∧ s.stays (.rekey p) ∧ ∀ vc x, s.stays (.fabStall p vc) ∧ s.stays (.linkHandshake p x)) ∧
  (∀ s : State, s.hw.pllOff = true → ∀ x ∈ [Instr.getReq, .put, .signal, .atomicAdd, .drl, .getData, .resp, .reduce, .barrier, .enumToken, .ringSizeNotice,
    .enumReport, .fmNotice, .routeUpdate, .drlRecordIntake], s.stays x) ∧
  ∀ (p : Fin 8) (s : State), s.hw.pllOff = false →
    let k := s.hw.port p
    let key := fun (n peer : Nat) (d : Bool) => Config.linkKey subjectId peer n (bnat d)
    (∀ x : LinkPeer, s.hw.get (FAB_PSTAT.STATE p) = 2 →
      let good := x.chainOk = true ∧ x.sigOk = true ∧ (bitAt (s.hw.get TRU_STAT.POLICY) 3 = true → x.ownerOk = true) ∧ x.keyId.toNat ≠ subjectId
      let lower := decide (subjectId < x.keyId.toNat)
      (good → s.becomes (.linkHandshake p x) fun t => t.get (FAB_PSTAT.STATE p) = 3 ∧ t.get (FAB_PSTAT.NEIGHBOR p) = x.node.toNat ∧
        (t.port p).peer = some x.keyId.toNat ∧ (t.port p).auth = true ∧ t.flag (FAB_PSTAT.ENC p) = !bitAt (s.hw.get TRU_STAT.POLICY) 0 ∧
        (t.port p).keys = k.keys + 1 ∧ (t.port p).txKey = key (k.keys + 1) x.keyId.toNat (!lower) ∧ (t.port p).rxKey = key (k.keys + 1) x.keyId.toNat lower) ∧
      (¬ good → s.becomes (.linkHandshake p x) fun t => t.get (FAB_PSTAT.STATE p) = 6)) ∧
    (s.hw.portUp p = true → s.hw.flag (FAB_PSTAT.ENC p) = true → k.q = [] →
      (∀ f, k.rx = [f] → s.hw.ours f → s.becomes (.linkTag p true) fun t =>
        t.fab.inbox = s.hw.fab.inbox ++ [s.hw.offDetour p { f with buf := some (p.val, Flit.vc f) }] ∧ (t.port p).rx = [] ∧ (t.port p).rxFail = 0 ∧
        t.out = s.hw.out ∧ t.csr = s.hw.csr) ∧
      (k.rxFail = 0 → s.becomes (.linkTag p false) fun t => (t.port p).rx = [] ∧ (t.port p).rxFail = 1 ∧ t.fab.inbox = s.hw.fab.inbox ∧
        (t.port p).got = (k.got + 4096 - k.rx.length % 4096) % 4096) ∧
      (k.rxFail = 1 → s.becomes (.linkTag p false) fun t => t.get (FAB_PSTAT.STATE p) = 4) ∧
      (k.open' ≠ [] → s.becomes (.tagGroupClose p) fun t => (t.port p).grp = 0 ∧ (t.port p).open' = [] ∧
        t.out = .link p 0 (Config.gcmTag k.txKey k.nonce k.plain) :: s.hw.out ∧ t.csr = s.hw.csr) ∧
      (k.open' = [] → s.stays (.tagGroupClose p)) ∧
      (∀ f : Flit, Flit.seq f = k.got → Flit.type f ≠ 11 → bitAt f.trl.toNat 24 = false → s.becomes (.flitReceive p f true) fun t =>
        (t.port p).rx = k.rx ++ [f] ∧ (t.port p).got = (k.got + 1) % 4096 ∧ t.out = .ack p k.got false :: s.hw.out)) ∧
    (s.hw.portUp p = true → s.hw.flag (FAB_PSTAT.ENC p) = false → k.q = [] →
      ∀ f : Flit, Flit.seq f = k.got → Flit.crcGood f = true → bitAt f.trl.toNat 24 = false → s.hw.ours f → s.becomes (.flitReceive p f true) fun t =>
        t.fab.inbox = s.hw.fab.inbox ++ [s.hw.offDetour p { f with buf := some (p.val, Flit.vc f) }] ∧ (t.port p).got = (k.got + 1) % 4096 ∧
        t.out = .ack p k.got false :: s.hw.out) ∧
    (s.hw.portUp p = true →
      (k.q = [] → 2 ^ 40 ≤ k.sent → s.becomes (.rekey p) fun t => (t.port p).keys = k.keys + 1 ∧ (t.port p).sent = 0 ∧ (t.port p).open' = [] ∧
        (t.port p).txKey = key (k.keys + 1) (k.peer.getD 0) (!k.encap) ∧ (t.port p).rxKey = key (k.keys + 1) (k.peer.getD 0) k.encap ∧
        t.out = .link p 2 (k.keys + 1) :: (if k.open' = [] then s.hw.out else .link p 0 (Config.gcmTag k.txKey k.nonce k.plain) :: s.hw.out) ∧ t.csr = s.hw.csr) ∧
      (k.sent < 2 ^ 40 → s.stays (.rekey p)) ∧
      (∀ f ok, ok = false ∨ (s.hw.flag (FAB_PSTAT.ENC p) = false ∧ Flit.crcGood f = false) → s.becomes (.flitReceive p f ok) fun t =>
        t = { s.hw with csr := t.csr, fresh := s.hw.fresh + 1, out := .ack p ((k.got + 4095) % 4096) true :: s.hw.out } ∧
        (∃ n, n ≤ 1 ∧ t.get (FAB_PERR.FEC_UNCORR p) = satAdd (FAB_PERR.FEC_UNCORR p).width (s.hw.get (FAB_PERR.FEC_UNCORR p)) n) ∧ s.hw.regsBut t [FAB_PERR.off p]) ∧
      (∀ f, s.hw.flag (FAB_PSTAT.ENC p) = true ∨ Flit.crcGood f = true → Flit.seq f ≠ k.got → s.stays (.flitReceive p f true))) ∧
    (s.hw.portUp p = false → ∀ f ok, s.stays (.flitReceive p f ok) ∧ s.stays (.linkTag p ok) ∧ s.stays (.tagGroupClose p) ∧ s.stays (.rekey p)) ∧
    (∀ vc : Fin 9,
      let l := tget (fun _ => []) k.q vc
      let full := vcRoom vc ≤ tget (fun _ => 0) k.used vc
      let P := fun (t : Hw) => bitAt (t.get (FAB_PVC.STALLED p)) vc = true ∧
        t.get (FAB_PERR.STALLS p) = satAdd 8 (s.hw.get (FAB_PERR.STALLS p)) 1
      (s.hw.fuses.variantS = false → l ≠ [] → full →
        ((∀ f ∈ l, requestType (Flit.type f) = false) → s.becomes (.fabStall p vc) fun t => P t ∧
          tget (fun _ => []) (t.port p).q vc = [] ∧ (∀ j, j ≠ vc.val → tget (fun _ => []) (t.port p).q j = tget (fun _ => []) k.q j)) ∧
        (∀ f, l = [f] → requestType (Flit.type f) = true → Flit.src f = s.hw.node → f.buf = none → s.becomes (.fabStall p vc) fun t => P t ∧
          tget (fun _ => []) (t.port p).q vc = [] ∧
          t.fab.inbox = s.hw.fab.inbox ++ [(8, mkFlit 7 s.hw.node s.hw.node 0x23 0 (Flit.txid f) (Flit.core f) 0 0 0 0)])) ∧
      (s.hw.fuses.variantS = true ∨ l = [] ∨ ¬ full → s.stays (.fabStall p vc)))

/-- The oldest delivered management flit of kind `k` is `f`, which came by port `p`, and the root PLL is locked. -/
def Sys2Proof.Machine.Hw.mgmtAt (h : Hw) (k p : Nat) (f : Flit) : Prop :=
  h.pllOff = false ∧ (h.fab.inbox.find? fun x => Flit.type x.2 == 10 && Flit.byte x.2 0 == k) = some (p, f)

/-- The same, and no parity check fails on its way. -/
def Sys2Proof.Machine.Hw.mgmtIn (h : Hw) (k p : Nat) (f : Flit) : Prop := h.mgmtAt k p f ∧ f.par = none

/-- The flit leaves the endpoint, and its input buffer is free. -/
def Sys2Proof.Machine.Hw.taken (h : Hw) (p : Nat) (f : Flit) : Hw := (h.modFab fun x => { x with inbox := x.inbox.erase (p, f) }).creditBack f

/-- O45. A token gives a module without coordinates the next one of its axis; a size notice and a report are recorded; notices and route updates reach
this node's software (as messages of the model, log 31); a message that fails a parity check is lost. A token, or a report, that does not come in time fails
the enumeration of the peloton origin and of no other module, and a member without sizes shows 3. COORD_WRITE stores coordinates inside their rings, and
refuses others, and any while an image is loaded or enumeration runs. -/
def Obligations.Enumeration : Prop :=
  ∀ s : State,
    (∀ f, s.hw.mgmtIn 1 1 f → Flit.axis f = 0 → 1 ≤ Flit.next f → Flit.next f ≤ 63 → s.hw.loaded = false → s.hw.hasCoord = false →
      Flit.origin f ≠ subjectId % 2 ^ 64 → s.becomes .enumToken fun t =>
        t.hasCoord = true ∧ t.node = Flit.base f / 64 * 64 + Flit.next f ∧ t.get FAB_ENUM.SESSION = Flit.session f ∧ t.get FAB_ENUM.ESTAT = 1 ∧
        t.fab.inbox = s.hw.fab.inbox.erase (1, f)) ∧
    (∀ p f, s.hw.mgmtIn 2 p f → Flit.axis f = 2 → Flit.origin f ≠ subjectId % 2 ^ 64 → s.hw.loaded = false → s.hw.hasCoord = true →
      s.becomes .ringSizeNotice fun t => t.ring 2 = Flit.next f % 128 ∧ t.ring 0 = s.hw.ring 0 ∧ t.node = s.hw.node ∧
        t.fab.inbox = s.hw.fab.inbox.erase (p, f)) ∧
    (∀ p f, s.hw.mgmtIn 3 p f → s.hw.fab.enum.origin = true → s.hw.fab.enum.reports = [] → 1 < s.hw.ring 0 * Flit.byte f 6 →
      s.becomes .enumReport fun t => t.fab.enum.reports = [(Flit.base f, Flit.byte f 6, Flit.next f)] ∧ t.csr = s.hw.csr) ∧
    (∀ p f, s.hw.mgmtIn 4 p f → s.becomes .fmNotice fun t => t = (s.hw.taken p f).send (.reply 3 4 (natLE 4 (Flit.src f)))) ∧
    (∀ p f, s.hw.mgmtIn 5 p f → s.becomes .routeUpdate fun t => t =
      (s.hw.taken p f).send (.reply 3 5 (natLE 4 (Flit.src f) ++ natLE 256 f.payload.toNat))) ∧
    (∀ x ∈ [(Instr.enumToken, 1), (Instr.ringSizeNotice, 2), (Instr.enumReport, 3), (Instr.fmNotice, 4), (Instr.routeUpdate, 5)], ∀ p f y,
      s.hw.mgmtAt x.2 p f → f.par = some y → s.becomes x.1 fun t => t = (s.hw.taken p f).xbarPar (s.hw.flitPath p f) y true) ∧
    (∀ w e, s.hw.fab.enum.origin = true → s.hw.fab.enum.cmd = some w → (s.hw.win w).run = some e → s.becomes .enumTokenTimeout fun t =>
      t.get FAB_ENUM.ESTAT = 3 ∧ t.fab.enum = {} ∧ (t.win w).run = none ∧
      ((t.win w).done.map fun x => (x.status, x.detail)) = ((s.hw.win w).done.map fun x => (x.status, x.detail)) ++
        [(0x41, s.hw.fab.enum.tokens.head?.getD 2 % 2 ^ 32)]) ∧
    (s.hw.fab.enum.origin = false → s.stays .enumTokenTimeout) ∧
    (s.hw.get FAB_ENUM.ESTAT ≠ 1 ∨ s.hw.fab.enum.origin = true → s.stays .enumSizeTimeout) ∧
    (s.hw.get FAB_ENUM.ESTAT = 1 → s.hw.fab.enum.origin = false → s.becomes .enumSizeTimeout fun t => t = { s.hw with csr := t.csr } ∧
      t.get FAB_ENUM.ESTAT = 3 ∧ s.hw.regsBut t [FAB_ENUM.off]) ∧
    (∀ v : BitVec 64, s.hw.fuses.variantS = false → s.hw.loaded = false → s.hw.get FAB_ENUM.ESTAT ≠ 1 →
      let f := fun (l : Loc) => bitsOf v.toNat l.lo l.width
      let fits := fun (x n : Loc) => f x < f n ∧ f n ≤ 64
      (f GID_COORD.VALID = 1 → fits GID_COORD.X GID_COORD.SX → fits GID_COORD.Y GID_COORD.SY → fits GID_COORD.Z GID_COORD.SZ →
        s.becomes (.coordWrite v) fun t => t.hasCoord = true ∧ t.node = f GID_COORD.X + 64 * f GID_COORD.Y + 4096 * f GID_COORD.Z ∧
          t.ring 0 = f GID_COORD.SX ∧ t.ring 1 = f GID_COORD.SY ∧ t.ring 2 = f GID_COORD.SZ ∧ t.get GID_NODE.CSRC = 2) ∧
      (f GID_COORD.VALID = 1 → ¬ (fits GID_COORD.X GID_COORD.SX ∧ fits GID_COORD.Y GID_COORD.SY ∧ fits GID_COORD.Z GID_COORD.SZ) → s.becomes (.coordWrite v) fun t =>
        t.flag GID_NODE.COORD_REJ = true ∧ t.node = s.hw.node ∧ t.hasCoord = s.hw.hasCoord) ∧
      (f GID_COORD.VALID = 0 → s.becomes (.coordWrite v) fun t => t.hasCoord = false ∧ t.ring 0 = 0)) ∧
    ∀ v : BitVec 64, (s.hw.fuses.variantS = true → s.stays (.coordWrite v)) ∧
      (s.hw.fuses.variantS = false → s.hw.loaded = true ∨ s.hw.get FAB_ENUM.ESTAT = 1 → s.becomes (.coordWrite v) fun t =>
        t.flag GID_NODE.COORD_REJ = true ∧ t.node = s.hw.node ∧ t.hasCoord = s.hw.hasCoord)

/-! ## The fabric endpoint (R360 to R368, R372) -/

/-- The oldest delivered flit of type `k` is `f`, come by port `p` (8: from this node), and the root PLL is locked (R435). -/
def Sys2Proof.Machine.Hw.oldestFlit (h : Hw) (k p : Nat) (f : Flit) : Prop :=
  h.pllOff = false ∧ (h.fab.inbox.find? fun x => Flit.type x.2 == k) = some (p, f)

/-- The same, and no parity check fails on its way. -/
def Sys2Proof.Machine.Hw.serves (h : Hw) (k p : Nat) (f : Flit) : Prop := h.oldestFlit k p f ∧ f.par = none

/-- The flit is answered with this RESP status and leaves the endpoint. -/
def Sys2Proof.Machine.Hw.answered (a b : Hw) (p : Nat) (f : Flit) (status : Nat) : Prop := b = (a.answer p f status).taken p f

/-- Every word that the flit names is a whole word of hub SRAM. -/
def Sys2Proof.Machine.Flit.inHub (f : Flit) : Prop :=
  Flit.addr f % 32 = 0 ∧ ∀ j ∈ Flit.words f, 2 ^ 39 ≤ Flit.addr f + 32 * j ∧ Flit.addr f + 32 * j + 32 ≤ 2 ^ 39 + 0x8000000

/-- Where payload word `j` of such a flit lies. -/
def Sys2Proof.Machine.Flit.hubAt (f : Flit) (j : Nat) : Nat := sramHub + (Flit.addr f + 32 * j - 2 ^ 39)

/-- The flit names one whole word of device memory, whose region the map admits under permission `q`, and the host caches nothing. -/
def Sys2Proof.Machine.Hw.oneAt (h : Hw) (f : Flit) (q : Perm) (c o : Nat) : Prop :=
  Flit.words f = [0] ∧ Flit.addr f % 32 = 0 ∧ hubAddr (Flit.addr f) = false ∧ h.mapAccess (Flit.addr f) q false = .at' c o ∧ h.filt = {}

/-- The same, the word lies at byte `o` of the idle column `c`, and a region check of the flit passes. -/
def Sys2Proof.Machine.Hw.oneWord (h : Hw) (f : Flit) (q : Perm) (c o : Nat) : Prop :=
  h.oneAt f q c o ∧ c < 512 ∧ o % 32 = 0 ∧ h.col c = {} ∧ ∀ r, f.rchk = some r → h.regionOf (Flit.addr f) = some r

/-- The bytes of these words of hub SRAM, and their marks, are `new`'s; nothing else of SRAM changed. -/
def Sys2Proof.Machine.Hw.hubWords (a b : Hw) (f : Flit) (new : Nat → Word × Bool) : Prop :=
  b = { a with csr := b.csr, trust := b.trust, sram := b.sram, marks := b.marks } ∧
    (∀ j ∈ Flit.words f, b.sread (Flit.hubAt f j) 32 = (new j).1.toNat ∧ b.smark (Flit.hubAt f j) = (new j).2) ∧
    ∀ x, (∀ j ∈ Flit.words f, x < Flit.hubAt f j ∨ Flit.hubAt f j + 32 ≤ x) → Memory.read b.sram x = Memory.read a.sram x

/-- The derailleur can take in every record of the flit now: each is of an open epoch, which holds them all within M, and no record of its node waits. -/
def Sys2Proof.Machine.Hw.drlRoom (h : Hw) (d : DispConf) (f : Flit) : Prop :=
  (∀ x ∈ h.drl.queue, x.1 ≠ 64 + Flit.src f) ∧
    ∀ r ∈ Flit.records f, h.inOpen r = true ∧ (h.epoch (recEpoch r)).count + (Flit.records f).length ≤ d.limit

/-- O46. GET_REQ is answered with the words it names and their poison bits; PUT stores exactly its words, with their marks; ATOMIC_ADD adds to words of
device memory or of hub SRAM, and is answered 0x02 for an unaligned address or an element type that it does not take (log 47); SIGNAL adds 1 to its object
and names its source; DRL queues the records that can be taken in, keeps the others, and waits while records of its node wait. An address in a hole, or of another region than the one
the requester checks for, is answered 0x06 and logged; a request whose header fails a parity check 0x18. A module in freewheel answers each with 0x20, one in kickstand PUT, SIGNAL and ATOMIC_ADD with 0x21, and an
inactive derailleur answers 0x24. -/
def Obligations.RemoteRequests : Prop :=
  ∀ (p : Nat) (f : Flit) (s : State), s.hw.flag PWR_FW.FW = false →
    (s.hw.serves 1 p f →
      (Flit.inHub f → s.becomes .getReq fun t => ∃ g : Hw,
        let v := (Flit.words f).foldl (fun a j => a + s.hw.sread (Flit.hubAt f j) 32 * 2 ^ (256 * j)) 0
        let m := (Flit.words f).foldl (fun a j => a + bnat (s.hw.smark (Flit.hubAt f j)) * 2 ^ j) 0
        t = (g.sendFlit (mkFlit 2 (Flit.src f) s.hw.node (Flit.addr f) (Flit.wmask f) (Flit.txid f) (Flit.core f) 0 0 (BitVec.ofNat 2048 v) m)).taken p f ∧
          (if m = 0 then g = s.hw else g.sram = s.hw.sram ∧ g.marks = s.hw.marks ∧ g.cols = s.hw.cols ∧ g.dram = s.hw.dram ∧ g.fab = s.hw.fab)) ∧
      (∀ c o d, s.hw.oneWord f .fr c o → s.hw.holds c o d → s.becomes .getReq fun t => ∃ g : Hw,
        t = (g.sendFlit (mkFlit 2 (Flit.src f) s.hw.node (Flit.addr f) (Flit.wmask f) (Flit.txid f) (Flit.core f) 0 0
          (BitVec.ofNat 2048 d.toNat) 0)).taken p f ∧
        g = { s.hw with csr := g.csr, cols := g.cols } ∧ s.hw.regsBut g [FZ_COL_A.off c, FZ_COL_B.off c]) ∧
      (Flit.words f = [0] → Flit.addr f % 32 = 0 → hubAddr (Flit.addr f) = false → s.hw.mapAccess (Flit.addr f) .fr false = .hole →
        s.becomes .getReq fun t => (s.hw.evC 0x101 1 0 0 (Flit.addr f) (6 + Flit.src f * 2 ^ 16)).answered t p f 0x06) ∧
      (∀ c o r, s.hw.oneAt f .fr c o → f.rchk = some r → s.hw.regionOf (Flit.addr f) ≠ some r →
        s.becomes .getReq fun t => (s.hw.evC 0x102 1 0 0 (Flit.addr f) (6 + Flit.src f * 2 ^ 16)).answered t p f 0x06)) ∧
    (s.hw.serves 3 p f → s.hw.kick = false →
      (Flit.inHub f → s.becomes .put fun t => ∃ g : Hw, g.answered t p f 0 ∧
        s.hw.hubWords g f fun j => (Flit.word f j, bitAt (Flit.poison f) j)) ∧
      (∀ c o, s.hw.oneWord f .fw c o → bitAt (Flit.poison f) 0 = false → s.becomes .put fun t => ∃ g : Hw, g.answered t p f 0 ∧
        g.holds c o (Flit.word f 0) ∧ g.sram = s.hw.sram ∧ g.cores = s.hw.cores)) ∧
    (s.hw.serves 5 p f → s.hw.kick = false →
      (∀ c o d, s.hw.oneWord f .fw c o → s.hw.holds c o d → Flit.etype f ≤ 3 → bitAt (Flit.poison f) 0 = false → s.becomes .atomicAdd fun t =>
        ∃ g : Hw, g.answered t p f 0 ∧ g.holds c o (addElems (Flit.etype f) d (Flit.word f 0)) ∧ g.sram = s.hw.sram ∧ g.cores = s.hw.cores) ∧
      (Flit.inHub f → Flit.etype f ≤ 3 → s.becomes .atomicAdd fun t => ∃ g : Hw, g.answered t p f 0 ∧
        s.hw.hubWords g f fun j => (addElems (Flit.etype f) (BitVec.ofNat 256 (s.hw.sread (Flit.hubAt f j) 32)) (Flit.word f j),
          bitAt (Flit.poison f) j || s.hw.smark (Flit.hubAt f j))) ∧
      (3 < Flit.etype f ∨ Flit.addr f % etypeBytes (Flit.etype f) ≠ 0 → s.becomes .atomicAdd fun t => s.hw.answered t p f 0x02)) ∧
    (s.hw.serves 4 p f → s.hw.kick = false →
      let l := s.hw.leader (Flit.core f)
      let val := SYNC_VAL.VALUE l (Flit.obj f)
      (s.hw.snapping = false → Flit.obj f < 48 → s.hw.flag (SYNC_VAL.VOID l (Flit.obj f)) = false → s.hw.get val + 1 < 2 ^ 32 → s.becomes .signal fun t =>
        ∃ g : Hw, g.answered t p f 0 ∧ g.get val = s.hw.get val + 1 ∧ g.get (SYNC_LAST.SRC l (Flit.obj f)) = 6 ∧
          g.get (SYNC_LAST.NODE l (Flit.obj f)) = Flit.src f ∧ s.hw.regsBut g [SYNC_VAL.off l (Flit.obj f), SYNC_LAST.off l (Flit.obj f)] ∧
          g = { s.hw with csr := g.csr, fresh := s.hw.fresh + 1 }) ∧
      (s.hw.snapping = false → Flit.obj f < 48 → s.hw.flag (SYNC_VAL.VOID l (Flit.obj f)) = true → s.becomes .signal fun t =>
        ({ s.hw with fresh := s.hw.fresh + 1 }.ev 0x402 1 3 (Flit.core f) (Flit.obj f + 0x0B * 2 ^ 8) (Flit.src f)).answered t p f 0x0B) ∧
      (s.hw.snapping = true → s.becomes .signal fun t => t = (s.hw.modFab fun x => { x with held := x.held ++ [(p, { f with buf := none })] }).taken p f)) ∧
    (s.hw.serves 6 p f →
      (∀ d, s.hw.disp = some d → s.hw.drlRoom d f → s.becomes .drl fun t => ∃ g : Hw, g.answered t p f 0 ∧
        g = { s.hw with drl := { s.hw.drl with queue := s.hw.drl.queue ++ (Flit.records f).map fun r => (64 + Flit.src f, r) } }) ∧
      (∀ d, s.hw.disp = some d → s.hw.drlMay f = true → (∃ r ∈ Flit.records f, s.hw.mayTake d (64 + Flit.src f) r = false) → s.becomes .drl fun t =>
        let now := fun r => s.hw.mayTake d (64 + Flit.src f) r
        t.drl.queue = s.hw.drl.queue ++ ((Flit.records f).filter now).map (fun r => (64 + Flit.src f, r)) ∧
        t.fab.inbox = s.hw.fab.inbox.replace (p, f) (p, Flit.withRecords f ((Flit.records f).filter fun r => !now r))) ∧
      (∀ d, s.hw.disp = some d → (∀ y ∈ s.hw.fab.inbox, Flit.type y.2 = 6 → y.2.par = none ∧ ∃ x ∈ s.hw.drl.queue, x.1 = 64 + Flit.src y.2) → s.stays .drl) ∧
      (s.hw.disp = none → s.becomes .drl fun t => s.hw.answered t p f 0x24)) ∧
    (∀ (y : XbarFault), y.header = true → ∀ x ∈ [(Instr.getReq, 1), (Instr.put, 3), (Instr.signal, 4), (Instr.atomicAdd, 5), (Instr.drl, 6)],
      s.hw.oldestFlit x.2 p f → f.par = some y → s.becomes x.1 fun t =>
        t = ((s.hw.xbarPar (s.hw.flitPath p f) y true).taken p f).answer p f 0x18) ∧
    (∀ x ∈ [(Instr.put, 3), (Instr.signal, 4), (Instr.atomicAdd, 5)], s.hw.serves x.2 p f → s.hw.kick = true →
      s.becomes x.1 fun t => s.hw.answered t p f 0x21) ∧
    ∀ r : State, r.hw.flag PWR_FW.FW = true → ∀ x ∈ [(Instr.getReq, 1), (Instr.put, 3), (Instr.signal, 4), (Instr.atomicAdd, 5), (Instr.drl, 6)],
      r.hw.serves x.2 p f → r.becomes x.1 fun t => r.hw.answered t p f 0x20

/-- Channel `k` runs a batch of one entry of one block, which has started and signals no chunks; `done` is what of it is complete. -/
def Sys2Proof.Machine.Hw.runsOne (h : Hw) (k : Nat) (b : Batch) (done : List Nat) : Prop :=
  h.batch k = some b ∧ b.fails = none ∧ b.entries.length = 1 ∧ b.blocks 0 = 1 ∧ b.done = [done] ∧ b.chunks = [0] ∧ entSen (b.entry 0) = false ∧
    (h.chan k).started = 1 ∧ h.ioPending (.chanWrite k 0 0) = false

/-- The batch of channel `k` has ended well: the channel is idle, and the word that issued it has ended; where `w`, its last write just ended too. -/
def Sys2Proof.Machine.Hw.batchOver (a b : Hw) (k : Nat) (x : Batch) (w : Bool) : Prop :=
  b.batch k = none ∧ b.get (DMA_STAT.STATE k) = 0 ∧ (b.chan k).next = (a.chan k).next ∧ (b.core x.core).dmas = (a.core x.core).dmas.map fun d =>
    if d.id = x.word then { d with written := d.written || w, ended := true } else d

/-- Channel `k` has stopped with a code, and the core that issued its batch has halted. -/
def Sys2Proof.Machine.Hw.chanHalted (h : Hw) (k c code : Nat) : Prop :=
  h.batch k = none ∧ h.get (DMA_STAT.STATE k) = 3 ∧ h.get (DMA_STAT.CODE k) = code ∧ (h.core c).faulted = true ∧ h.flag (CORE_STAT.RUN c) = false

/-- O47. GET_DATA writes its bytes where the entry's destination is, and nothing else of SRAM, and frees its tracker entry; with its last block the batch
ends. Data for a batch that runs no more are dropped. A RESP without an error completes a block of a PUT or ATOMIC_ADD entry, or the SIGNAL of a PUT_SIG
entry; one with an error stops the channel with the code of its status; forwarded records are held again on an error; a reserved status is logged. -/
def Obligations.RemoteAnswers : Prop :=
  ∀ (p : Nat) (k : Fin 32) (f : Flit) (b : Batch) (s : State),
    let tid := Flit.txid f
    let txn := tget (fun _ => none) s.hw.fab.txns tid
    (s.hw.serves 2 p f →
      (∀ src dst n, s.hw.runsOne k b [] → entKind (b.entry 0) = 3 → s.hw.fab.txns = [(tid, some (.get k b.core b.word 0 0 0 n))] →
        (b.copy 0).pieces 0 n = ([⟨0, src, dst, n⟩], none) → dst % 32 + n ≤ 32 → Desc.space (b.copy 0).d = 1 → s.becomes .getData fun t =>
          s.hw.batchOver t k b true ∧ (t.chan k).poisoned = b.poisoned + bnat (bitAt (Flit.poison f) 0 || bitAt (Flit.poison f) ((n - 1) / 32)) ∧
          t.fab.txns = [] ∧ t.fab.inbox = s.hw.fab.inbox.erase (p, f) ∧
          t.sread (sramCore b.core + dst) n = bitsOf f.payload.toNat 0 (8 * n) ∧ t.dram = s.hw.dram ∧
          ∀ a, a < sramCore b.core + dst ∨ sramCore b.core + dst + n ≤ a → Memory.read t.sram a = Memory.read s.hw.sram a) ∧
      (∀ i n off len, txn = some (.get k b.core b.word i n off len) → s.hw.batch k = none → s.becomes .getData fun t =>
        t = (s.hw.dropTx tid).taken p f)) ∧
    (s.hw.serves 7 p f →
      (Flit.addr f % 256 = 0 → s.hw.fab.txns = [(tid, some (.put k b.core b.word 0 0))] → s.hw.runsOne k b [] → entKind (b.entry 0) = 4 ∨ entKind (b.entry 0) = 6 →
        s.becomes .resp fun t => s.hw.batchOver t k b true ∧ t.fab.txns = [] ∧ t.sram = s.hw.sram ∧ t.dram = s.hw.dram) ∧
      (Flit.addr f % 256 = 0 → txn = some (.sig k b.core b.word 0) → s.hw.runsOne k b [0] → entKind (b.entry 0) = 5 → b.sigs = [1] →
        s.becomes .resp fun t => s.hw.batchOver t k b false ∧ tget (fun _ => none) t.fab.txns tid = none ∧ t.sram = s.hw.sram) ∧
      (∀ code i n, respCode (Flit.addr f % 256) = some code → code ≠ 0 → txn = some (.put k b.core b.word i n) → s.hw.batch k = some b → b.core < 64 →
        s.becomes .resp fun t => t.chanHalted k b.core code ∧ t.sram = s.hw.sram ∧ t.dram = s.hw.dram) ∧
      (∀ node recs, txn = some (.drl node recs) →
        (Flit.addr f % 256 = 0 → s.becomes .resp fun t => t = (s.hw.dropTx tid).taken p f) ∧
        (Flit.addr f % 256 = 0x24 → s.becomes .resp fun t => t.flag (DRL_STAT.UNREACH 0) = true ∧
          tget (fun _ => []) t.drl.held node = tget (fun _ => []) s.hw.drl.held node ++ recs ∧ t.drl.queue = s.hw.drl.queue ∧
          tget (fun _ => none) t.fab.txns tid = none)) ∧
      (respCode (Flit.addr f % 256) = none → s.becomes .resp fun t =>
        t = (s.hw.evC 0x603 1 5 ((f.buf.map (·.1)).getD 8) (f.hdr.toNat % 2 ^ 64) (f.hdr.toNat / 2 ^ 64)).taken p f))

/-- The word of collective window `n` with its GO bit set. -/
def Sys2Proof.Machine.Hw.goWord (h : Hw) (n : Nat) : CollWord := BitVec.ofNat 512 (h.sread (winAddr n) 64) ||| 2

/-- Block `blk` of a vector that starts at flit address `base` lies in hub SRAM, clear of the first byte of window `n`. -/
def Sys2Proof.Machine.blockInHub (n base blk : Nat) : Prop :=
  base % 32 = 0 ∧ 2 ^ 39 ≤ base ∧ base + 256 * blk + 256 ≤ 2 ^ 39 + 0x8000000 ∧
    (winAddr n < sramHub + (base - 2 ^ 39) + 256 * blk ∨ sramHub + (base - 2 ^ 39) + 256 * blk + 256 ≤ winAddr n)

/-- The eight words of that block, with their marks. -/
def Sys2Proof.Machine.Hw.blockHere (h : Hw) (base blk : Nat) : List (Word × Bool) :=
  (List.range 8).map fun j =>
    let a := sramHub + (base - 2 ^ 39) + 256 * blk + 32 * j
    (BitVec.ofNat 256 (h.sread a 32), h.smark a)

/-- O48. GO starts a window: a bad field stops it with FAB_WINDOW_ERR; a ring of one copies its contribution to its result, clears GO and signals its
object with 1; a longer ring starts with every result block to come. GO of a window that runs changes nothing. A REDUCE flit on its first pass goes on with
this member's contribution added, and its buffer's credit returns; the last member of the pass stores the sum, and on the second pass each stores it; a bad
header on the way stops the window. The layout of REDUCE flits is the model's (log 46). -/
def Obligations.Collectives : Prop :=
  (∀ (n : Fin 16) (s : State), s.hw.pllOff = false →
    let w := s.hw.goWord n
    let ring := s.hw.ring (CollWord.axis w)
    (s.hw.coll n = none →
      (s.hw.hasCoord = false ∨ CollWord.bad w ring = true → s.becomes (.windowGo n) fun t => ∃ g : Hw, t = g.ev 0x607 2 0 0 n 1 ∧
        (g.coll n).map (·.stopped) = some true ∧ g.csr = s.hw.csr ∧ g.dram = s.hw.dram ∧
        ∀ a, a ≠ winAddr n → Memory.read g.sram a = Memory.read s.hw.sram a) ∧
      (s.hw.hasCoord = true → CollWord.bad w ring = false → ring = 1 → CollWord.len w = 256 → blockInHub n (CollWord.cbase w) 0 →
        blockInHub n (CollWord.rbase w) 0 →
        let l := s.hw.leader (bitsOf w.toNat 144 6)
        let val := SYNC_VAL.VALUE l (bitsOf w.toNat 150 6)
        s.hw.flag (SYNC_VAL.VOID l (bitsOf w.toNat 150 6)) = false → s.hw.get val + 1 < 2 ^ 32 → s.becomes (.windowGo n) fun t =>
          t.blockHere (CollWord.rbase w) 0 = s.hw.blockHere (CollWord.cbase w) 0 ∧ t.coll n = none ∧ bitAt (t.sread (winAddr n) 1) 1 = false ∧
          t.get val = s.hw.get val + 1 ∧ t.dram = s.hw.dram ∧ t.cores = s.hw.cores) ∧
      (s.hw.hasCoord = true → CollWord.bad w ring = false → 1 < ring → s.hw.fuses.variantS = false →
        (∀ blk, blk < CollWord.len w / 256 → blockInHub n (CollWord.cbase w) blk) → s.becomes (.windowGo n) fun t =>
          t.coll n = some ⟨w, List.range (CollWord.len w / 256), false⟩ ∧ bitAt (t.sread (winAddr n) 1) 1 = true ∧ t.dram = s.hw.dram ∧
          ∀ a, a ≠ winAddr n → Memory.read t.sram a = Memory.read s.hw.sram a)) ∧
    (∀ c, s.hw.coll n = some c → bitAt (s.hw.sread (winAddr n) 1) 1 = true → s.stays (.windowGo n))) ∧
  ∀ (p : Nat) (f : Flit) (c : Coll) (s : State), s.hw.pllOff = false → s.hw.nextReduce [] s.hw.fab.inbox = some (p, f) → s.hw.coll (Flit.obj f) = some c →
    let n := Flit.obj f
    let w : CollWord := c.word
    let ring := s.hw.ring (CollWord.axis w)
    let me := nodeAxis s.hw.node (CollWord.axis w)
    let start := nodeAxis (Flit.src f) (CollWord.axis w)
    let minus := p % 2 == 0
    let d := if minus then (start + ring - me) % ring else (me + ring - start) % ring
    let given := (List.range 8).map fun j => (Flit.word f j, bitAt (Flit.poison f) j)
    let mine := s.hw.blockHere (CollWord.cbase w) (Flit.addr f)
    (f.par = none → Flit.core f = 0 → s.hw.filt = {} → blockInHub n (CollWord.cbase w) (Flit.addr f) →
      (d + 1 ≠ ring → s.becomes .reduce fun t => ∃ (pad : Nat) (g : Hw),
        t = g.reduceOut n w minus (Flit.src f) (Flit.addr f) 0 (Flit.hops f + 1) (Flit.vc f) (reduceBlock (CollWord.etype w) given mine pad) ∧
        g.fab = (s.hw.taken p f).fab ∧ g.sram = s.hw.sram ∧ g.dram = s.hw.dram ∧
        ((∀ x ∈ mine, x.2 = false) → g = { s.hw.taken p f with fresh := s.hw.fresh + 1 })) ∧
      (d + 1 = ring → c.results.any (· != Flit.addr f) = true → blockInHub n (CollWord.rbase w) (Flit.addr f) → s.becomes .reduce fun t => ∃ pad : Nat,
        t.blockHere (CollWord.rbase w) (Flit.addr f) = reduceBlock (CollWord.etype w) given mine pad ∧
        t.coll n = some { c with results := c.results.filter (· != Flit.addr f) } ∧ t.fab.inbox = s.hw.fab.inbox.erase (p, f) ∧ t.dram = s.hw.dram)) ∧
    (f.par = none → Flit.core f ≠ 0 → d + 2 = ring → c.results.any (· != Flit.addr f) = true → blockInHub n (CollWord.rbase w) (Flit.addr f) →
      s.becomes .reduce fun t =>
        t.blockHere (CollWord.rbase w) (Flit.addr f) = given ∧ t.coll n = some { c with results := c.results.filter (· != Flit.addr f) } ∧
        t.fab.inbox = s.hw.fab.inbox.erase (p, f) ∧ t.dram = s.hw.dram) ∧
    (∀ y, f.par = some y → y.header = true → s.hw.filt = {} → s.becomes .reduce fun t =>
      t = ((s.hw.taken p f).xbarPar (s.hw.addrPath ((if Flit.core f = 0 then CollWord.cbase w else CollWord.rbase w) + 256 * Flit.addr f) (58 + p / 2)) y
        (Flit.core f ≠ 0)).collStop n 0)

/-! ## Sync objects and barriers (R291 to R312) -/

/-- O49. A signal from outside adds its amount and leaves its source as last signaller; an overflow halts a signalling execute stream with 0x0A, and a void
object is logged for a remote one. The debug write sets an object of a core that does not run. A release decides an object's waiters: every wait-ge that is
met, then takes in age order until the first that is not; an access word that something else stops is not decided. A deferred signal whose condition holds is sent, the oldest of its stream first. -/
def Obligations.SyncObjects : Prop :=
  (∀ (c : Fin 64) (obj : Fin 48) (amt : BitVec 32) (x : SigSource) (s : State), 1 ≤ x.src → x.src ≤ 6 →
    let l := s.hw.leader c
    let val := SYNC_VAL.VALUE l obj
    (s.hw.flag (SYNC_VAL.VOID l obj) = false → s.hw.get val + amt.toNat < 2 ^ 32 → s.becomes (.signalArrive c obj amt x) fun t =>
      t.get val = s.hw.get val + amt.toNat ∧ t.get (SYNC_LAST.SRC l obj) = x.src ∧ t.get (SYNC_LAST.CORE l obj) = x.core % 64 ∧
      t.get (SYNC_LAST.NODE l obj) = x.node % 2 ^ 18 ∧ t.get (SYNC_LAST.ADDR l obj) = x.addr % 2 ^ 17 ∧
      s.hw.regsBut t [SYNC_VAL.off l obj, SYNC_LAST.off l obj] ∧ t = { s.hw with csr := t.csr }) ∧
    (s.hw.flag (SYNC_VAL.VOID l obj) = false → 2 ^ 32 ≤ s.hw.get val + amt.toNat → x.src = 1 → s.becomes (.signalArrive c obj amt x) fun t =>
      t = s.hw.halt x.core 0x0A { stream := 0, pc := x.addr }) ∧
    (s.hw.flag (SYNC_VAL.VOID l obj) = true → x.src = 6 → s.becomes (.signalArrive c obj amt x) fun t =>
      t = s.hw.ev 0x402 1 3 c (obj + 0x0B * 2 ^ 8) x.node)) ∧
  (∀ (c : Fin 64) (obj : Fin 48) (v : BitVec 32) (s : State),
    (s.hw.flag (CORE_STAT.RUN c) = false → s.hw.flag (SYNC_VAL.VOID c obj) = false → s.becomes (.syncValWrite c obj v) fun t =>
      t.get (SYNC_VAL.VALUE c obj) = v.toNat ∧ t.get (SYNC_LAST.SRC c obj) = 7 ∧ s.hw.regsBut t [SYNC_VAL.off c obj, SYNC_LAST.off c obj] ∧
      t = { s.hw with csr := t.csr }) ∧
    (s.hw.flag (CORE_STAT.RUN c) = true ∨ s.hw.flag (SYNC_VAL.VOID c obj) = true → s.stays (.syncValWrite c obj v))) ∧
  (∀ (c : Fin 64) (obj : Fin 48) (s : State) (x : Wait), s.hw.groupSize c = 1 → s.hw.flag (CORE_STAT.RUN c) = true →
    s.hw.flag (CORE_STAT.HOLD c) = false → s.hw.flag (CORE_STAT.BROKEN c) = false → s.hw.pllOff = false → (s.hw.core c).xwait = some x → x.idx = obj → x.released = false →
    (s.hw.core c).await = none →
    let v := s.hw.get (SYNC_VAL.VALUE c obj)
    ((s.hw.core c).swait = none → (x.kind = 1 ∨ x.kind = 2) →
      (x.amt ≤ v → s.becomes (.waitRelease c obj) fun t => (t.core c).xwait = some { x with released := true } ∧
        t.get (SYNC_VAL.VALUE c obj) = (if x.kind = 2 then v - x.amt else v) ∧ s.hw.regsBut t [SYNC_VAL.off c obj] ∧
        t = { s.hw with csr := t.csr, cores := t.cores } ∧ ∀ k, k ≠ c.val → t.core k = s.hw.core k) ∧
      (v < x.amt → s.stays (.waitRelease c obj))) ∧
    (∀ y : Wait, (s.hw.core c).swait = some y → y.idx = obj → y.released = false → x.kind = 2 → y.kind = 2 → x.amt ≤ v → v - x.amt < y.amt →
      x.since ≤ y.since → s.becomes (.waitRelease c obj) fun t => (t.core c).xwait = some { x with released := true } ∧ (t.core c).swait = some y ∧
        t.get (SYNC_VAL.VALUE c obj) = v - x.amt)) ∧
  (∀ (c : Fin 64) (obj : Fin 48) (s : State) (x : Wait), s.hw.groupSize c = 1 → s.hw.decides c = true → (s.hw.core c).xwait = none →
    (s.hw.core c).swait = none → (s.hw.core c).await = some x → x.idx = obj → x.released = false → (x.kind = 1 ∨ x.kind = 2) →
    let stops := s.hw.accStops c (s.hw.accWord c (s.hw.core c).apc)
    (stops = true → s.stays (.waitRelease c obj)) ∧
    (stops = false → x.amt ≤ s.hw.get (SYNC_VAL.VALUE c obj) → s.becomes (.waitRelease c obj) fun t =>
      (t.core c).await = some { x with released := true } ∧
      t.get (SYNC_VAL.VALUE c obj) = s.hw.get (SYNC_VAL.VALUE c obj) - (if x.kind = 2 then x.amt else 0) ∧
      t = { s.hw with csr := t.csr, cores := t.cores })) ∧
  (∀ (c : Fin 64) (st : Fin 2) (s : State) (d : DefSig) (rest : List DefSig), (s.hw.core c).deferred st = d :: rest →
    let l := s.hw.leader c
    s.hw.flag (CORE_STAT.BROKEN l) = false → s.hw.flag (CORE_STAT.HOLD l) = false →
    (s.hw.condMet c d.cond = true → d.kind = 1 → d.idx < 48 → s.hw.flag (SYNC_VAL.VOID l d.idx) = false →
      s.hw.get (SYNC_VAL.VALUE l d.idx) + d.amt < 2 ^ 32 → s.becomes (.deferredSignalSend c st) fun t =>
        (t.core c).deferred st = rest ∧ t.get (SYNC_VAL.VALUE l d.idx) = s.hw.get (SYNC_VAL.VALUE l d.idx) + d.amt ∧
        t.get (SYNC_LAST.SRC l d.idx) = st.val + 1 ∧ t = { s.hw with csr := t.csr, cores := t.cores } ∧ ∀ k, k ≠ c.val → t.core k = s.hw.core k) ∧
    (s.hw.condMet c d.cond = false → s.stays (.deferredSignalSend c st)))

/-- O50. An arrival of a core joins the present generation and is counted; the last one of a home barrier without children starts the next generation; an
invalid barrier halts it with 0x02. A child's combined arrival is counted for its generation or for the next, any other is logged, and a release from PARENT starts the
next generation of a member's barrier and frees the waiters whose clocks run; during a snapshot messages are held. A held message leaves for a node that can be reached. The
watchdog halts a core with 0x0C, and stops the batches of its group that wait on a page request; the credit-deadlock detector a core or a channel with 0x10. -/
def Obligations.Barriers : Prop :=
  (∀ (c bar : Fin 64) (s : State),
    let l := s.hw.leader c
    let got := s.hw.get (BAR_STAT.ARRIVED bar)
    let parts := s.hw.get (BAR_CFG.PARTS bar)
    (s.hw.flag (BAR_CFG.VALID bar) = true → got + 1 < parts → s.becomes (.barrierArrival c bar) fun t =>
      t.get (BAR_STAT.ARRIVED bar) = got + 1 ∧ tget (fun _ => none) (t.core l).gens bar = some (s.hw.get (BAR_STAT.GEN bar)) ∧
      s.hw.regsBut t [BAR_STAT.off bar] ∧ t = { s.hw with csr := t.csr, cores := t.cores }) ∧
    (s.hw.flag (BAR_CFG.VALID bar) = true → got + 1 = parts → s.hw.flag (BAR_CFG.HOME bar) = true → s.hw.get (BAR_CFG.CHILDREN bar) = 0 →
      s.hw.get (BAR_TREE.CHILD bar) = 0 → s.hw.get (BAR_TREE.NEXT_CHILD bar) = 0 → s.hw.get (BAR_STAT.NEXT bar) = 0 → s.becomes (.barrierArrival c bar) fun t =>
        t.get (BAR_STAT.GEN bar) = (s.hw.get (BAR_STAT.GEN bar) + 1) % 2 ^ 16 ∧ t.get (BAR_STAT.ARRIVED bar) = 0 ∧ t.sram = s.hw.sram) ∧
    (s.hw.flag (BAR_CFG.VALID bar) = false → s.becomes (.barrierArrival c bar) fun t =>
      t = s.hw.halt c 0x02 { stream := 0, pc := (s.hw.core l).xpc })) ∧
  (∀ (p : Nat) (f : Flit) (s : State), s.hw.serves 9 p f →
    let bar := Flit.obj f
    let gen := Flit.addr f % 2 ^ 16
    let now := s.hw.get (BAR_STAT.GEN bar)
    let rel := bitAt (Flit.addr f) 16
    let child := s.hw.get (BAR_TREE.CHILD bar)
    (s.hw.snapping = true → s.becomes .barrier fun t => t.fab.held = s.hw.fab.held ++ [(p, { f with buf := none })] ∧ t.csr = s.hw.csr) ∧
    (s.hw.snapping = false → s.hw.flag (BAR_CFG.VALID bar) = false → s.becomes .barrier fun t =>
      t = (s.hw.taken p f).ev 0x404 1 6 (bar / 32) (bar + gen * 2 ^ 16 + bnat rel * 2 ^ 32) (Flit.src f)) ∧
    (s.hw.snapping = false → s.hw.flag (BAR_CFG.VALID bar) = true →
      (rel = false → gen = now → child + 1 < s.hw.get (BAR_CFG.CHILDREN bar) → s.becomes .barrier fun t =>
        t.get (BAR_TREE.CHILD bar) = child + 1 ∧ (t.bar bar).kids = (s.hw.bar bar).kids ++ [Flit.src f] ∧ s.hw.regsBut t [BAR_TREE.off bar]) ∧
      (rel = false → gen = (now + 1) % 2 ^ 16 → s.hw.get (BAR_TREE.NEXT_CHILD bar) < 255 → s.becomes .barrier fun t =>
        t.get (BAR_TREE.NEXT_CHILD bar) = s.hw.get (BAR_TREE.NEXT_CHILD bar) + 1 ∧
        (t.bar bar).nextKids = (s.hw.bar bar).nextKids ++ [Flit.src f] ∧ s.hw.regsBut t [BAR_TREE.off bar]) ∧
      (rel = false → gen ≠ now → gen ≠ (now + 1) % 2 ^ 16 → s.becomes .barrier fun t =>
        t = (s.hw.taken p f).ev 0x404 1 6 (bar / 32) (bar + gen * 2 ^ 16) (Flit.src f)) ∧
      (rel = true → s.hw.flag (BAR_CFG.HOME bar) = true ∨ Flit.src f ≠ s.hw.get (BAR_CFG.PARENT bar) ∨ gen ≠ now → s.becomes .barrier fun t =>
        t = (s.hw.taken p f).ev 0x404 1 6 (bar / 32) (bar + gen * 2 ^ 16 + 2 ^ 32) (Flit.src f)) ∧
      (rel = true → gen = now → s.hw.flag (BAR_CFG.HOME bar) = false → Flit.src f = s.hw.get (BAR_CFG.PARENT bar) → 0 < s.hw.get (BAR_CFG.PARTS bar) → s.hw.get (BAR_STAT.NEXT bar) = 0 →
        (∀ k, k < 64 → s.hw.groupSize k = 1) → s.becomes .barrier fun t =>
          t.get (BAR_STAT.GEN bar) = (now + 1) % 2 ^ 16 ∧ t.get (BAR_STAT.ARRIVED bar) = 0 ∧
          t.get (BAR_TREE.CHILD bar) = s.hw.get (BAR_TREE.NEXT_CHILD bar) ∧ t.get (BAR_TREE.NEXT_CHILD bar) = 0 ∧
          (t.bar bar).kids = (s.hw.bar bar).nextKids ∧
          ∀ k x, k < 64 → (s.hw.core k).xwait = some x → x.kind = 3 → x.idx = bar → tget (fun _ => none) (s.hw.core k).gens bar = some now →
            s.hw.decides k = true → (t.core k).xwait = some { x with released := true }))) ∧
  (∀ (bar : Fin 64) (s : State) (rel : Bool) (gen node : Nat) (rest : List (Bool × Nat × Nat)), (s.hw.bar bar).held = (rel, gen, node) :: rest →
    (s.hw.reachable node = true → s.hw.pllOff = false → s.becomes (.barHeldSend bar) fun t =>
      t = (s.hw.modBar bar fun b => { b with held := rest }).sendFlit (mkFlit 9 node s.hw.node (gen + bnat rel * 2 ^ 16) 0 0 0 bar 0 0 0)) ∧
    (s.hw.reachable node = false → s.stays (.barHeldSend bar))) ∧
  (∀ (c : Fin 64) (st : Fin 3) (pc : Nat) (s : State), s.hw.streamOn c = true → s.hw.flag (SYNC_CTRL.WD_EN c) = true → s.hw.timedWait c st = some pc →
    s.becomes (.watchdog c st) fun t => t = ((s.hw.dropPaged c).halt c 0x0C { stream := st, pc := pc }).stopPaged (s.hw.leader c) ∧ t.flag (CORE_STAT.RUN c) = false ∧
      t.sram = s.hw.sram ∧ t.dram = s.hw.dram) ∧
  (∀ (c : Fin 64) (target : BitVec 16) (s : State), s.hw.flag (CORE_STAT.RUN (s.hw.leader c)) = true →
    s.hw.flag (CORE_STAT.BROKEN (s.hw.leader c)) = false →
    let l := s.hw.leader c
    ((s.hw.core c).portWait = true → s.becomes (.creditDeadlock (.core c) target) fun t =>
      t = (s.hw.ev 0x403 2 3 c target.toNat 0).halt c 0x10 { stream := 1, pc := (s.hw.core c).apc } ∧ t.flag (CORE_STAT.RUN c) = false) ∧
    ((s.hw.core c).portWait = false → (s.hw.core l).hold.isSome = true ∨ (s.hw.core l).imgHold = true → s.becomes (.creditDeadlock (.core c) target) fun t =>
      t = (s.hw.ev 0x403 2 3 c target.toNat 0).halt c 0x10 { stream := 0, pc := (s.hw.core l).xpc } ∧ t.flag (CORE_STAT.RUN c) = false) ∧
    ((s.hw.core c).portWait = false → (s.hw.core l).hold = none → (s.hw.core l).imgHold = false → s.stays (.creditDeadlock (.core c) target))) ∧
  (∀ (k : Fin 32) (target : BitVec 16) (b : Batch) (s : State), s.hw.batch k = some b → b.core < 64 → s.becomes (.creditDeadlock (.chan k) target) fun t =>
    t.chanHalted k b.core 0x10 ∧ t.sram = s.hw.sram ∧ t.dram = s.hw.dram)

/-! ## The derailleur (R172 to R186) -/

/-- The oldest record waits alone, and may be taken in now; the root PLL is locked. -/
def Sys2Proof.Machine.Hw.loneRecord (h : Hw) (d : DispConf) (src : Nat) (r : DRec) : Prop :=
  h.pllOff = false ∧ h.disp = some d ∧ h.drl.queue = [(src, r)] ∧ h.inOpen r = true

/-- The cores of cluster `k`. -/
def Sys2Proof.Machine.clusterCores (k : Nat) : List Nat := (List.range 4).map (4 * k + ·)

/-- Object `obj` of core `c` takes an addition of `n`. -/
def Sys2Proof.Machine.Hw.room (h : Hw) (c obj n : Nat) : Prop :=
  obj < 48 ∧ h.flag (SYNC_VAL.VOID c obj) = false ∧ h.get (SYNC_VAL.VALUE c obj) + n < 2 ^ 32

/-- O51. A record for a local expert is placed behind those it has, with this node as its source where a local core sent it; one for no expert sets BADEXP, as does a marker whose epoch has closed;
one above the limit of its epoch waits and sets OVER. The last end marker of an epoch closes it: the cores of an expert learn their rounds, READY and DONE
rise. A consume signal is counted; a refill writes the next round's index buffer, poisoned where its records are, and raises READY. Held records leave for a
node that can be reached, as long as the tracker has an entry. -/
def Obligations.Derailleur : Prop :=
  (∀ (d : DispConf) (src : Nat) (r : DRec) (s : State), s.hw.loneRecord d src r → recExpert r ≠ 0xFFFF → 0 < d.producers →
    (∀ e n, ((s.hw.epoch e).src n).marker = none) → (s.hw.epoch s.hw.oldest).closed = false →
    let e := recEpoch r
    (∀ ent x, d.routes.find? (fun y => y.1 == recExpert r) = some (recExpert r, s.hw.node, ent) → expertOf d ent = some x →
      ((s.hw.epoch e).count < d.limit → s.becomes .drlRecordIntake fun t => t.drl.queue = [] ∧
        ((t.epoch e).exp ent).recs = ((s.hw.epoch e).exp ent).recs ++ [if src < 64 then recFrom r s.hw.node else r] ∧
        (t.epoch e).count = (s.hw.epoch e).count + 1 ∧ ((t.epoch e).src src).got = ((s.hw.epoch e).src src).got + 1 ∧
        t = { s.hw with csr := t.csr, cores := t.cores, drl := t.drl } ∧ (64 ≤ src → t.cores = s.hw.cores)) ∧
      (d.limit ≤ (s.hw.epoch e).count → s.becomes .drlRecordIntake fun t =>
        t.drl.queue = s.hw.drl.queue ∧ t.flag (DRL_STAT.OVER 0) = true ∧ (t.epoch e).full = true ∧ (t.epoch e).exps = (s.hw.epoch e).exps ∧
        t.sram = s.hw.sram)) ∧
    (d.routes.find? (fun y => y.1 == recExpert r) = none → s.becomes .drlRecordIntake fun t => t.drl.queue = [] ∧
      t.flag (DRL_STAT.BADEXP 0) = true ∧ (t.epoch e).exps = (s.hw.epoch e).exps ∧ t.sram = s.hw.sram)) ∧
  (∀ (d : DispConf) (src : Nat) (r : DRec) (s : State), s.hw.pllOff = false → s.hw.disp = some d → s.hw.drl.queue = [(src, r)] → recExpert r = 0xFFFF →
    (recEpoch r = (s.hw.oldest + 3) % 4 ∨
      (recEpoch r = s.hw.oldest ∧ (s.hw.epoch s.hw.oldest).closed = true ∧ ((s.hw.epoch s.hw.oldest).src src).marker.isSome = true)) →
    s.becomes .drlRecordIntake fun t => t.drl.queue = [] ∧ t.flag (DRL_STAT.BADEXP 0) = true) ∧
  (∀ (d : DispConf) (src : Nat) (r : DRec) (x : ExpConf) (k : Nat) (s : State), s.hw.loneRecord d src r → recExpert r = 0xFFFF →
    recEpoch r = s.hw.oldest → src < 64 → ((s.hw.epoch s.hw.oldest).src src).marker = none → ((s.hw.epoch s.hw.oldest).src src).got = recToken r →
    d.producers = 1 → d.peers = [] → d.experts = [x] → x.clusters = [k] → k < 16 → 0 < x.cap → 0 < x.consumers → x.preg < 32 → x.entry < 256 → x.ready ≠ x.done →
    (∀ c, c < 64 → s.hw.groupSize c = 1) →
    let e := s.hw.oldest
    let y := (s.hw.epoch e).exp x.entry
    let rounds := (y.recs.length + x.cap - 1) / x.cap
    0 < rounds → rounds < 2 ^ 32 → y.consumed = 0 →
    (∀ c ∈ clusterCores k, s.hw.room c x.ready (min rounds 2) ∧ s.hw.room c x.done 1) → s.becomes .drlRecordIntake fun t =>
      t.drl.queue = [] ∧ (t.epoch e).closed = true ∧ t.flag (DRL_EPOCH.CLOSED 0) = true ∧
      (t.epoch e).exp x.entry = { y with total := rounds, rounds := min rounds 2 } ∧
      ∀ c ∈ clusterCores k, t.sreg c x.sreg = BitVec.ofNat 32 rounds ∧
        t.get (SYNC_VAL.VALUE c x.ready) = s.hw.get (SYNC_VAL.VALUE c x.ready) + min rounds 2 ∧
        t.get (SYNC_VAL.VALUE c x.done) = s.hw.get (SYNC_VAL.VALUE c x.done) + 1) ∧
  (∀ (ent : Fin 256) (d : DispConf) (x : ExpConf) (s : State), s.hw.disp = some d → expertOf d ent = some x → (s.hw.epoch s.hw.oldest).closed = true →
    let e := s.hw.oldest
    let y := (s.hw.epoch e).exp ent
    (y.consumed < y.total * x.consumers → (y.consumed + 1) / x.consumers < y.total → s.becomes (.drlConsumeSignal ent) fun t =>
      (t.epoch e).exp ent = { y with consumed := y.consumed + 1 } ∧
      t.get (DRL_EXP.DONE_ROUNDS (ent.val / 128) (ent.val % 128)) = min 4095 ((y.consumed + 1) / x.consumers) ∧
      t = { s.hw with csr := t.csr, drl := t.drl }) ∧
    (∀ (k : Nat) (bad : List (Fin 4096)), y.rounds < y.total → y.rounds < y.doneRounds x + 2 → x.clusters = [k] → k < 16 →
      (∀ c, c < 64 → s.hw.groupSize c = 1) → (∀ c ∈ clusterCores k, s.hw.room c x.ready 1) → s.hw.pllOff = false → s.becomes (.drlRefillDone ⟨ent, bad⟩) fun t =>
        let a := sramCluster k + x.ibuf + y.rounds % 2 * (32 + 16 * x.cap)
        (t.epoch e).exp ent = { y with rounds := y.rounds + 1 } ∧
        Memory.readBytes t.sram a (indexBuffer x y.recs y.rounds).length = indexBuffer x y.recs y.rounds ∧
        (∀ j ∈ badSlots x y.recs y.rounds (bad.map (·.val)), t.smark ((a + 32 + 16 * j) / 32 * 32) = true) ∧
        (∀ c ∈ clusterCores k, t.get (SYNC_VAL.VALUE c x.ready) = s.hw.get (SYNC_VAL.VALUE c x.ready) + 1) ∧ t.dram = s.hw.dram)) ∧
  (∀ (node : Node) (s : State) (tid : Nat),
    let l := tget (fun _ => []) s.hw.drl.held node.toNat
    (s.hw.reachable node.toNat = true → 0 < l.length → l.length ≤ 16 → s.hw.freeTx 0 = some tid → s.hw.pllOff = false → s.becomes (.drlForwardRetry node) fun t =>
      t = (((s.hw.modDrl fun d => { d with held := tset (fun _ => []) d.held node.toNat [] }).takeTx tid (.drl node.toNat l)).sendFlit
        (mkFlit 6 node.toNat s.hw.node l.length (2 ^ ((l.length + 1) / 2) - 1) tid 0 0 0
          (BitVec.ofNat 2048 (l.foldr (fun r a => r.toNat % 2 ^ 128 + 2 ^ 128 * a) 0))
          ((List.range 8).foldl (fun a j => a + bnat (((l.drop (2 * j)).take 2).any recMark) * 2 ^ j) 0)))) ∧
    (s.hw.reachable node.toNat = true → 0 < l.length → l.length ≤ 16 → s.hw.freeTx 0 = none → s.hw.pllOff = false → s.becomes (.drlForwardRetry node) fun t =>
      tget (fun _ => []) t.drl.held node.toNat = l ∧ t.fab = s.hw.fab ∧ t.csr = s.hw.csr) ∧
    (s.hw.reachable node.toNat = false → s.stays (.drlForwardRetry node)))

/-! ## DMA channels (R282 to R285) -/

/-- O52. A channel without a batch accepts the next one: its entries are read from the core's SRAM, DMA_STAT names its owner, the word that issued it is
accepted, and its first entry starts; a reserved entry stops the channel with 0x01. A block of a COPY entry between windows of core SRAM is moved, and no
other byte; the batch ends with its last block. -/
def Obligations.DmaBatches : Prop :=
  (∀ (k : Fin 32) (c word n off : Nat) (rest : List (Nat × Nat × Nat × Nat)) (s : State), s.hw.pllOff = false → s.hw.batch k = none → (s.hw.chan k).next = (c, word, n, off) :: rest →
    let es := (List.range n).map fun i => BitVec.ofNat 128 (s.hw.sread (sramCore c + off + 16 * i) 16)
    let e := es.getD 0 0
    let x : Copy := ⟨s.hw.descOf c (entSrc e), s.hw.descOf c (entDst e), false, entTh e, entTw e⟩
    (0 < n → n ≤ 64 → es.any entBad = false → s.hw.flag (CORE_STAT.COMPAT c) = false →
      (∀ y ∈ es, Desc.check (s.hw.descOf c (entSrc y)) (fun _ => true) false = 0 ∧ Desc.check (s.hw.descOf c (entDst y)) (fun _ => true) true = 0) →
      entKind e = 1 → x.refuse = none → Desc.space x.s ≠ 0 → Desc.space x.d ≠ 0 → x.overlap = false → 0 < x.bytes → s.becomes (.dmaBatchAccept k) fun t =>
        (∃ b, t.batch k = some b ∧ b.entries = es ∧ b.core = c ∧ b.word = word ∧ b.done = List.replicate n []) ∧ (t.chan k).next = rest ∧
        (t.chan k).started = 1 ∧ t.get (DMA_STAT.STATE k) = 1 ∧ t.get (DMA_STAT.OWNER k) = c % 64 ∧
        (t.core c).dmas = (s.hw.core c).dmas.map (fun d => if d.id = word then { d with accepted := true } else d) ∧
        t = { s.hw with csr := t.csr, chans := t.chans, cores := t.cores, fresh := t.fresh }) ∧
    (es.any entBad = true → c < 64 → s.becomes (.dmaBatchAccept k) fun t => t.chanHalted k c 0x01 ∧ (t.chan k).next = rest ∧ t.sram = s.hw.sram)) ∧
  (∀ (k : Fin 32) (b : Batch) (src dst n : Nat) (s : State), s.hw.pllOff = false → s.hw.runsOne k b [] → b.olds = [] → entKind (b.entry 0) = 1 →
    Desc.space (b.copy 0).s = 1 → Desc.space (b.copy 0).d = 1 → b.blockPieces 0 0 = ([⟨0, src, dst, n⟩], none) → src % 32 + n ≤ 32 → dst % 32 + n ≤ 32 →
    s.becomes (.dmaBlockComplete k 0 ⟨0, none⟩) fun t => s.hw.batchOver t k b true ∧
      t.sread (sramCore b.core + dst) n = s.hw.sread (sramCore b.core + src) n ∧ t.dram = s.hw.dram ∧ t.host = s.hw.host ∧
      ∀ a, a < sramCore b.core + dst ∨ sramCore b.core + dst + n ≤ a → Memory.read t.sram a = Memory.read s.hw.sram a)

/-! ## Host memory (R286 to R289) -/

/-- O53. Data of a read land in the queue entry or access word that awaits them, a write's end is acknowledged, a failed request halts its stream with 0x11. A
translation sends the requests that it permits and is cached in the size that the host reports; a page not present is asked for; an error halts those that wait. A page response lets its
requests ask again, or fails them. An invalidation drops the cached pages and is answered once no request of them is under way. -/
def Obligations.HostIo : Prop :=
  (∀ (id : Nat) (data : List Byte) (r : IoReq) (s : State), (s.hw.host.io.find? fun y => y.id == id) = some r → s.hw.host.inv = [] →
    let left := s.hw.host.io.filter fun y => y.id != id
    (∀ c q ent ps, r.dest = .fetch c q ent ps → r.write = false → data.length = r.n →
      (∀ a ∈ (s.hw.core c).armed, ∀ k ∈ a.kept, k.ent = ent → k.places = ps → k.next = []) → s.becomes (.hostIoCompletion id data true) fun t =>
      t.host = { s.hw.host with io := left } ∧ t = { s.hw with host := t.host, cores := t.cores } ∧
      (t.core c).queue q = ((s.hw.core c).queue q).map fun e =>
        if e.id = ent then e.update ps fun here x => x.take (BitVec.ofNat 256 (leNat data)) false false here else e) ∧
    (∀ c word, r.dest = .index c word → r.write = false → data.length = r.n → s.becomes (.hostIoCompletion id data true) fun t =>
      t.host = { s.hw.host with io := left } ∧ t = { s.hw with host := t.host, cores := t.cores } ∧
      (t.core c).armed = (s.hw.core c).armed.map fun a =>
        if a.id = word then { a with idxGot := a.idxGot ++ [((none, r.addr), BitVec.ofNat 256 (leNat data), false)] } else a) ∧
    (∀ c word, r.dest = .drain c word → r.write = true → s.becomes (.hostIoCompletion id data true) fun t =>
      t.host = { s.hw.host with io := left } ∧ ∃ away : Armed → List (Nat × List Int),
        (t.core c).armed = (s.hw.core c).armed.map fun a => if a.id = word then { a with acks := a.acks - 1, away := away a } else a) ∧
    (r.dest = .gone → r.write = true → s.becomes (.hostIoCompletion id data true) fun t => t = { s.hw with host := { s.hw.host with io := left } }) ∧
    (∀ c word, r.dest = .drain c word → c < 64 → s.becomes (.hostIoCompletion id data false) fun t =>
      t.host.io = left ∧ (t.core c).faulted = true ∧ t.flag (CORE_STAT.RUN c) = false)) ∧
  (∀ (page : BitVec 52) (r : IoReq) (s : State), page.toNat ∈ s.hw.host.asked → s.hw.host.ioWait = [r] → r.addr / 4096 = page.toNat →
    (∀ tr rd wr n, (if r.write then wr else rd) = true → s.becomes (.atsTranslationCompletion page (.ok tr rd wr n)) fun t =>
      let span := 2 ^ n
      let a := (tr / span * span + page.toNat % span) * 4096 + r.addr % 4096
      t.host.io = s.hw.host.io ++ [r] ∧ t.host.ioWait = [] ∧ ⟨page.toNat / span * span, tr / span * span, rd, wr, span⟩ ∈ t.host.atc ∧
      t.out = (if r.write then .ioWrite r.id a r.data r.poison else .ioRead r.id a r.n) :: s.hw.out ∧
      t = { s.hw with host := t.host, out := t.out }) ∧
    (s.hw.host.paging.length < min 512 s.hw.host.prg → page.toNat ∉ s.hw.host.paging → (∀ k, k < 32 → s.hw.batch k = none) →
      s.becomes (.atsTranslationCompletion page .notPresent) fun t =>
        t.host = { s.hw.host with asked := s.hw.host.asked.filter (· != page.toNat), paging := s.hw.host.paging ++ [page.toNat] } ∧
        t.out = .pageRequest page.toNat r.write :: s.hw.out ∧ t.sram = s.hw.sram) ∧
    (∀ c word, r.dest = .drain c word → c < 64 → s.becomes (.atsTranslationCompletion page .error) fun t =>
      t.host.ioWait = [] ∧ (t.core c).faulted = true ∧ t.flag (CORE_STAT.RUN c) = false)) ∧
  (∀ (page : BitVec 52) (r : IoReq) (s : State), page.toNat ∈ s.hw.host.paging → s.hw.host.ioWait = [r] → r.addr / 4096 = page.toNat →
    (∀ k, k < 32 → s.hw.batch k = none) →
    (s.hw.host.asked = [] → s.becomes (.pageGroupResponse page true) fun t =>
      t.host = { s.hw.host with asked := [page.toNat], paging := s.hw.host.paging.filter (· != page.toNat) } ∧
      t.out = .atsRequest page.toNat r.write :: s.hw.out ∧ t.sram = s.hw.sram) ∧
    (∀ c word, r.dest = .drain c word → c < 64 → s.becomes (.pageGroupResponse page false) fun t =>
      t.host.ioWait = [] ∧ (t.core c).faulted = true ∧ t.flag (CORE_STAT.RUN c) = false)) ∧
  (∀ (page : BitVec 52) (pages : Nat) (s : State), s.hw.host.inv = [] →
    let kept := s.hw.host.atc.filter fun e => !(decide (page.toNat < e.page + e.span) && decide (e.page < page.toNat + pages))
    let busy := s.hw.host.io.any fun r => decide (page.toNat ≤ r.addr / 4096) && decide (r.addr / 4096 < page.toNat + pages)
    (busy = false → s.becomes (.atsInvalidate page pages) fun t => t.host = { s.hw.host with atc := kept } ∧ t.out = .atsInvDone page.toNat :: s.hw.out ∧
      t = { s.hw with host := t.host, out := t.out }) ∧
    (busy = true → s.becomes (.atsInvalidate page pages) fun t => t = { s.hw with host := { s.hw.host with atc := kept, inv := [(page.toNat, pages)] } }))

/-! ## The access stream (R213, R227, R261 to R281) -/

/-- The access word `w`, of operation `op`, stands at the access stream's pc of core `c`, and neither a break nor a reserved bit keeps it
from issuing. -/
def Sys2Proof.Machine.Hw.accessStands (h : Hw) (c op w : Nat) : Prop :=
  h.streamOn c = true ∧ (h.core c).ast = .running ∧ h.flag (CORE_BRK.ACNT_EN c) = false ∧ accBase h c ≤ (h.core c).apc ∧ (h.core c).apc + 16 ≤ 0x20000 ∧
    h.accWord c (h.core c).apc = w ∧ w % 256 = op ∧ accBad w = false ∧ (h.core c).await = none

/-- And no stop of R213 does, and no loop ends at it. -/
def Sys2Proof.Machine.Hw.accessAt (h : Hw) (c op w : Nat) : Prop :=
  h.accessStands c op w ∧ h.accStops c w = false ∧ lendOf (h.core c).aloops (h.core c).apc = 0 ∧ wLend w = 0

/-- And it waits for nothing. -/
def Sys2Proof.Machine.Hw.accessReady (h : Hw) (c op w : Nat) : Prop := h.accessAt c op w ∧ wKind w = 0

/-- The word has issued: it is counted and numbered, and the stream stands at `next`. Nothing but registers, cores and waiting batches changed. -/
def Sys2Proof.Machine.Hw.accessWent (a b : Hw) (c next : Nat) : Prop :=
  (b.core c).apc = next ∧ (b.core c).acount = (a.core c).acount + 1 ∧ (b.core c).wordId = (a.core c).wordId + 1 ∧ (b.core c).await = none ∧
    b.get (TEL_CORE.AWORDS c) = satAdd (TEL_CORE.AWORDS c).width (a.get (TEL_CORE.AWORDS c)) 1 ∧
    b = { a with csr := b.csr, cores := b.cores, chans := b.chans }

/-- The one armed word of core `c` that may generate is `a`, in queue `q`, and nothing waits at the near port. -/
def Sys2Proof.Machine.Hw.onlyTurn (h : Hw) (c q : Nat) (a : Armed) : Prop :=
  h.streamOn c = true ∧ (h.core c).portWait = false ∧ (h.core c).port = [] ∧ (h.core c).turn q = [a] ∧ a.queue = q ∧ (h.core c).armedOf a.id = some a ∧
    ((h.core c).armed.filter fun b => ((h.core c).turn b.queue).any fun x => x.id == b.id) = [a]

/-- That word's next tile is closed, and lies in bits `ps` of one word of SRAM, word `w` of its space, at `x`; nothing is kept of earlier reads. `h` is the
module once the near port's cycle has begun. -/
def Sys2Proof.Machine.Hw.oneTile (h : Hw) (c : Nat) (a : Armed) (w x : Nat) (ps : List Place) : Prop :=
  (h.nextTile c a).stat = .closed ∧ 0 < (h.nextTile c a).bits ∧ (h.nextTile c a).h = h ∧ (h.nextTile c a).a.id = a.id ∧ ps ≠ [] ∧
    (∀ b ∈ (h.nextTile c a).a :: (h.core c).armed, b.kept = []) ∧ ∃ pos tail idx, groupParts (h.nextTile c a).parts = [⟨w, .sram x, ps, pos, false, tail, idx⟩]

/-- O54. FETCH and DRAIN arm the word with its latched descriptor and record, and halt the core on a descriptor's fault; DMA hands its batch to its channel;
SYNC signals, or waits until its object is met; LOOP opens its body or skips it; STOP ends the stream; a resumed stream issues the word at which it stands.
A tile of one SRAM word is fetched into its queue, an output tile of one is stored there, under its byte mask, and leaves its queue, a dispatch tile becomes
16 records once one can be taken in, unless others of its core still wait, a late one holds the core; each time the cycle goes on with the next tile. A take
is not subtracted while something else stops its word. A walk caches the entry that it finds. -/
def Obligations.AccessStream : Prop :=
  (∀ (c : Fin 64) (w : Nat) (s : State), sKind w = 0 →
    let pc := (s.hw.core c).apc
    let l := s.hw.leader c
    (∀ x ∈ [(Instr.fetch c, 1), (Instr.drain c, 2)], s.hw.accessReady c x.2 w →
      ((s.hw.arm c pc w).1 = 0 → s.becomes x.1 fun t => s.hw.accessWent t c (pc + 16) ∧ ∃ a : Armed, (t.core c).armed = (s.hw.core c).armed ++ [a] ∧
        a.id = (s.hw.core c).wordId ∧ a.pc = pc ∧ a.drain = (x.2 == 2) ∧ a.queue = bitsOf w 64 3 ∧ a.handle = bitsOf w 67 8 ∧
        a.desc = s.hw.descOf c (bitsOf w 67 8) ∧ a.rcd = s.hw.recordOf c (bitsOf w 83 8) ∧ a.done = false) ∧
      ((s.hw.arm c pc w).1 ≠ 0 → s.becomes x.1 fun t => (t.core c).faulted = true ∧ t.flag (CORE_STAT.RUN c) = false ∧
        (t.core c).armed = (s.hw.core c).armed ∧ t.sram = s.hw.sram ∧ t.dram = s.hw.dram)) ∧
    (s.hw.accessReady c 4 w →
      let off := s.hw.pLatch l (bitsOf w 75 5)
      let k := bitsOf w 64 5
      let n := bitsOf w 69 6 + 1
      (off % 64 = 0 → off + 16 * n ≤ 0x100000 → s.becomes (.dma c) fun t => s.hw.accessWent t c (pc + 16) ∧
        (t.chan k).next = (s.hw.chan k).next ++ [(c.val, (s.hw.core c).wordId, n, off)] ∧
        (t.core c).dmas = ((s.hw.core c).dmas.filter fun d => !d.ended) ++ [⟨(s.hw.core c).wordId, k, pc, wTag w, false, false, false⟩]) ∧
      (off % 64 ≠ 0 → s.becomes (.dma c) fun t => (t.core c).faulted = true ∧ t.flag (CORE_STAT.RUN c) = false ∧ t.chans = s.hw.chans)) ∧
    (s.hw.accessReady c 6 w → s.becomes (.sync c) fun t => s.hw.accessWent t c (pc + 16)) ∧
    (s.hw.accessReady c 6 w → s.becomes (.accessStreamResume c) fun t => s.hw.accessWent t c (pc + 16)) ∧
    (s.hw.accessReady c 7 w →
      let n := s.hw.pLatch l (bitsOf w 77 5)
      let last := bitsOf w 64 13 * 16
      n < 2 ^ 24 → (s.hw.core c).aloops.length < 4 → pc < last → accBase s.hw c ≤ last → last < 0x20000 → (∀ x ∈ (s.hw.core c).aloops, last < x.last) →
        s.becomes (.accessLoop c) fun t =>
          s.hw.accessWent t c (if n = 0 then last + 16 else pc + 16) ∧
          (t.core c).aloops = if n = 0 then (s.hw.core c).aloops else ⟨pc + 16, last, n⟩ :: (s.hw.core c).aloops) ∧
    (s.hw.accessReady c 8 w → s.becomes (.accessStop c) fun t => s.hw.accessWent t c pc ∧ (t.core c).ast = .ended ∧
      ((s.hw.core l).sst ≠ .stopped → t.flag (CORE_STAT.RUN c) = true) ∧
      (s.hw.groupSize c = 1 → (s.hw.core c).sst = .stopped → ({ s.hw.core c with ast := .ended } : CoreSt).spent = true → t.flag (CORE_STAT.RUN c) = false))) ∧
  (∀ (c : Fin 64) (w : Nat) (s : State),
    let pc := (s.hw.core c).apc
    let l := s.hw.leader c
    (∀ P, s.hw.accessReady c 6 w → s.becomes (.sync c) P → s.becomes (.accessStreamResume c) P) ∧
    (s.hw.accessReady c 6 w → sKind w = 1 → wFence w = false → (s.hw.core c).adef = [] → s.hw.room l (sIdx w) (sAmt w) → s.becomes (.sync c) fun t =>
      s.hw.accessWent t c (pc + 16) ∧ t.get (SYNC_VAL.VALUE l (sIdx w)) = s.hw.get (SYNC_VAL.VALUE l (sIdx w)) + sAmt w) ∧
    (s.hw.accessReady c 6 w → sKind w = 1 → wFence w = true → (s.hw.core c).adef = [] → (s.hw.core c).beforeDone (s.hw.core c).wordId false = false →
      s.becomes (.sync c) fun t => s.hw.accessWent t c (pc + 16) ∧ (t.core c).adef = [⟨1, sIdx w, sAmt w, pc, .before (s.hw.core c).wordId, some (wTag w)⟩] ∧
        t.get (SYNC_VAL.VALUE l (sIdx w)) = s.hw.get (SYNC_VAL.VALUE l (sIdx w))) ∧
    (s.hw.accessAt c 6 w → sKind w = 0 → wKind w = 1 → wSrc w = false → s.hw.groupSize c = 1 → s.hw.flag (SYNC_VAL.VOID c (wIdx w)) = false →
      s.hw.flag (SYNC_VAL.ABORTED c (wIdx w)) = false →
      (wAmt w ≤ s.hw.get (SYNC_VAL.VALUE c (wIdx w)) → s.becomes (.sync c) fun t => (t.core c).apc = pc + 16 ∧ (t.core c).await = none) ∧
      (s.hw.get (SYNC_VAL.VALUE c (wIdx w)) < wAmt w → s.becomes (.sync c) fun t => (t.core c).apc = pc ∧
        (t.core c).await = some ⟨1, wIdx w, wAmt w, s.hw.get (CORE_CYCLE.CYCLE c), false, false⟩)) ∧
    (∀ x ∈ [(Instr.fetch c, 1), (Instr.drain c, 2), (Instr.dma c, 4), (Instr.sync c, 6)], s.hw.accessStands c x.2 w → s.hw.accStops c w = true →
      wKind w = 2 → wSrc w = false → s.hw.groupSize c = 1 → s.hw.flag (SYNC_VAL.VOID c (wIdx w)) = false → s.hw.flag (SYNC_VAL.ABORTED c (wIdx w)) = false →
      (s.hw.core c).xwait = none → (s.hw.core c).swait = none → s.becomes x.1 fun t => (t.core c).apc = pc ∧
        (t.core c).await = some ⟨2, wIdx w, wAmt w, s.hw.get (CORE_CYCLE.CYCLE c), false, false⟩ ∧
        t.get (SYNC_VAL.VALUE c (wIdx w)) = s.hw.get (SYNC_VAL.VALUE c (wIdx w)))) ∧
  (∀ (c : Fin 64) (q : Fin 6) (flt : List SramFault) (a : Armed) (w x : Nat) (ps : List Place) (s : State), (s.hw.sramFaults flt).onlyTurn c q a →
    let h := (s.hw.sramFaults flt).portGo c
    let tile := h.nextTile c a
    let ends := fun (t g : Hw) => t = g.makeTiles c 447 ∧ ((h.core c).armed = [a] → tile.a.done = true → tile.a.carry = none → t = g)
    (h.oneTile c a w x ps → a.drain = false → ((h.core c).queue q).length < 64 → (∀ p ∈ ps, p.dst < 256) → (∀ e ∈ (h.core c).queue q, e.id ≠ (h.core c).entId) →
      s.becomes (.tileGenerate c q flt) fun t => ∃ g : Hw, ends t g ∧ g.sram = h.sram ∧ ∃ e : QEnt, (g.core c).queue q = (h.core c).queue q ++ [e] ∧ e.word = some a.id ∧
        e.complete = true ∧ (e.slots.getD 0 {}).data = ps.foldl (fun v p => placeBits v (BitVec.ofNat 256 (h.sread x 32)) p) 0 ∧
        (e.slots.getD 0 {}).mark = (tile.mark || h.smark x)) ∧
    (∀ e rest, (h.core c).queue q = e :: rest → e.seen ≤ h.get (CORE_CYCLE.CYCLE (h.leader c)) → a.drain = true →
      let data := (List.range 8).foldl (fun v j => v + (e.slots.getD j {}).data.toNat * 2 ^ (256 * j)) 0
      let put := drainWord data (e.slots.map (·.mark)) tile.a.parts w ps
      (h.oneTile c a w x ps → Rcd.dest a.rcd ≠ 1 → Desc.space a.desc ≠ 4 → e.late = false → e.complete = true →
        s.becomes (.tileGenerate c q flt) fun t => ∃ g : Hw, ends t g ∧
          (g.core c).queue q = rest ∧ g.dram = h.dram ∧ g.smark x = (put.2.2.1 || tile.mark || (h.smark x && put.2.1 != 0xFFFFFFFF#32)) ∧
          ∀ b, Memory.read g.sram b = if x ≤ b ∧ put.2.1.getLsbD (b - x) = true then BitVec.ofNat 8 (bitsOf put.1.toNat (8 * (b - x)) 8)
            else Memory.read h.sram b) ∧
      (Rcd.dest a.rcd = 1 → e.late = false → e.complete = true →
        let recs := (List.range 16).map fun i => recAt data i ((e.slots.map (·.mark)).getD (i / 2) false)
        (∀ d, h.disp = some d → (∀ y ∈ h.drl.queue, y.1 ≠ c.val) →
          ((∃ r ∈ recs, h.mayTake d c r = true) → s.becomes (.tileGenerate c q flt) fun t => ∃ g : Hw, t = g.makeTiles c 447 ∧
            (g.core c).queue q = rest ∧ g.drl = { h.drl with queue := h.drl.queue ++ recs.map fun r => (c.val, r) } ∧ g.sram = h.sram) ∧
          ((∀ r ∈ recs, h.mayTake d c r = false) → s.becomes (.tileGenerate c q flt) fun t => t = h.drlOver d recs)) ∧
        ((∃ y ∈ h.drl.queue, y.1 = c.val) → s.becomes (.tileGenerate c q flt) fun t => t = h)) ∧
      (e.late = true → s.becomes (.tileGenerate c q flt) fun t =>
        t.flag (CORE_STAT.HOLD (h.leader c)) = true ∧ (t.core (h.leader c)).hold = some ⟨.late, [(8 * c.val + a.queue, e.id)]⟩ ∧ t.sram = h.sram))) ∧
  (∀ (c : Fin 64) (va : BitVec 48) (s : State),
    let p := va.toNat / 2 ^ 21
    (tget (fun _ => none) (s.hw.core c).tlb p = none → s.hw.flag MAP_PTROOT.PTV = true → (s.hw.walk p (reqArg 2 c 0)).1 ≠ 0 → s.becomes (.translationWalkDone c va) fun t =>
      t = (s.hw.walk p (reqArg 2 c 0)).2.modCore c (fun y => { y with tlb := tset (fun _ => none) y.tlb p (some (s.hw.walk p (reqArg 2 c 0)).1) })) ∧
    ((tget (fun _ => none) (s.hw.core c).tlb p).isSome = true ∨ s.hw.flag MAP_PTROOT.PTV = false → s.stays (.translationWalkDone c va)))

/-! ## The execute stream (R214 to R222, R231 to R237, R248 to R260) -/

/-- The long word `w` stands at the execute stream's pc of the unfused core `c` and passes the checks of its encoding; no result is on its way, and neither a
break nor a branch is open. -/
def Sys2Proof.Machine.Hw.execAt (h : Hw) (c : Nat) (w : XWord) : Prop :=
  h.groupSize c = 1 ∧ h.clocked c = true ∧ (h.core c).xst = .running ∧ h.flag (CORE_BRK.XCNT_EN c) = false ∧ h.flag (CORE_BRK.TAG_EN c) = false ∧
    (h.core c).lands = [] ∧ (h.core c).stepping = false ∧ (h.core c).legacy = none ∧ (h.core c).xpc % 4 = 0 ∧ execBase h c ≤ (h.core c).xpc ∧
    (h.core c).xpc + w.len ≤ execEnd h c ∧ h.longWord c (h.core c).xpc = w ∧ h.encodingFault c w = none

/-- And it waits for nothing and signals nothing. -/
def Sys2Proof.Machine.Hw.execStands (h : Hw) (c : Nat) (w : XWord) : Prop :=
  h.execAt c w ∧ (h.core c).xwait = none ∧ wKind w.hdr = 0 ∧ sKind w.hdr = 0

/-- And it passes its other checks, and no loop is open. -/
def Sys2Proof.Machine.Hw.execReady (h : Hw) (c : Nat) (w : XWord) : Prop :=
  h.execStands c w ∧ (h.core c).xloops = [] ∧ h.wordFault c (h.core c).xpc w = none ∧ h.holdOf c w = none ∧ h.packetFault c w = none

/-- The word has issued: it is counted, the stream stands at `next`, and one core cycle has passed. -/
def Sys2Proof.Machine.Hw.execWent (a b : Hw) (c next : Nat) : Prop :=
  (b.core c).xpc = next ∧ (b.core c).xcount = (a.core c).xcount + 1 ∧
    b.get (CORE_CYCLE.CYCLE c) = (a.get (CORE_CYCLE.CYCLE c) + 1) % 2 ^ 48 ∧
    b.get (TEL_CORE.XWORDS c) = satAdd (TEL_CORE.XWORDS c).width (a.get (TEL_CORE.XWORDS c)) 1 ∧ b.dram = a.dram

/-- O55. A long word issues in one core cycle. A pop empties its entry into the B registers, a vector operation and an MMA work on every engine of the core,
TCFG latches its descriptors, a push fills an entry of its queue, GET and PUT move a lane, STOP ends the stream and LOOP opens its body; results land after
their latency. A legacy branch takes effect after its two delay words. A due result lands where its slot said. A hold ends once what it waits for is
complete. A break stops a running core and is passed by RESUME and STEP, for one core or for all. -/
def Obligations.ExecuteStream : Prop :=
  (∀ (c : Fin 64) (w : XWord) (flt : List SramFault) (s : State),
    let h := s.hw.sramFaults flt
    let pc := (h.core c).xpc
    let now := h.get (CORE_CYCLE.CYCLE c)
    h.execReady c w → wFmt w.hdr = 0 →
      (w.present = [] → s.becomes (.execWordIssue c flt) fun t => h.execWent t c (pc + w.len) ∧ (t.core c).lands = [] ∧ t.engs = h.engs) ∧
      (∀ x e rest, w.present = [(2, x)] → pMode x = 0 → (h.core c).queue (pQueue x) = e :: rest → (∀ y ∈ rest, y.id ≠ e.id) →
        s.becomes (.execWordIssue c flt) fun t => h.execWent t c (pc + w.len) ∧ (t.core c).queue (pQueue x) = rest ∧
          ∃ marks : Nat → Nat, (t.core c).lands = (List.range 8).map fun k =>
            ⟨now + (if h.flag (CORE_STAT.COMPAT c) then 6 else 5), .breg (8 * c + k) (32 * pDst x) 32 (marks k), (e.slots.getD k {}).data.toNat⟩) ∧
      (∀ x, w.present = [(1, x)] → (1 ≤ vOp x ∧ vOp x ≤ 0xA) ∨ (0x10 ≤ vOp x ∧ vOp x ≤ 0x17) → s.becomes (.execWordIssue c flt) fun t =>
        h.execWent t c (pc + w.len) ∧ ∃ marks : Nat → Bool, (t.core c).lands = (List.range 8).map fun k =>
          let v := fun (n i : Nat) => (h.operand (8 * c + k) n).1.getD i 0
          ⟨now + (h.vTiming c x).2, h.vecDest (8 * c + k) (vDst x) 32 (marks k), packLanes ((List.range 32).map fun i =>
            laneOp (vOp x) (vMod x) (v (vA x) i) (if vUsesB (vOp x) then v (vB x) i else 0) (if vOp x = 4 then v (vDst x) i else 0))⟩) ∧
      (∀ x, w.present = [(0, x)] →
        (tOp x = 1 → s.becomes (.execWordIssue c flt) fun t => h.execWent t c (pc + w.len) ∧ (t.core c).lands = [] ∧ ∀ k, k < 8 →
          t.eng (8 * c + k) = { h.eng (8 * c + k) with tcfg := some { b := h.descOf c (tBh x), a := h.descOf c (tAh x), tok := 2 ^ tTok x, abase := tAbase x,
                                                                      ah := tAh x } }) ∧
        (∀ y, tOp x = 0 → (h.eng (8 * c)).tcfg = some y → s.becomes (.execWordIssue c flt) fun t =>
          h.execWent t c (pc + w.len) ∧ (t.core c).tFree = now + (h.tTiming c y).1 ∧ ∃ marks : Nat → Bool,
            (t.core c).lands = (List.range 8).map fun k =>
              ⟨now + (h.tTiming c y).2, .acc (8 * c + k) (tAcc x) (tClear x) (h.products (8 * c + k) y x) (marks k), 0⟩)) ∧
      (∀ x, w.present = [(4, x)] →
        (oQueue x ≠ 6 → Desc.type (h.descOf c (oHandle x)) = 0 → s.becomes (.execWordIssue c flt) fun t => h.execWent t c (pc + w.len) ∧
          ∃ e : QEnt, (t.core c).queue (oQueue x) = (h.core c).queue (oQueue x) ++ [e] ∧ e.word = none ∧ e.seen = now + 3 ∧ e.slots.length = 8 ∧
            e.complete = true ∧ ∀ k, k < 8 → (e.slots.getD k {}).data = BitVec.ofNat 256 (packCodes 32 ((List.range 8).map fun i =>
              ((h.operand (8 * c + k) (oSrc x)).1.getD (8 * oPart x + i) 0).toNat))) ∧
        (oQueue x = 6 → s.becomes (.execWordIssue c flt) fun t => h.execWent t c (pc + w.len) ∧
          (t.core c).gate = (h.core c).gate ++ [((h.eng (8 * c)).maskReg, now + 3)])) ∧
      (∀ x, w.present = [(6, x)] → sOp x < 3 → s.becomes (.execWordIssue c flt) fun t => h.execWent t c (pc + w.len) ∧
        let e := 8 * c.val + sEng x
        let v := (if sSel x then (h.eng e).sres else (h.operand e (sSrc x)).1.getD (sLane x) 0).toNat
        (t.core c).lands = (if sOp x = 1 then [] else [⟨now + 5, .sreg (sReg x), v⟩]) ++ if sOp x = 0 then [] else [⟨now + 5, .preg (sReg x), v⟩]) ∧
      (∀ x, w.present = [(7, x)] →
        (lOp x = 2 → s.becomes (.execWordIssue c flt) fun t => h.execWent t c (pc + w.len) ∧ (t.core c).xst = .ended ∧
          ((h.core c).sst ≠ .stopped → t.flag (CORE_STAT.RUN c) = true)) ∧
        (∀ n, lOp x = 1 → h.pLatch c (lReg x) = n → 0 < n → s.becomes (.execWordIssue c flt) fun t =>
          h.execWent t c (pc + w.len) ∧ (t.core c).xloops = [⟨pc + w.len, lOff x, n⟩]))) ∧
  (∀ (c : Fin 64) (w : XWord) (x : Nat) (s : State), s.hw.execReady c w → wFmt w.hdr = 1 → s.hw.flag (CORE_STAT.COMPAT c) = true → w.present = [(7, x)] →
    s.becomes (.legacyConditionalWord c) fun t => s.hw.execWent t c ((s.hw.core c).xpc + w.len) ∧
      (t.core c).legacy = if (s.hw.sreg c (lReg x)).getLsbD 0 then some (2, lOff x) else none) ∧
  (∀ (c : Fin 64) (due v : Nat) (d : Dest) (s : State), s.hw.groupSize c = 1 → s.hw.flag (CORE_STAT.HOLD c) = false → s.hw.flag (CORE_STAT.BROKEN c) = false →
    s.hw.pllOff = false → (s.hw.core c).lands = [⟨due, d, v⟩] → due ≤ s.hw.get (CORE_CYCLE.CYCLE c) →
      (∀ i, d = .sreg i → s.becomes (.execResultLand c) fun t => (t.core c).lands = [] ∧ t.sreg c i = BitVec.ofNat 32 v ∧
        (∀ j, j ≠ i → t.sreg c j = s.hw.sreg c j) ∧ t = { s.hw with cores := t.cores }) ∧
      (∀ e r, d = .row e r 32 false → s.becomes (.execResultLand c) fun t => (t.core c).lands = [] ∧ t = { s.hw with cores := t.cores, engs := t.engs } ∧
        ∀ i, i < 32 → tget (fun _ => 0#32) (t.eng e).acc (32 * r + i) = BitVec.ofNat 32 (bitsOf v (32 * i) 32)) ∧
      (∀ e r clear prods, d = .acc e r clear prods false → s.becomes (.execResultLand c) fun t => (t.core c).lands = [] ∧
        ∀ i, i < 32 → tget (fun _ => 0#32) (t.eng e).acc (32 * r + i) =
          accumulate clear (tget (fun _ => 0#32) (s.hw.eng e).acc (32 * r + i)) (prods.getD i (.fin true 0 0)))) ∧
  (∀ (c : Fin 64) (x : Hold) (s : State), s.hw.groupSize c = 1 → (s.hw.core c).hold = some x → s.hw.pllOff = false → (s.hw.core c).haltReq = false →
    (s.hw.core c).gearHold = false → (s.hw.core c).imgHold = false →
    (∀ e ∈ x.ents, ∃ y, (((s.hw.core (e.1 / 8)).queue (e.1 % 8)).find? fun (z : QEnt) => z.id == e.2) = some y ∧ y.complete = true) →
    s.becomes (.coreHoldEnd c) fun t => (t.core c).hold = none ∧ t.flag (CORE_STAT.HOLD c) = false ∧ t.sram = s.hw.sram) ∧
  (∀ (c : Fin 64) (s : State), s.hw.groupSize c = 1 →
    (s.hw.flag (CORE_STAT.RUN c) = true → s.hw.flag (CORE_STAT.BROKEN c) = false → s.hw.pllOff = false →
      (s.hw.flag (CORE_STAT.HOLD c) = false → s.hw.get (CORE_HALT_INFO.CODE c) = 0 → s.becomes (.haltReq c) fun t =>
        t.flag (CORE_STAT.BROKEN c) = true ∧ t.flag (CORE_STAT.RUN c) = true ∧ t.get (CORE_HALT_INFO.CODE c) = 0x0F ∧
        (t.core c).xpc = (s.hw.core c).xpc ∧ ∀ k, k ≠ c.val → t.core k = s.hw.core k) ∧
      (s.hw.flag (CORE_STAT.HOLD c) = true → s.becomes (.haltReq c) fun t => (t.core c).haltReq = true ∧ t = { s.hw with cores := t.cores })) ∧
    (s.hw.flag (CORE_STAT.BROKEN c) = true →
      (s.becomes (.resume c) fun t => t.flag (CORE_STAT.BROKEN c) = false ∧ (t.core c).stepping = false ∧ s.hw.regsBut t [CORE_STAT.off c]) ∧
      (s.becomes (.step c) fun t => t.flag (CORE_STAT.BROKEN c) = false ∧ (t.core c).stepping = true ∧ s.hw.regsBut t [CORE_STAT.off c])) ∧
    (s.hw.flag (CORE_STAT.BROKEN c) = false → s.stays (.resume c) ∧ s.stays (.step c))) ∧
  (∀ s : State, (∀ c, c < 64 → s.hw.groupSize c = 1) →
    ((∀ c, c < 64 → s.hw.flag (CORE_STAT.RUN c) = true ∧ s.hw.flag (CORE_STAT.BROKEN c) = false ∧ s.hw.flag (CORE_STAT.HOLD c) = false) → s.hw.pllOff = false →
      s.becomes .brkAll fun t => (∀ c, c < 64 → t.flag (CORE_STAT.BROKEN c) = true) ∧ t.sram = s.hw.sram) ∧
    ((∀ c, c < 64 → s.hw.flag (CORE_STAT.BROKEN c) = true) →
      (s.becomes .resumeAll fun t => ∀ c, c < 64 → t.flag (CORE_STAT.BROKEN c) = false ∧ (t.core c).stepping = false) ∧
      (s.becomes .stepAll fun t => ∀ c, c < 64 → t.flag (CORE_STAT.BROKEN c) = false ∧ (t.core c).stepping = true)))

/-! ## Rules of both streams, each stated whole (R217, R243, R247) -/

/-- Core `c` has stopped with code 0x02 of stream `st`, recorded where its group had recorded none; nothing but registers and cores changed, and no word of
core `c` has issued. -/
def Sys2Proof.Machine.Hw.stopped02 (a b : Hw) (c st : Nat) : Prop :=
  (b.core c).faulted = true ∧ b.flag (CORE_STAT.RUN c) = false ∧ b.flag (CORE_STAT.HALTED c) = true ∧
    (a.get (CORE_HALT_INFO.CODE (a.leader c)) = 0 → b.get (CORE_HALT_INFO.CODE (a.leader c)) = 0x02 ∧ b.get (CORE_HALT_INFO.STREAM (a.leader c)) = st) ∧
    (b.core c).apc = (a.core c).apc ∧ (b.core c).acount = (a.core c).acount ∧ (b.core c).xpc = (a.core c).xpc ∧ (b.core c).xcount = (a.core c).xcount ∧
    (b.core c).q = (a.core c).q ∧ b.engs = a.engs ∧ b.chans = a.chans ∧ b.sram = a.sram ∧ b.dram = a.dram

/-- O56. LEND equals the number of open loop bodies whose last word is this word: a word that disagrees halts the core with code 0x02 and does not issue, in
the access stream and in the execute stream; a SYNC that agrees issues. -/
def Obligations.LoopEnds : Prop :=
  (∀ (c : Fin 64) (w : Nat) (s : State),
    let n := lendOf (s.hw.core c).aloops (s.hw.core c).apc
    (∀ x ∈ [(Instr.fetch c, 1), (.drain c, 2), (.dma c, 4), (.sync c, 6), (.accessLoop c, 7), (.accessStop c, 8)], s.hw.accessStands c x.2 w → wKind w = 0 →
      s.hw.accStops c w = false → n ≠ wLend w → s.becomes x.1 (s.hw.stopped02 · c 1) ∧ s.becomes (.accessStreamResume c) (s.hw.stopped02 · c 1)) ∧
    (s.hw.accessStands c 6 w → wKind w = 0 → sKind w = 0 → s.hw.accStops c w = false → n = wLend w → s.becomes (.sync c) fun t =>
      (t.core c).acount = (s.hw.core c).acount + 1 ∧ (t.core c).faulted = (s.hw.core c).faulted)) ∧
  (∀ (c : Fin 64) (w : XWord) (flt : List SramFault) (s : State),
    let h := s.hw.sramFaults flt
    let n := lendOf (h.core c).xloops (h.core c).xpc
    h.execStands c w → wFmt w.hdr = 0 →
      (n ≠ wLend w.hdr → s.becomes (.execWordIssue c flt) (h.stopped02 · c 0)) ∧
      (n = wLend w.hdr → w.present = [] → s.becomes (.execWordIssue c flt) fun t => (t.core c).xcount = (h.core c).xcount + 1))

/-- O57. A slot that starts an operation on a unit that is still inside its issue interval halts the core with code 0x02. When P0 and P1 of one word name
the same queue, P0 takes the head entry and P1 the next one. -/
def Obligations.IssueIntervals : Prop :=
  ∀ (c : Fin 64) (w : XWord) (flt : List SramFault) (s : State),
    let h := s.hw.sramFaults flt
    let now := h.get (CORE_CYCLE.CYCLE c)
    (h.execStands c w → wFmt w.hdr = 0 → (h.loopOutcome c (h.core c).xpc w).1 = 0 → (∀ x ∈ w.present, h.descFault c x.1 x.2 = none) → h.popFault c w = none →
      (∃ x, w.slot 0 = some x ∧ tOp x = 0) ∧ now < (h.core c).tFree ∨ (w.slot 1).isSome ∧ now < (h.core c).vFree →
      s.becomes (.execWordIssue c flt) (h.stopped02 · c 0)) ∧
    (∀ x y e₁ e₂ rest, h.execReady c w → wFmt w.hdr = 0 → w.present = [(2, x), (3, y)] → pMode x = 0 → pMode y = 0 → pQueue x = pQueue y →
      (h.core c).queue (pQueue x) = e₁ :: e₂ :: rest → (∀ z ∈ e₂ :: rest, z.id ≠ e₁.id) → (∀ z ∈ rest, z.id ≠ e₂.id) →
      s.becomes (.execWordIssue c flt) fun t => (t.core c).queue (pQueue x) = rest ∧
        ∃ at' : Nat, ∃ marks : Nat → Nat → Nat, (t.core c).lands =
          ((List.range 8).map fun k => ⟨at', .breg (8 * c + k) (32 * pDst x) 32 (marks 0 k), (e₁.slots.getD k {}).data.toNat⟩) ++
          (List.range 8).map fun k => ⟨at', .breg (8 * c + k) (32 * pDst y) 32 (marks 1 k), (e₂.slots.getD k {}).data.toNat⟩)

/-- No write of this cycle has met parameter register `i`, and no result for it is due. -/
def Sys2Proof.Machine.Hw.pFresh (h : Hw) (c i : Nat) : Prop :=
  let x := h.pLastOf c i
  (x.2.2.1 = 0 ∨ x.1 ≠ h.get (CORE_CYCLE.CYCLE c) ∨ x.2.1 + 1 < (h.core c).sub) ∧
    ∀ y ∈ (h.core c).lands, y.dest = .preg i → h.get (CORE_CYCLE.CYCLE c) < y.at'

/-- O58. With WSRC = 1 the amount of a wait is the value of the p register when the word first stands next to issue, without the writes of that cycle
(an S-slot result counts, which can be read in the cycle in which it lands, R218); the word that stands keeps that amount, whatever the register holds later, in both streams, and is released by it. -/
def Obligations.WaitAmounts : Prop :=
  (∀ (c : Fin 64) (i : Fin 32) (prio : Nat) (v : W32) (s : State), 0 < prio → s.hw.pFresh c i →
    s.hw.pLatch c i = s.hw.get (CORE_PARAM.VALUE c i) ∧
      (s.hw.pWrite c i prio v).pLatch c i = (if prio = 3 then v.toNat else s.hw.get (CORE_PARAM.VALUE c i)) ∧
      (s.hw.pWrite c i prio v).get (CORE_PARAM.VALUE c i) = v.toNat) ∧
  (∀ (c : Fin 64) (w : Nat) (s : State), s.hw.groupSize c = 1 → wKind w = 1 → wSrc w = true →
    let n := s.hw.pLatch c (wAmt w)
    let v := s.hw.get (SYNC_VAL.VALUE c (wIdx w))
    (s.hw.accessStands c 6 w → s.hw.flag (SYNC_VAL.VOID c (wIdx w)) = false → s.hw.flag (SYNC_VAL.ABORTED c (wIdx w)) = false →
      (v < n → s.becomes (.sync c) fun t => (t.core c).apc = (s.hw.core c).apc ∧
        (t.core c).await = some ⟨1, wIdx w, n, s.hw.get (CORE_CYCLE.CYCLE c), false, false⟩) ∧
      (n ≤ v → s.hw.accStops c w = false → sKind w = 0 → lendOf (s.hw.core c).aloops (s.hw.core c).apc = 0 → wLend w = 0 → s.becomes (.sync c) fun t =>
        (t.core c).apc = (s.hw.core c).apc + 16)) ∧
    (∀ x : Wait, (s.hw.core c).await = some x → x.released = false → x.kind = 1 → x.idx = wIdx w → v < x.amt → (s.hw.core c).xwait = none →
      (s.hw.core c).swait = none → s.hw.accWord c (s.hw.core c).apc = w → w % 256 = 6 → accBad w = false → s.hw.streamOn c = true →
      s.hw.flag (CORE_BRK.ACNT_EN c) = false → accBase s.hw c ≤ (s.hw.core c).apc → (s.hw.core c).apc + 16 ≤ 0x20000 → s.stays (.sync c)) ∧
    (∀ x : Wait, (s.hw.core c).await = some x → x.released = false → x.kind = 1 → x.idx = wIdx w → wIdx w < 48 → s.hw.streamOn c = true →
      (x.amt ≤ v → s.hw.accStops c (s.hw.accWord c (s.hw.core c).apc) = false → s.becomes (.waitRelease c (Fin.ofNat 48 (wIdx w))) fun t => (t.core c).await = some { x with released := true }) ∧
      (v < x.amt → s.becomes (.waitRelease c (Fin.ofNat 48 (wIdx w))) fun t => (t.core c).await = some x))) ∧
  (∀ (c : Fin 64) (w : XWord) (flt : List SramFault) (s : State),
    let h := s.hw.sramFaults flt
    let n := h.pLatch c (wAmt w.hdr)
    let v := h.get (SYNC_VAL.VALUE c (wIdx w.hdr))
    let now := h.get (CORE_CYCLE.CYCLE c)
    h.execAt c w → wFmt w.hdr = 0 → wKind w.hdr = 1 → wSrc w.hdr = true →
      ((h.core c).xwait = none → h.flag (SYNC_VAL.VOID c (wIdx w.hdr)) = false → h.flag (SYNC_VAL.ABORTED c (wIdx w.hdr)) = false → v < n →
        s.becomes (.execWordIssue c flt) fun t => (t.core c).xwait = some ⟨1, wIdx w.hdr, n, now, false, false⟩ ∧ (t.core c).xcount = (h.core c).xcount ∧
          t.get (CORE_CYCLE.CYCLE c) = (now + 1) % 2 ^ 48) ∧
      (∀ x : Wait, (h.core c).xwait = some x → x.released = false → x.kind = 1 → x.idx = wIdx w.hdr → v < x.amt → s.becomes (.execWordIssue c flt) fun t => (t.core c).xwait = some x ∧
        (t.core c).xcount = (h.core c).xcount ∧ t.get (CORE_CYCLE.CYCLE c) = (now + 1) % 2 ^ 48))

/-! ## Registers, the event queue's host side, and the debug paths (R7, R8, R488 to R504) -/

/-- Rows that write a register of the FAB or tower blocks, and how each waits for the root PLL. -/
def Sys2Proof.Machine.heldRows : List (Instr × RegAccess) :=
  ((List.finRange 8).flatMap fun t => [(.fzForce t, .fzForce t), (.scrubNow t, .scrubNow t), (.retrain t, .retrain t)]) ++
    (List.finRange 8).flatMap fun t => [true, false].flatMap fun v => [(.testOpenWrite t v, .testOpen t v), (.portEnableWrite t v, .portEnable t v)]

/-- O59. A register write stores an RW register, of four bytes only the half that it addresses, brings the power cap to the nearest bound, clears a W1C bit
where 1 is written unless an event of the same cycle set it, and does nothing where its size, its alignment, the release, the link or the block's domain forbids it; one of a block that the root PLL clocks waits while that is unlocked, and later ones behind it. EVT_HEAD consumes records up to
EVT_TAIL and no further; an ended window is one record, before one of the same housekeeping cycle with a higher code, or one lost record where the queue is full. The sideband and the test connector read registers,
write none at debug level 0, and only the test connector reaches memory, at level 2; their answers are messages of the model (log 48). The boundary scan
instructions select their registers. -/
def Obligations.RegistersAndPaths : Prop :=
  (∀ (v : BitVec 64) (s : State), s.hw.released = true → s.hw.host.link = true → s.hw.mode.regHeld = [] →
    (s.becomes (.registerWrite 0x50 8 v) fun t => t.get GID_SCRATCH.VALUE = v.toNat ∧ s.hw.regsBut t [0x50] ∧ t = { s.hw with csr := t.csr }) ∧
    (s.becomes (.registerWrite 0x54 4 v) fun t => t.get GID_SCRATCH.VALUE = s.hw.get GID_SCRATCH.VALUE % 2 ^ 32 + v.toNat % 2 ^ 32 * 2 ^ 32 ∧
      s.hw.regsBut t [0x50] ∧ t = { s.hw with csr := t.csr }) ∧
    (s.becomes (.registerWrite 0x30008 4 v) fun t => t.get PWR_CAP.CAP_W = max 300 (min 650 (v.toNat % 1024)) ∧
      t.get PWR_CAP.CAP_UNMET = (if v.getLsbD 10 ∧ (PWR_CAP.off, 10) ∉ s.hw.setNow then 0 else s.hw.get PWR_CAP.CAP_UNMET) ∧ s.hw.regsBut t [0x30008] ∧ t = { s.hw with csr := t.csr }) ∧
    ∀ c : Fin 64,
      (s.hw.flag (PWR_DOM.ON (c / 8)) = true → s.becomes (.registerWrite (BitVec.ofNat 25 (CORE_STAT.off c)) 4 0x100) fun t =>
        t.word (CORE_STAT.off c) = (if (CORE_STAT.off c, 8) ∈ s.hw.setNow then s.hw.word (CORE_STAT.off c) else
          s.hw.word (CORE_STAT.off c) &&& ~~~ 0x100#64) ∧ s.hw.regsBut t [CORE_STAT.off c] ∧ t = { s.hw with csr := t.csr }) ∧
      (s.hw.flag (PWR_DOM.ON (c / 8)) = false → s.stays (.registerWrite (BitVec.ofNat 25 (CORE_STAT.off c)) 4 v))) ∧
  (∀ (off : BitVec 25) (size : Nat) (v : BitVec 64) (s : State), (size ≠ 4 ∧ size ≠ 8) ∨ off.toNat % size ≠ 0 ∨ s.hw.released = false ∨ s.hw.host.link = false →
    s.stays (.registerWrite off size v)) ∧
  (∀ (off : BitVec 25) (size : Nat) (v : BitVec 64) (s : State), s.hw.released = true → s.hw.host.link = true → s.hw.pllOff = true → accessOk off.toNat size = true →
    pllBlock off.toNat = true ∨ s.hw.mode.regHeld ≠ [] → s.becomes (.registerWrite off size v) fun t =>
      t = { s.hw with mode := { s.hw.mode with regHeld := s.hw.mode.regHeld ++ [.write off.toNat size v.toNat] } }) ∧
  (∀ s : State, s.hw.pllOff = true → ∀ x ∈ heldRows, s.becomes x.1 fun t =>
    t = { s.hw with mode := { s.hw.mode with regHeld := s.hw.mode.regHeld ++ [x.2] } }) ∧
  (∀ (v : BitVec 10) (s : State),
    let ahead := (v.toNat + 1024 - s.hw.get EVT_HEAD.HEAD) % 1024
    (ahead ≤ s.hw.evtUsed → s.becomes (.evtHeadWrite v) fun t => t.get EVT_HEAD.HEAD = v.toNat ∧ t.evtUsed = s.hw.evtUsed - ahead ∧
      s.hw.regsBut t [EVT_HEAD.off] ∧ t = { s.hw with csr := t.csr }) ∧
    (s.hw.evtUsed < ahead → s.stays (.evtHeadWrite v))) ∧
  (∀ (n : Nat) (s : State),
    let tail := s.hw.get EVT_TAIL.TAIL
    let phase := s.hw.get EVT_TAIL.PHASE
    (∀ e, s.hw.evt.wins[n]? = some e →
      (s.hw.evtUsed < 1023 → s.hw.evt.now = [] → s.becomes (.eventCoalesceEnd n) fun t => t.evt.wins = s.hw.evt.wins.eraseIdx n ∧ t.get EVT_TAIL.TAIL = (tail + 1) % 1024 ∧
        t.get EVT_TAIL.PHASE = (if tail = 1023 then 1 - phase else phase) ∧
        (∀ i, i < 4 → t.word (EVT_REC.off (4 * tail + i)) = BitVec.ofNat 64 ((e.words phase).getD i 0)) ∧
        s.hw.regsBut t (EVT_TAIL.off :: (List.range 4).map fun i => EVT_REC.off (4 * tail + i))) ∧
      (∀ x, s.hw.evt.now = [x] → e.code < x.code → 0 < s.hw.evtUsed → s.hw.evtUsed < 1023 → 0 < tail → s.becomes (.eventCoalesceEnd n) fun t =>
        ∀ i, i < 4 → t.word (EVT_REC.off (4 * (tail - 1) + i)) = BitVec.ofNat 64 ((e.words phase).getD i 0) ∧
          t.word (EVT_REC.off (4 * tail + i)) = BitVec.ofNat 64 ((x.words phase).getD i 0)) ∧
      (s.hw.evtUsed = 1023 → s.becomes (.eventCoalesceEnd n) fun t => t.evt.wins = s.hw.evt.wins.eraseIdx n ∧ t.flag EVT_STAT.OVF = true ∧
        t.get EVT_STAT.LOST = satAdd EVT_STAT.LOST.width (s.hw.get EVT_STAT.LOST) 1 ∧ s.hw.regsBut t [EVT_STAT.off])) ∧
    (s.hw.evt.wins[n]? = none → s.stays (.eventCoalesceEnd n))) ∧
  (∀ (a : DebugAccess) (s : State), ∀ x ∈ [(Instr.sidebandAccess a, 4), (Instr.testConnectorAccess a, 5)],
    (s.hw.mode.phase = .off ∨ s.hw.mode.phase = .heldOff ∨ s.hw.mode.phase = .locked → s.stays x.1) ∧
    (s.hw.mode.phase = .released →
      (a.space = 0 → a.write = false → a.addr < 0x10000 → a.addr % 8 = 0 → a.size = 8 →
        (a.addr ∉ [GID_ID.off, GID_CAP0.off, GID_COORD.off, GID_NODE.off] → s.becomes x.1 fun t =>
          t = s.hw.send (.reply x.2 0 (natLE 8 (s.hw.word a.addr).toNat))) ∧
        (a.addr = GID_ID.off → s.becomes x.1 fun t => ∃ g : Hw, t = s.hw.send (.reply x.2 0 (natLE 8 (g.word GID_ID.off).toNat)) ∧
          g.get GID_ID.SUBSYS = s.hw.pciId.subsystem ∧ g.get GID_ID.VARIANT = (if s.hw.fuses.variantS then 2 else 1) ∧
          g.get GID_ID.VENDOR = s.hw.get GID_ID.VENDOR ∧ g.get GID_ID.DEVICE = s.hw.get GID_ID.DEVICE)) ∧
      (a.space.val ≤ 1 → a.write = true → s.hw.pllOff = false → s.hw.get TRU_STAT.DEBUG = 0 → s.becomes x.1 fun t => t = s.hw.send (.reply x.2 1 [])) ∧
      (a = { write := true, space := 0, addr := TEL_CTRL.off, size := 8, value := 4 } → s.hw.get TRU_STAT.DEBUG ≠ 0 → s.becomes x.1 fun t =>
        t = s.hw.breakAll.send (.reply x.2 0 [])) ∧
      (2 ≤ a.space.val → s.becomes (.sidebandAccess a) fun t => t = s.hw.send (.reply 4 1 [])) ∧
      (2 ≤ a.space.val → s.hw.get TRU_STAT.DEBUG ≠ 2 → s.becomes (.testConnectorAccess a) fun t => t = s.hw.send (.reply 5 1 [])) ∧
      (a.space = 2 → s.hw.get TRU_STAT.DEBUG = 2 → 1 ≤ a.size → a.size ≤ 8 → a.addr + a.size ≤ sramEnd →
        (a.write = true → s.becomes (.testConnectorAccess a) fun t => t.sread a.addr a.size = a.value.toNat % 2 ^ (8 * a.size) ∧
          (∀ b, b < a.addr ∨ a.addr + a.size ≤ b → Memory.read t.sram b = Memory.read s.hw.sram b) ∧ t.csr = s.hw.csr ∧ t.dram = s.hw.dram) ∧
        (a.write = false → s.becomes (.testConnectorAccess a) fun t => t = s.hw.send (.reply 5 0 (natLE a.size (s.hw.sread a.addr a.size))))))) ∧
  ∀ s : State, let j := s.hw.jtag
    (∀ x ∈ [Instr.jtagBypass, Instr.jtagIdcode], s.becomes x fun t => t = { s.hw with jtag := { j with ir := 0, bypass := false } }) ∧
    (∀ pins load, s.becomes (.jtagSamplePreload pins load) fun t =>
      t = { s.hw with jtag := { j with ir := 1, bsr := load }, out := .reply 6 0 (natLE 3 pins.toNat) :: s.hw.out }) ∧
    (s.hw.mode.phase ≠ .released → s.becomes .jtagExtest fun t => t = { s.hw with jtag := { j with ir := 2, pins := j.bsr } }) ∧
    (s.hw.mode.phase = .released → s.becomes .jtagExtest fun t => t = { s.hw with jtag := { j with ir := 0, bypass := false } })

/-! ## Fuses -/

/-- O60. Each counter of fuses only rises: no step of any kind, warm or cold start, power loss or reset, lowers SVN_FUSE or EPOCH or changes the variant. -/
def Obligations.FusesOnlyRise : Prop :=
  ∀ s t : State, step s = .next t → s.hw.fuses.svn ≤ t.hw.fuses.svn ∧ s.hw.fuses.epoch ≤ t.hw.fuses.epoch ∧ t.hw.fuses.variantS = s.hw.fuses.variantS
end

