-- ==== Sys2Proof/Laws/State.lean ====
section
/-!
SUPPORT. One lemma per field of the module for each of its update operations, true by definition, so that no proof unfolds a record update.
-/
namespace Sys2Proof.Machine

variable (h : Hw)

/-! ### setWord -/

@[simp] theorem Hw.setWord_csr (o : Nat) (v : W64) : (h.setWord o v).csr = tset Bar0.resetWord h.csr o v := rfl
@[simp] theorem Hw.setWord_lat (o : Nat) (v : W64) : (h.setWord o v).lat = h.lat := rfl
@[simp] theorem Hw.setWord_setNow (o : Nat) (v : W64) : (h.setWord o v).setNow = h.setNow := rfl
@[simp] theorem Hw.setWord_dram (o : Nat) (v : W64) : (h.setWord o v).dram = h.dram := rfl
@[simp] theorem Hw.setWord_sram (o : Nat) (v : W64) : (h.setWord o v).sram = h.sram := rfl
@[simp] theorem Hw.setWord_marks (o : Nat) (v : W64) : (h.setWord o v).marks = h.marks := rfl
@[simp] theorem Hw.setWord_cols (o : Nat) (v : W64) : (h.setWord o v).cols = h.cols := rfl
@[simp] theorem Hw.setWord_towers (o : Nat) (v : W64) : (h.setWord o v).towers = h.towers := rfl
@[simp] theorem Hw.setWord_cores (o : Nat) (v : W64) : (h.setWord o v).cores = h.cores := rfl
@[simp] theorem Hw.setWord_engs (o : Nat) (v : W64) : (h.setWord o v).engs = h.engs := rfl
@[simp] theorem Hw.setWord_chans (o : Nat) (v : W64) : (h.setWord o v).chans = h.chans := rfl
@[simp] theorem Hw.setWord_bars (o : Nat) (v : W64) : (h.setWord o v).bars = h.bars := rfl
@[simp] theorem Hw.setWord_filt (o : Nat) (v : W64) : (h.setWord o v).filt = h.filt := rfl
@[simp] theorem Hw.setWord_hostHeld (o : Nat) (v : W64) : (h.setWord o v).hostHeld = h.hostHeld := rfl
@[simp] theorem Hw.setWord_lines (o : Nat) (v : W64) : (h.setWord o v).lines = h.lines := rfl
@[simp] theorem Hw.setWord_poison (o : Nat) (v : W64) : (h.setWord o v).poison = h.poison := rfl
@[simp] theorem Hw.setWord_poisonOver (o : Nat) (v : W64) : (h.setWord o v).poisonOver = h.poisonOver := rfl
@[simp] theorem Hw.setWord_evt (o : Nat) (v : W64) : (h.setWord o v).evt = h.evt := rfl
@[simp] theorem Hw.setWord_wins (o : Nat) (v : W64) : (h.setWord o v).wins = h.wins := rfl
@[simp] theorem Hw.setWord_img (o : Nat) (v : W64) : (h.setWord o v).img = h.img := rfl
@[simp] theorem Hw.setWord_host (o : Nat) (v : W64) : (h.setWord o v).host = h.host := rfl
@[simp] theorem Hw.setWord_mode (o : Nat) (v : W64) : (h.setWord o v).mode = h.mode := rfl
@[simp] theorem Hw.setWord_therm (o : Nat) (v : W64) : (h.setWord o v).therm = h.therm := rfl
@[simp] theorem Hw.setWord_fuses (o : Nat) (v : W64) : (h.setWord o v).fuses = h.fuses := rfl
@[simp] theorem Hw.setWord_trust (o : Nat) (v : W64) : (h.setWord o v).trust = h.trust := rfl
@[simp] theorem Hw.setWord_flash (o : Nat) (v : W64) : (h.setWord o v).flash = h.flash := rfl
@[simp] theorem Hw.setWord_fab (o : Nat) (v : W64) : (h.setWord o v).fab = h.fab := rfl
@[simp] theorem Hw.setWord_drl (o : Nat) (v : W64) : (h.setWord o v).drl = h.drl := rfl
@[simp] theorem Hw.setWord_jtag (o : Nat) (v : W64) : (h.setWord o v).jtag = h.jtag := rfl
@[simp] theorem Hw.setWord_msix (o : Nat) (v : W64) : (h.setWord o v).msix = h.msix := rfl
@[simp] theorem Hw.setWord_bells (o : Nat) (v : W64) : (h.setWord o v).bells = h.bells := rfl
@[simp] theorem Hw.setWord_out (o : Nat) (v : W64) : (h.setWord o v).out = h.out := rfl
@[simp] theorem Hw.setWord_fresh (o : Nat) (v : W64) : (h.setWord o v).fresh = h.fresh := rfl
@[simp] theorem Hw.setWord_ids (o : Nat) (v : W64) : (h.setWord o v).ids = h.ids := rfl

/-! ### put -/

@[simp] theorem Hw.put_lat (l : Loc) (v : Nat) : (h.put l v).lat = h.lat := rfl
@[simp] theorem Hw.put_setNow (l : Loc) (v : Nat) : (h.put l v).setNow = h.setNow := rfl
@[simp] theorem Hw.put_dram (l : Loc) (v : Nat) : (h.put l v).dram = h.dram := rfl
@[simp] theorem Hw.put_sram (l : Loc) (v : Nat) : (h.put l v).sram = h.sram := rfl
@[simp] theorem Hw.put_marks (l : Loc) (v : Nat) : (h.put l v).marks = h.marks := rfl
@[simp] theorem Hw.put_cols (l : Loc) (v : Nat) : (h.put l v).cols = h.cols := rfl
@[simp] theorem Hw.put_towers (l : Loc) (v : Nat) : (h.put l v).towers = h.towers := rfl
@[simp] theorem Hw.put_cores (l : Loc) (v : Nat) : (h.put l v).cores = h.cores := rfl
@[simp] theorem Hw.put_engs (l : Loc) (v : Nat) : (h.put l v).engs = h.engs := rfl
@[simp] theorem Hw.put_chans (l : Loc) (v : Nat) : (h.put l v).chans = h.chans := rfl
@[simp] theorem Hw.put_bars (l : Loc) (v : Nat) : (h.put l v).bars = h.bars := rfl
@[simp] theorem Hw.put_filt (l : Loc) (v : Nat) : (h.put l v).filt = h.filt := rfl
@[simp] theorem Hw.put_hostHeld (l : Loc) (v : Nat) : (h.put l v).hostHeld = h.hostHeld := rfl
@[simp] theorem Hw.put_lines (l : Loc) (v : Nat) : (h.put l v).lines = h.lines := rfl
@[simp] theorem Hw.put_poison (l : Loc) (v : Nat) : (h.put l v).poison = h.poison := rfl
@[simp] theorem Hw.put_poisonOver (l : Loc) (v : Nat) : (h.put l v).poisonOver = h.poisonOver := rfl
@[simp] theorem Hw.put_evt (l : Loc) (v : Nat) : (h.put l v).evt = h.evt := rfl
@[simp] theorem Hw.put_wins (l : Loc) (v : Nat) : (h.put l v).wins = h.wins := rfl
@[simp] theorem Hw.put_img (l : Loc) (v : Nat) : (h.put l v).img = h.img := rfl
@[simp] theorem Hw.put_host (l : Loc) (v : Nat) : (h.put l v).host = h.host := rfl
@[simp] theorem Hw.put_mode (l : Loc) (v : Nat) : (h.put l v).mode = h.mode := rfl
@[simp] theorem Hw.put_therm (l : Loc) (v : Nat) : (h.put l v).therm = h.therm := rfl
@[simp] theorem Hw.put_fuses (l : Loc) (v : Nat) : (h.put l v).fuses = h.fuses := rfl
@[simp] theorem Hw.put_trust (l : Loc) (v : Nat) : (h.put l v).trust = h.trust := rfl
@[simp] theorem Hw.put_flash (l : Loc) (v : Nat) : (h.put l v).flash = h.flash := rfl
@[simp] theorem Hw.put_fab (l : Loc) (v : Nat) : (h.put l v).fab = h.fab := rfl
@[simp] theorem Hw.put_drl (l : Loc) (v : Nat) : (h.put l v).drl = h.drl := rfl
@[simp] theorem Hw.put_jtag (l : Loc) (v : Nat) : (h.put l v).jtag = h.jtag := rfl
@[simp] theorem Hw.put_msix (l : Loc) (v : Nat) : (h.put l v).msix = h.msix := rfl
@[simp] theorem Hw.put_bells (l : Loc) (v : Nat) : (h.put l v).bells = h.bells := rfl
@[simp] theorem Hw.put_out (l : Loc) (v : Nat) : (h.put l v).out = h.out := rfl
@[simp] theorem Hw.put_fresh (l : Loc) (v : Nat) : (h.put l v).fresh = h.fresh := rfl
@[simp] theorem Hw.put_ids (l : Loc) (v : Nat) : (h.put l v).ids = h.ids := rfl

/-! ### markBit -/

@[simp] theorem Hw.markBit_lat (l : Loc) (i : Nat) : (h.markBit l i).lat = h.lat := rfl
@[simp] theorem Hw.markBit_setNow (l : Loc) (i : Nat) : (h.markBit l i).setNow = (l.off, l.lo + i) :: h.setNow := rfl
@[simp] theorem Hw.markBit_dram (l : Loc) (i : Nat) : (h.markBit l i).dram = h.dram := rfl
@[simp] theorem Hw.markBit_sram (l : Loc) (i : Nat) : (h.markBit l i).sram = h.sram := rfl
@[simp] theorem Hw.markBit_marks (l : Loc) (i : Nat) : (h.markBit l i).marks = h.marks := rfl
@[simp] theorem Hw.markBit_cols (l : Loc) (i : Nat) : (h.markBit l i).cols = h.cols := rfl
@[simp] theorem Hw.markBit_towers (l : Loc) (i : Nat) : (h.markBit l i).towers = h.towers := rfl
@[simp] theorem Hw.markBit_cores (l : Loc) (i : Nat) : (h.markBit l i).cores = h.cores := rfl
@[simp] theorem Hw.markBit_engs (l : Loc) (i : Nat) : (h.markBit l i).engs = h.engs := rfl
@[simp] theorem Hw.markBit_chans (l : Loc) (i : Nat) : (h.markBit l i).chans = h.chans := rfl
@[simp] theorem Hw.markBit_bars (l : Loc) (i : Nat) : (h.markBit l i).bars = h.bars := rfl
@[simp] theorem Hw.markBit_filt (l : Loc) (i : Nat) : (h.markBit l i).filt = h.filt := rfl
@[simp] theorem Hw.markBit_hostHeld (l : Loc) (i : Nat) : (h.markBit l i).hostHeld = h.hostHeld := rfl
@[simp] theorem Hw.markBit_lines (l : Loc) (i : Nat) : (h.markBit l i).lines = h.lines := rfl
@[simp] theorem Hw.markBit_poison (l : Loc) (i : Nat) : (h.markBit l i).poison = h.poison := rfl
@[simp] theorem Hw.markBit_poisonOver (l : Loc) (i : Nat) : (h.markBit l i).poisonOver = h.poisonOver := rfl
@[simp] theorem Hw.markBit_evt (l : Loc) (i : Nat) : (h.markBit l i).evt = h.evt := rfl
@[simp] theorem Hw.markBit_wins (l : Loc) (i : Nat) : (h.markBit l i).wins = h.wins := rfl
@[simp] theorem Hw.markBit_img (l : Loc) (i : Nat) : (h.markBit l i).img = h.img := rfl
@[simp] theorem Hw.markBit_host (l : Loc) (i : Nat) : (h.markBit l i).host = h.host := rfl
@[simp] theorem Hw.markBit_mode (l : Loc) (i : Nat) : (h.markBit l i).mode = h.mode := rfl
@[simp] theorem Hw.markBit_therm (l : Loc) (i : Nat) : (h.markBit l i).therm = h.therm := rfl
@[simp] theorem Hw.markBit_fuses (l : Loc) (i : Nat) : (h.markBit l i).fuses = h.fuses := rfl
@[simp] theorem Hw.markBit_trust (l : Loc) (i : Nat) : (h.markBit l i).trust = h.trust := rfl
@[simp] theorem Hw.markBit_flash (l : Loc) (i : Nat) : (h.markBit l i).flash = h.flash := rfl
@[simp] theorem Hw.markBit_fab (l : Loc) (i : Nat) : (h.markBit l i).fab = h.fab := rfl
@[simp] theorem Hw.markBit_drl (l : Loc) (i : Nat) : (h.markBit l i).drl = h.drl := rfl
@[simp] theorem Hw.markBit_jtag (l : Loc) (i : Nat) : (h.markBit l i).jtag = h.jtag := rfl
@[simp] theorem Hw.markBit_msix (l : Loc) (i : Nat) : (h.markBit l i).msix = h.msix := rfl
@[simp] theorem Hw.markBit_bells (l : Loc) (i : Nat) : (h.markBit l i).bells = h.bells := rfl
@[simp] theorem Hw.markBit_out (l : Loc) (i : Nat) : (h.markBit l i).out = h.out := rfl
@[simp] theorem Hw.markBit_fresh (l : Loc) (i : Nat) : (h.markBit l i).fresh = h.fresh := rfl
@[simp] theorem Hw.markBit_ids (l : Loc) (i : Nat) : (h.markBit l i).ids = h.ids := rfl

@[simp] theorem Hw.markBit_get (l m : Loc) (i : Nat) : (h.markBit l i).get m = (h.put l (h.get l ||| 2 ^ i)).get m := rfl

/-! ### resetReg -/

@[simp] theorem Hw.resetReg_lat (o : Nat) : (h.resetReg o).lat = h.lat := rfl
@[simp] theorem Hw.resetReg_setNow (o : Nat) : (h.resetReg o).setNow = h.setNow := rfl
@[simp] theorem Hw.resetReg_dram (o : Nat) : (h.resetReg o).dram = h.dram := rfl
@[simp] theorem Hw.resetReg_sram (o : Nat) : (h.resetReg o).sram = h.sram := rfl
@[simp] theorem Hw.resetReg_marks (o : Nat) : (h.resetReg o).marks = h.marks := rfl
@[simp] theorem Hw.resetReg_cols (o : Nat) : (h.resetReg o).cols = h.cols := rfl
@[simp] theorem Hw.resetReg_towers (o : Nat) : (h.resetReg o).towers = h.towers := rfl
@[simp] theorem Hw.resetReg_cores (o : Nat) : (h.resetReg o).cores = h.cores := rfl
@[simp] theorem Hw.resetReg_engs (o : Nat) : (h.resetReg o).engs = h.engs := rfl
@[simp] theorem Hw.resetReg_chans (o : Nat) : (h.resetReg o).chans = h.chans := rfl
@[simp] theorem Hw.resetReg_bars (o : Nat) : (h.resetReg o).bars = h.bars := rfl
@[simp] theorem Hw.resetReg_filt (o : Nat) : (h.resetReg o).filt = h.filt := rfl
@[simp] theorem Hw.resetReg_hostHeld (o : Nat) : (h.resetReg o).hostHeld = h.hostHeld := rfl
@[simp] theorem Hw.resetReg_lines (o : Nat) : (h.resetReg o).lines = h.lines := rfl
@[simp] theorem Hw.resetReg_poison (o : Nat) : (h.resetReg o).poison = h.poison := rfl
@[simp] theorem Hw.resetReg_poisonOver (o : Nat) : (h.resetReg o).poisonOver = h.poisonOver := rfl
@[simp] theorem Hw.resetReg_evt (o : Nat) : (h.resetReg o).evt = h.evt := rfl
@[simp] theorem Hw.resetReg_wins (o : Nat) : (h.resetReg o).wins = h.wins := rfl
@[simp] theorem Hw.resetReg_img (o : Nat) : (h.resetReg o).img = h.img := rfl
@[simp] theorem Hw.resetReg_host (o : Nat) : (h.resetReg o).host = h.host := rfl
@[simp] theorem Hw.resetReg_mode (o : Nat) : (h.resetReg o).mode = h.mode := rfl
@[simp] theorem Hw.resetReg_therm (o : Nat) : (h.resetReg o).therm = h.therm := rfl
@[simp] theorem Hw.resetReg_fuses (o : Nat) : (h.resetReg o).fuses = h.fuses := rfl
@[simp] theorem Hw.resetReg_trust (o : Nat) : (h.resetReg o).trust = h.trust := rfl
@[simp] theorem Hw.resetReg_flash (o : Nat) : (h.resetReg o).flash = h.flash := rfl
@[simp] theorem Hw.resetReg_fab (o : Nat) : (h.resetReg o).fab = h.fab := rfl
@[simp] theorem Hw.resetReg_drl (o : Nat) : (h.resetReg o).drl = h.drl := rfl
@[simp] theorem Hw.resetReg_jtag (o : Nat) : (h.resetReg o).jtag = h.jtag := rfl
@[simp] theorem Hw.resetReg_msix (o : Nat) : (h.resetReg o).msix = h.msix := rfl
@[simp] theorem Hw.resetReg_bells (o : Nat) : (h.resetReg o).bells = h.bells := rfl
@[simp] theorem Hw.resetReg_out (o : Nat) : (h.resetReg o).out = h.out := rfl
@[simp] theorem Hw.resetReg_fresh (o : Nat) : (h.resetReg o).fresh = h.fresh := rfl
@[simp] theorem Hw.resetReg_ids (o : Nat) : (h.resetReg o).ids = h.ids := rfl

/-! ### count -/

@[simp] theorem Hw.count_lat (l : Loc) (n : Nat) : (h.count l n).lat = h.lat := rfl
@[simp] theorem Hw.count_setNow (l : Loc) (n : Nat) : (h.count l n).setNow = h.setNow := rfl
@[simp] theorem Hw.count_dram (l : Loc) (n : Nat) : (h.count l n).dram = h.dram := rfl
@[simp] theorem Hw.count_sram (l : Loc) (n : Nat) : (h.count l n).sram = h.sram := rfl
@[simp] theorem Hw.count_marks (l : Loc) (n : Nat) : (h.count l n).marks = h.marks := rfl
@[simp] theorem Hw.count_cols (l : Loc) (n : Nat) : (h.count l n).cols = h.cols := rfl
@[simp] theorem Hw.count_towers (l : Loc) (n : Nat) : (h.count l n).towers = h.towers := rfl
@[simp] theorem Hw.count_cores (l : Loc) (n : Nat) : (h.count l n).cores = h.cores := rfl
@[simp] theorem Hw.count_engs (l : Loc) (n : Nat) : (h.count l n).engs = h.engs := rfl
@[simp] theorem Hw.count_chans (l : Loc) (n : Nat) : (h.count l n).chans = h.chans := rfl
@[simp] theorem Hw.count_bars (l : Loc) (n : Nat) : (h.count l n).bars = h.bars := rfl
@[simp] theorem Hw.count_filt (l : Loc) (n : Nat) : (h.count l n).filt = h.filt := rfl
@[simp] theorem Hw.count_hostHeld (l : Loc) (n : Nat) : (h.count l n).hostHeld = h.hostHeld := rfl
@[simp] theorem Hw.count_lines (l : Loc) (n : Nat) : (h.count l n).lines = h.lines := rfl
@[simp] theorem Hw.count_poison (l : Loc) (n : Nat) : (h.count l n).poison = h.poison := rfl
@[simp] theorem Hw.count_poisonOver (l : Loc) (n : Nat) : (h.count l n).poisonOver = h.poisonOver := rfl
@[simp] theorem Hw.count_evt (l : Loc) (n : Nat) : (h.count l n).evt = h.evt := rfl
@[simp] theorem Hw.count_wins (l : Loc) (n : Nat) : (h.count l n).wins = h.wins := rfl
@[simp] theorem Hw.count_img (l : Loc) (n : Nat) : (h.count l n).img = h.img := rfl
@[simp] theorem Hw.count_host (l : Loc) (n : Nat) : (h.count l n).host = h.host := rfl
@[simp] theorem Hw.count_mode (l : Loc) (n : Nat) : (h.count l n).mode = h.mode := rfl
@[simp] theorem Hw.count_therm (l : Loc) (n : Nat) : (h.count l n).therm = h.therm := rfl
@[simp] theorem Hw.count_fuses (l : Loc) (n : Nat) : (h.count l n).fuses = h.fuses := rfl
@[simp] theorem Hw.count_trust (l : Loc) (n : Nat) : (h.count l n).trust = h.trust := rfl
@[simp] theorem Hw.count_flash (l : Loc) (n : Nat) : (h.count l n).flash = h.flash := rfl
@[simp] theorem Hw.count_fab (l : Loc) (n : Nat) : (h.count l n).fab = h.fab := rfl
@[simp] theorem Hw.count_drl (l : Loc) (n : Nat) : (h.count l n).drl = h.drl := rfl
@[simp] theorem Hw.count_jtag (l : Loc) (n : Nat) : (h.count l n).jtag = h.jtag := rfl
@[simp] theorem Hw.count_msix (l : Loc) (n : Nat) : (h.count l n).msix = h.msix := rfl
@[simp] theorem Hw.count_bells (l : Loc) (n : Nat) : (h.count l n).bells = h.bells := rfl
@[simp] theorem Hw.count_out (l : Loc) (n : Nat) : (h.count l n).out = h.out := rfl
@[simp] theorem Hw.count_fresh (l : Loc) (n : Nat) : (h.count l n).fresh = h.fresh := rfl
@[simp] theorem Hw.count_ids (l : Loc) (n : Nat) : (h.count l n).ids = h.ids := rfl

/-! ### setCol -/

@[simp] theorem Hw.setCol_csr (c : Nat) (v : Col) : (h.setCol c v).csr = h.csr := rfl
@[simp] theorem Hw.setCol_lat (c : Nat) (v : Col) : (h.setCol c v).lat = h.lat := rfl
@[simp] theorem Hw.setCol_setNow (c : Nat) (v : Col) : (h.setCol c v).setNow = h.setNow := rfl
@[simp] theorem Hw.setCol_dram (c : Nat) (v : Col) : (h.setCol c v).dram = h.dram := rfl
@[simp] theorem Hw.setCol_sram (c : Nat) (v : Col) : (h.setCol c v).sram = h.sram := rfl
@[simp] theorem Hw.setCol_marks (c : Nat) (v : Col) : (h.setCol c v).marks = h.marks := rfl
@[simp] theorem Hw.setCol_cols (c : Nat) (v : Col) : (h.setCol c v).cols = tset (fun _ => {}) h.cols c v := rfl
@[simp] theorem Hw.setCol_towers (c : Nat) (v : Col) : (h.setCol c v).towers = h.towers := rfl
@[simp] theorem Hw.setCol_cores (c : Nat) (v : Col) : (h.setCol c v).cores = h.cores := rfl
@[simp] theorem Hw.setCol_engs (c : Nat) (v : Col) : (h.setCol c v).engs = h.engs := rfl
@[simp] theorem Hw.setCol_chans (c : Nat) (v : Col) : (h.setCol c v).chans = h.chans := rfl
@[simp] theorem Hw.setCol_bars (c : Nat) (v : Col) : (h.setCol c v).bars = h.bars := rfl
@[simp] theorem Hw.setCol_filt (c : Nat) (v : Col) : (h.setCol c v).filt = h.filt := rfl
@[simp] theorem Hw.setCol_hostHeld (c : Nat) (v : Col) : (h.setCol c v).hostHeld = h.hostHeld := rfl
@[simp] theorem Hw.setCol_lines (c : Nat) (v : Col) : (h.setCol c v).lines = h.lines := rfl
@[simp] theorem Hw.setCol_poison (c : Nat) (v : Col) : (h.setCol c v).poison = h.poison := rfl
@[simp] theorem Hw.setCol_poisonOver (c : Nat) (v : Col) : (h.setCol c v).poisonOver = h.poisonOver := rfl
@[simp] theorem Hw.setCol_evt (c : Nat) (v : Col) : (h.setCol c v).evt = h.evt := rfl
@[simp] theorem Hw.setCol_wins (c : Nat) (v : Col) : (h.setCol c v).wins = h.wins := rfl
@[simp] theorem Hw.setCol_img (c : Nat) (v : Col) : (h.setCol c v).img = h.img := rfl
@[simp] theorem Hw.setCol_host (c : Nat) (v : Col) : (h.setCol c v).host = h.host := rfl
@[simp] theorem Hw.setCol_mode (c : Nat) (v : Col) : (h.setCol c v).mode = h.mode := rfl
@[simp] theorem Hw.setCol_therm (c : Nat) (v : Col) : (h.setCol c v).therm = h.therm := rfl
@[simp] theorem Hw.setCol_fuses (c : Nat) (v : Col) : (h.setCol c v).fuses = h.fuses := rfl
@[simp] theorem Hw.setCol_trust (c : Nat) (v : Col) : (h.setCol c v).trust = h.trust := rfl
@[simp] theorem Hw.setCol_flash (c : Nat) (v : Col) : (h.setCol c v).flash = h.flash := rfl
@[simp] theorem Hw.setCol_fab (c : Nat) (v : Col) : (h.setCol c v).fab = h.fab := rfl
@[simp] theorem Hw.setCol_drl (c : Nat) (v : Col) : (h.setCol c v).drl = h.drl := rfl
@[simp] theorem Hw.setCol_jtag (c : Nat) (v : Col) : (h.setCol c v).jtag = h.jtag := rfl
@[simp] theorem Hw.setCol_msix (c : Nat) (v : Col) : (h.setCol c v).msix = h.msix := rfl
@[simp] theorem Hw.setCol_bells (c : Nat) (v : Col) : (h.setCol c v).bells = h.bells := rfl
@[simp] theorem Hw.setCol_out (c : Nat) (v : Col) : (h.setCol c v).out = h.out := rfl
@[simp] theorem Hw.setCol_fresh (c : Nat) (v : Col) : (h.setCol c v).fresh = h.fresh := rfl
@[simp] theorem Hw.setCol_ids (c : Nat) (v : Col) : (h.setCol c v).ids = h.ids := rfl

/-! ### modCol -/

@[simp] theorem Hw.modCol_csr (c : Nat) (f : Col → Col) : (h.modCol c f).csr = h.csr := rfl
@[simp] theorem Hw.modCol_lat (c : Nat) (f : Col → Col) : (h.modCol c f).lat = h.lat := rfl
@[simp] theorem Hw.modCol_setNow (c : Nat) (f : Col → Col) : (h.modCol c f).setNow = h.setNow := rfl
@[simp] theorem Hw.modCol_dram (c : Nat) (f : Col → Col) : (h.modCol c f).dram = h.dram := rfl
@[simp] theorem Hw.modCol_sram (c : Nat) (f : Col → Col) : (h.modCol c f).sram = h.sram := rfl
@[simp] theorem Hw.modCol_marks (c : Nat) (f : Col → Col) : (h.modCol c f).marks = h.marks := rfl
@[simp] theorem Hw.modCol_towers (c : Nat) (f : Col → Col) : (h.modCol c f).towers = h.towers := rfl
@[simp] theorem Hw.modCol_cores (c : Nat) (f : Col → Col) : (h.modCol c f).cores = h.cores := rfl
@[simp] theorem Hw.modCol_engs (c : Nat) (f : Col → Col) : (h.modCol c f).engs = h.engs := rfl
@[simp] theorem Hw.modCol_chans (c : Nat) (f : Col → Col) : (h.modCol c f).chans = h.chans := rfl
@[simp] theorem Hw.modCol_bars (c : Nat) (f : Col → Col) : (h.modCol c f).bars = h.bars := rfl
@[simp] theorem Hw.modCol_filt (c : Nat) (f : Col → Col) : (h.modCol c f).filt = h.filt := rfl
@[simp] theorem Hw.modCol_hostHeld (c : Nat) (f : Col → Col) : (h.modCol c f).hostHeld = h.hostHeld := rfl
@[simp] theorem Hw.modCol_lines (c : Nat) (f : Col → Col) : (h.modCol c f).lines = h.lines := rfl
@[simp] theorem Hw.modCol_poison (c : Nat) (f : Col → Col) : (h.modCol c f).poison = h.poison := rfl
@[simp] theorem Hw.modCol_poisonOver (c : Nat) (f : Col → Col) : (h.modCol c f).poisonOver = h.poisonOver := rfl
@[simp] theorem Hw.modCol_evt (c : Nat) (f : Col → Col) : (h.modCol c f).evt = h.evt := rfl
@[simp] theorem Hw.modCol_wins (c : Nat) (f : Col → Col) : (h.modCol c f).wins = h.wins := rfl
@[simp] theorem Hw.modCol_img (c : Nat) (f : Col → Col) : (h.modCol c f).img = h.img := rfl
@[simp] theorem Hw.modCol_host (c : Nat) (f : Col → Col) : (h.modCol c f).host = h.host := rfl
@[simp] theorem Hw.modCol_mode (c : Nat) (f : Col → Col) : (h.modCol c f).mode = h.mode := rfl
@[simp] theorem Hw.modCol_therm (c : Nat) (f : Col → Col) : (h.modCol c f).therm = h.therm := rfl
@[simp] theorem Hw.modCol_fuses (c : Nat) (f : Col → Col) : (h.modCol c f).fuses = h.fuses := rfl
@[simp] theorem Hw.modCol_trust (c : Nat) (f : Col → Col) : (h.modCol c f).trust = h.trust := rfl
@[simp] theorem Hw.modCol_flash (c : Nat) (f : Col → Col) : (h.modCol c f).flash = h.flash := rfl
@[simp] theorem Hw.modCol_fab (c : Nat) (f : Col → Col) : (h.modCol c f).fab = h.fab := rfl
@[simp] theorem Hw.modCol_drl (c : Nat) (f : Col → Col) : (h.modCol c f).drl = h.drl := rfl
@[simp] theorem Hw.modCol_jtag (c : Nat) (f : Col → Col) : (h.modCol c f).jtag = h.jtag := rfl
@[simp] theorem Hw.modCol_msix (c : Nat) (f : Col → Col) : (h.modCol c f).msix = h.msix := rfl
@[simp] theorem Hw.modCol_bells (c : Nat) (f : Col → Col) : (h.modCol c f).bells = h.bells := rfl
@[simp] theorem Hw.modCol_out (c : Nat) (f : Col → Col) : (h.modCol c f).out = h.out := rfl
@[simp] theorem Hw.modCol_fresh (c : Nat) (f : Col → Col) : (h.modCol c f).fresh = h.fresh := rfl
@[simp] theorem Hw.modCol_ids (c : Nat) (f : Col → Col) : (h.modCol c f).ids = h.ids := rfl

/-! ### modTower -/

@[simp] theorem Hw.modTower_csr (t : Nat) (f : Tower → Tower) : (h.modTower t f).csr = h.csr := rfl
@[simp] theorem Hw.modTower_lat (t : Nat) (f : Tower → Tower) : (h.modTower t f).lat = h.lat := rfl
@[simp] theorem Hw.modTower_setNow (t : Nat) (f : Tower → Tower) : (h.modTower t f).setNow = h.setNow := rfl
@[simp] theorem Hw.modTower_dram (t : Nat) (f : Tower → Tower) : (h.modTower t f).dram = h.dram := rfl
@[simp] theorem Hw.modTower_sram (t : Nat) (f : Tower → Tower) : (h.modTower t f).sram = h.sram := rfl
@[simp] theorem Hw.modTower_marks (t : Nat) (f : Tower → Tower) : (h.modTower t f).marks = h.marks := rfl
@[simp] theorem Hw.modTower_cols (t : Nat) (f : Tower → Tower) : (h.modTower t f).cols = h.cols := rfl
@[simp] theorem Hw.modTower_cores (t : Nat) (f : Tower → Tower) : (h.modTower t f).cores = h.cores := rfl
@[simp] theorem Hw.modTower_engs (t : Nat) (f : Tower → Tower) : (h.modTower t f).engs = h.engs := rfl
@[simp] theorem Hw.modTower_chans (t : Nat) (f : Tower → Tower) : (h.modTower t f).chans = h.chans := rfl
@[simp] theorem Hw.modTower_bars (t : Nat) (f : Tower → Tower) : (h.modTower t f).bars = h.bars := rfl
@[simp] theorem Hw.modTower_filt (t : Nat) (f : Tower → Tower) : (h.modTower t f).filt = h.filt := rfl
@[simp] theorem Hw.modTower_hostHeld (t : Nat) (f : Tower → Tower) : (h.modTower t f).hostHeld = h.hostHeld := rfl
@[simp] theorem Hw.modTower_lines (t : Nat) (f : Tower → Tower) : (h.modTower t f).lines = h.lines := rfl
@[simp] theorem Hw.modTower_poison (t : Nat) (f : Tower → Tower) : (h.modTower t f).poison = h.poison := rfl
@[simp] theorem Hw.modTower_poisonOver (t : Nat) (f : Tower → Tower) : (h.modTower t f).poisonOver = h.poisonOver := rfl
@[simp] theorem Hw.modTower_evt (t : Nat) (f : Tower → Tower) : (h.modTower t f).evt = h.evt := rfl
@[simp] theorem Hw.modTower_wins (t : Nat) (f : Tower → Tower) : (h.modTower t f).wins = h.wins := rfl
@[simp] theorem Hw.modTower_img (t : Nat) (f : Tower → Tower) : (h.modTower t f).img = h.img := rfl
@[simp] theorem Hw.modTower_host (t : Nat) (f : Tower → Tower) : (h.modTower t f).host = h.host := rfl
@[simp] theorem Hw.modTower_mode (t : Nat) (f : Tower → Tower) : (h.modTower t f).mode = h.mode := rfl
@[simp] theorem Hw.modTower_therm (t : Nat) (f : Tower → Tower) : (h.modTower t f).therm = h.therm := rfl
@[simp] theorem Hw.modTower_fuses (t : Nat) (f : Tower → Tower) : (h.modTower t f).fuses = h.fuses := rfl
@[simp] theorem Hw.modTower_trust (t : Nat) (f : Tower → Tower) : (h.modTower t f).trust = h.trust := rfl
@[simp] theorem Hw.modTower_flash (t : Nat) (f : Tower → Tower) : (h.modTower t f).flash = h.flash := rfl
@[simp] theorem Hw.modTower_fab (t : Nat) (f : Tower → Tower) : (h.modTower t f).fab = h.fab := rfl
@[simp] theorem Hw.modTower_drl (t : Nat) (f : Tower → Tower) : (h.modTower t f).drl = h.drl := rfl
@[simp] theorem Hw.modTower_jtag (t : Nat) (f : Tower → Tower) : (h.modTower t f).jtag = h.jtag := rfl
@[simp] theorem Hw.modTower_msix (t : Nat) (f : Tower → Tower) : (h.modTower t f).msix = h.msix := rfl
@[simp] theorem Hw.modTower_bells (t : Nat) (f : Tower → Tower) : (h.modTower t f).bells = h.bells := rfl
@[simp] theorem Hw.modTower_out (t : Nat) (f : Tower → Tower) : (h.modTower t f).out = h.out := rfl
@[simp] theorem Hw.modTower_fresh (t : Nat) (f : Tower → Tower) : (h.modTower t f).fresh = h.fresh := rfl
@[simp] theorem Hw.modTower_ids (t : Nat) (f : Tower → Tower) : (h.modTower t f).ids = h.ids := rfl

/-! ### setCore -/

@[simp] theorem Hw.setCore_csr (c : Nat) (v : CoreSt) : (h.setCore c v).csr = h.csr := rfl
@[simp] theorem Hw.setCore_lat (c : Nat) (v : CoreSt) : (h.setCore c v).lat = h.lat := rfl
@[simp] theorem Hw.setCore_setNow (c : Nat) (v : CoreSt) : (h.setCore c v).setNow = h.setNow := rfl
@[simp] theorem Hw.setCore_dram (c : Nat) (v : CoreSt) : (h.setCore c v).dram = h.dram := rfl
@[simp] theorem Hw.setCore_sram (c : Nat) (v : CoreSt) : (h.setCore c v).sram = h.sram := rfl
@[simp] theorem Hw.setCore_marks (c : Nat) (v : CoreSt) : (h.setCore c v).marks = h.marks := rfl
@[simp] theorem Hw.setCore_cols (c : Nat) (v : CoreSt) : (h.setCore c v).cols = h.cols := rfl
@[simp] theorem Hw.setCore_towers (c : Nat) (v : CoreSt) : (h.setCore c v).towers = h.towers := rfl
@[simp] theorem Hw.setCore_cores (c : Nat) (v : CoreSt) : (h.setCore c v).cores = tset (fun _ => {}) h.cores c v := rfl
@[simp] theorem Hw.setCore_engs (c : Nat) (v : CoreSt) : (h.setCore c v).engs = h.engs := rfl
@[simp] theorem Hw.setCore_chans (c : Nat) (v : CoreSt) : (h.setCore c v).chans = h.chans := rfl
@[simp] theorem Hw.setCore_bars (c : Nat) (v : CoreSt) : (h.setCore c v).bars = h.bars := rfl
@[simp] theorem Hw.setCore_filt (c : Nat) (v : CoreSt) : (h.setCore c v).filt = h.filt := rfl
@[simp] theorem Hw.setCore_hostHeld (c : Nat) (v : CoreSt) : (h.setCore c v).hostHeld = h.hostHeld := rfl
@[simp] theorem Hw.setCore_lines (c : Nat) (v : CoreSt) : (h.setCore c v).lines = h.lines := rfl
@[simp] theorem Hw.setCore_poison (c : Nat) (v : CoreSt) : (h.setCore c v).poison = h.poison := rfl
@[simp] theorem Hw.setCore_poisonOver (c : Nat) (v : CoreSt) : (h.setCore c v).poisonOver = h.poisonOver := rfl
@[simp] theorem Hw.setCore_evt (c : Nat) (v : CoreSt) : (h.setCore c v).evt = h.evt := rfl
@[simp] theorem Hw.setCore_wins (c : Nat) (v : CoreSt) : (h.setCore c v).wins = h.wins := rfl
@[simp] theorem Hw.setCore_img (c : Nat) (v : CoreSt) : (h.setCore c v).img = h.img := rfl
@[simp] theorem Hw.setCore_host (c : Nat) (v : CoreSt) : (h.setCore c v).host = h.host := rfl
@[simp] theorem Hw.setCore_mode (c : Nat) (v : CoreSt) : (h.setCore c v).mode = h.mode := rfl
@[simp] theorem Hw.setCore_therm (c : Nat) (v : CoreSt) : (h.setCore c v).therm = h.therm := rfl
@[simp] theorem Hw.setCore_fuses (c : Nat) (v : CoreSt) : (h.setCore c v).fuses = h.fuses := rfl
@[simp] theorem Hw.setCore_trust (c : Nat) (v : CoreSt) : (h.setCore c v).trust = h.trust := rfl
@[simp] theorem Hw.setCore_flash (c : Nat) (v : CoreSt) : (h.setCore c v).flash = h.flash := rfl
@[simp] theorem Hw.setCore_fab (c : Nat) (v : CoreSt) : (h.setCore c v).fab = h.fab := rfl
@[simp] theorem Hw.setCore_drl (c : Nat) (v : CoreSt) : (h.setCore c v).drl = h.drl := rfl
@[simp] theorem Hw.setCore_jtag (c : Nat) (v : CoreSt) : (h.setCore c v).jtag = h.jtag := rfl
@[simp] theorem Hw.setCore_msix (c : Nat) (v : CoreSt) : (h.setCore c v).msix = h.msix := rfl
@[simp] theorem Hw.setCore_bells (c : Nat) (v : CoreSt) : (h.setCore c v).bells = h.bells := rfl
@[simp] theorem Hw.setCore_out (c : Nat) (v : CoreSt) : (h.setCore c v).out = h.out := rfl
@[simp] theorem Hw.setCore_fresh (c : Nat) (v : CoreSt) : (h.setCore c v).fresh = h.fresh := rfl
@[simp] theorem Hw.setCore_ids (c : Nat) (v : CoreSt) : (h.setCore c v).ids = h.ids := rfl

/-! ### modCore -/

@[simp] theorem Hw.modCore_csr (c : Nat) (f : CoreSt → CoreSt) : (h.modCore c f).csr = h.csr := rfl
@[simp] theorem Hw.modCore_lat (c : Nat) (f : CoreSt → CoreSt) : (h.modCore c f).lat = h.lat := rfl
@[simp] theorem Hw.modCore_setNow (c : Nat) (f : CoreSt → CoreSt) : (h.modCore c f).setNow = h.setNow := rfl
@[simp] theorem Hw.modCore_dram (c : Nat) (f : CoreSt → CoreSt) : (h.modCore c f).dram = h.dram := rfl
@[simp] theorem Hw.modCore_sram (c : Nat) (f : CoreSt → CoreSt) : (h.modCore c f).sram = h.sram := rfl
@[simp] theorem Hw.modCore_marks (c : Nat) (f : CoreSt → CoreSt) : (h.modCore c f).marks = h.marks := rfl
@[simp] theorem Hw.modCore_cols (c : Nat) (f : CoreSt → CoreSt) : (h.modCore c f).cols = h.cols := rfl
@[simp] theorem Hw.modCore_towers (c : Nat) (f : CoreSt → CoreSt) : (h.modCore c f).towers = h.towers := rfl
@[simp] theorem Hw.modCore_engs (c : Nat) (f : CoreSt → CoreSt) : (h.modCore c f).engs = h.engs := rfl
@[simp] theorem Hw.modCore_chans (c : Nat) (f : CoreSt → CoreSt) : (h.modCore c f).chans = h.chans := rfl
@[simp] theorem Hw.modCore_bars (c : Nat) (f : CoreSt → CoreSt) : (h.modCore c f).bars = h.bars := rfl
@[simp] theorem Hw.modCore_filt (c : Nat) (f : CoreSt → CoreSt) : (h.modCore c f).filt = h.filt := rfl
@[simp] theorem Hw.modCore_hostHeld (c : Nat) (f : CoreSt → CoreSt) : (h.modCore c f).hostHeld = h.hostHeld := rfl
@[simp] theorem Hw.modCore_lines (c : Nat) (f : CoreSt → CoreSt) : (h.modCore c f).lines = h.lines := rfl
@[simp] theorem Hw.modCore_poison (c : Nat) (f : CoreSt → CoreSt) : (h.modCore c f).poison = h.poison := rfl
@[simp] theorem Hw.modCore_poisonOver (c : Nat) (f : CoreSt → CoreSt) : (h.modCore c f).poisonOver = h.poisonOver := rfl
@[simp] theorem Hw.modCore_evt (c : Nat) (f : CoreSt → CoreSt) : (h.modCore c f).evt = h.evt := rfl
@[simp] theorem Hw.modCore_wins (c : Nat) (f : CoreSt → CoreSt) : (h.modCore c f).wins = h.wins := rfl
@[simp] theorem Hw.modCore_img (c : Nat) (f : CoreSt → CoreSt) : (h.modCore c f).img = h.img := rfl
@[simp] theorem Hw.modCore_host (c : Nat) (f : CoreSt → CoreSt) : (h.modCore c f).host = h.host := rfl
@[simp] theorem Hw.modCore_mode (c : Nat) (f : CoreSt → CoreSt) : (h.modCore c f).mode = h.mode := rfl
@[simp] theorem Hw.modCore_therm (c : Nat) (f : CoreSt → CoreSt) : (h.modCore c f).therm = h.therm := rfl
@[simp] theorem Hw.modCore_fuses (c : Nat) (f : CoreSt → CoreSt) : (h.modCore c f).fuses = h.fuses := rfl
@[simp] theorem Hw.modCore_trust (c : Nat) (f : CoreSt → CoreSt) : (h.modCore c f).trust = h.trust := rfl
@[simp] theorem Hw.modCore_flash (c : Nat) (f : CoreSt → CoreSt) : (h.modCore c f).flash = h.flash := rfl
@[simp] theorem Hw.modCore_fab (c : Nat) (f : CoreSt → CoreSt) : (h.modCore c f).fab = h.fab := rfl
@[simp] theorem Hw.modCore_drl (c : Nat) (f : CoreSt → CoreSt) : (h.modCore c f).drl = h.drl := rfl
@[simp] theorem Hw.modCore_jtag (c : Nat) (f : CoreSt → CoreSt) : (h.modCore c f).jtag = h.jtag := rfl
@[simp] theorem Hw.modCore_msix (c : Nat) (f : CoreSt → CoreSt) : (h.modCore c f).msix = h.msix := rfl
@[simp] theorem Hw.modCore_bells (c : Nat) (f : CoreSt → CoreSt) : (h.modCore c f).bells = h.bells := rfl
@[simp] theorem Hw.modCore_out (c : Nat) (f : CoreSt → CoreSt) : (h.modCore c f).out = h.out := rfl
@[simp] theorem Hw.modCore_fresh (c : Nat) (f : CoreSt → CoreSt) : (h.modCore c f).fresh = h.fresh := rfl
@[simp] theorem Hw.modCore_ids (c : Nat) (f : CoreSt → CoreSt) : (h.modCore c f).ids = h.ids := rfl

/-! ### setEng -/

@[simp] theorem Hw.setEng_csr (e : Nat) (v : Eng) : (h.setEng e v).csr = h.csr := rfl
@[simp] theorem Hw.setEng_lat (e : Nat) (v : Eng) : (h.setEng e v).lat = h.lat := rfl
@[simp] theorem Hw.setEng_setNow (e : Nat) (v : Eng) : (h.setEng e v).setNow = h.setNow := rfl
@[simp] theorem Hw.setEng_dram (e : Nat) (v : Eng) : (h.setEng e v).dram = h.dram := rfl
@[simp] theorem Hw.setEng_sram (e : Nat) (v : Eng) : (h.setEng e v).sram = h.sram := rfl
@[simp] theorem Hw.setEng_marks (e : Nat) (v : Eng) : (h.setEng e v).marks = h.marks := rfl
@[simp] theorem Hw.setEng_cols (e : Nat) (v : Eng) : (h.setEng e v).cols = h.cols := rfl
@[simp] theorem Hw.setEng_towers (e : Nat) (v : Eng) : (h.setEng e v).towers = h.towers := rfl
@[simp] theorem Hw.setEng_cores (e : Nat) (v : Eng) : (h.setEng e v).cores = h.cores := rfl
@[simp] theorem Hw.setEng_engs (e : Nat) (v : Eng) : (h.setEng e v).engs = tset (fun _ => {}) h.engs e v := rfl
@[simp] theorem Hw.setEng_chans (e : Nat) (v : Eng) : (h.setEng e v).chans = h.chans := rfl
@[simp] theorem Hw.setEng_bars (e : Nat) (v : Eng) : (h.setEng e v).bars = h.bars := rfl
@[simp] theorem Hw.setEng_filt (e : Nat) (v : Eng) : (h.setEng e v).filt = h.filt := rfl
@[simp] theorem Hw.setEng_hostHeld (e : Nat) (v : Eng) : (h.setEng e v).hostHeld = h.hostHeld := rfl
@[simp] theorem Hw.setEng_lines (e : Nat) (v : Eng) : (h.setEng e v).lines = h.lines := rfl
@[simp] theorem Hw.setEng_poison (e : Nat) (v : Eng) : (h.setEng e v).poison = h.poison := rfl
@[simp] theorem Hw.setEng_poisonOver (e : Nat) (v : Eng) : (h.setEng e v).poisonOver = h.poisonOver := rfl
@[simp] theorem Hw.setEng_evt (e : Nat) (v : Eng) : (h.setEng e v).evt = h.evt := rfl
@[simp] theorem Hw.setEng_wins (e : Nat) (v : Eng) : (h.setEng e v).wins = h.wins := rfl
@[simp] theorem Hw.setEng_img (e : Nat) (v : Eng) : (h.setEng e v).img = h.img := rfl
@[simp] theorem Hw.setEng_host (e : Nat) (v : Eng) : (h.setEng e v).host = h.host := rfl
@[simp] theorem Hw.setEng_mode (e : Nat) (v : Eng) : (h.setEng e v).mode = h.mode := rfl
@[simp] theorem Hw.setEng_therm (e : Nat) (v : Eng) : (h.setEng e v).therm = h.therm := rfl
@[simp] theorem Hw.setEng_fuses (e : Nat) (v : Eng) : (h.setEng e v).fuses = h.fuses := rfl
@[simp] theorem Hw.setEng_trust (e : Nat) (v : Eng) : (h.setEng e v).trust = h.trust := rfl
@[simp] theorem Hw.setEng_flash (e : Nat) (v : Eng) : (h.setEng e v).flash = h.flash := rfl
@[simp] theorem Hw.setEng_fab (e : Nat) (v : Eng) : (h.setEng e v).fab = h.fab := rfl
@[simp] theorem Hw.setEng_drl (e : Nat) (v : Eng) : (h.setEng e v).drl = h.drl := rfl
@[simp] theorem Hw.setEng_jtag (e : Nat) (v : Eng) : (h.setEng e v).jtag = h.jtag := rfl
@[simp] theorem Hw.setEng_msix (e : Nat) (v : Eng) : (h.setEng e v).msix = h.msix := rfl
@[simp] theorem Hw.setEng_bells (e : Nat) (v : Eng) : (h.setEng e v).bells = h.bells := rfl
@[simp] theorem Hw.setEng_out (e : Nat) (v : Eng) : (h.setEng e v).out = h.out := rfl
@[simp] theorem Hw.setEng_fresh (e : Nat) (v : Eng) : (h.setEng e v).fresh = h.fresh := rfl
@[simp] theorem Hw.setEng_ids (e : Nat) (v : Eng) : (h.setEng e v).ids = h.ids := rfl

/-! ### modEng -/

@[simp] theorem Hw.modEng_csr (e : Nat) (f : Eng → Eng) : (h.modEng e f).csr = h.csr := rfl
@[simp] theorem Hw.modEng_lat (e : Nat) (f : Eng → Eng) : (h.modEng e f).lat = h.lat := rfl
@[simp] theorem Hw.modEng_setNow (e : Nat) (f : Eng → Eng) : (h.modEng e f).setNow = h.setNow := rfl
@[simp] theorem Hw.modEng_dram (e : Nat) (f : Eng → Eng) : (h.modEng e f).dram = h.dram := rfl
@[simp] theorem Hw.modEng_sram (e : Nat) (f : Eng → Eng) : (h.modEng e f).sram = h.sram := rfl
@[simp] theorem Hw.modEng_marks (e : Nat) (f : Eng → Eng) : (h.modEng e f).marks = h.marks := rfl
@[simp] theorem Hw.modEng_cols (e : Nat) (f : Eng → Eng) : (h.modEng e f).cols = h.cols := rfl
@[simp] theorem Hw.modEng_towers (e : Nat) (f : Eng → Eng) : (h.modEng e f).towers = h.towers := rfl
@[simp] theorem Hw.modEng_cores (e : Nat) (f : Eng → Eng) : (h.modEng e f).cores = h.cores := rfl
@[simp] theorem Hw.modEng_chans (e : Nat) (f : Eng → Eng) : (h.modEng e f).chans = h.chans := rfl
@[simp] theorem Hw.modEng_bars (e : Nat) (f : Eng → Eng) : (h.modEng e f).bars = h.bars := rfl
@[simp] theorem Hw.modEng_filt (e : Nat) (f : Eng → Eng) : (h.modEng e f).filt = h.filt := rfl
@[simp] theorem Hw.modEng_hostHeld (e : Nat) (f : Eng → Eng) : (h.modEng e f).hostHeld = h.hostHeld := rfl
@[simp] theorem Hw.modEng_lines (e : Nat) (f : Eng → Eng) : (h.modEng e f).lines = h.lines := rfl
@[simp] theorem Hw.modEng_poison (e : Nat) (f : Eng → Eng) : (h.modEng e f).poison = h.poison := rfl
@[simp] theorem Hw.modEng_poisonOver (e : Nat) (f : Eng → Eng) : (h.modEng e f).poisonOver = h.poisonOver := rfl
@[simp] theorem Hw.modEng_evt (e : Nat) (f : Eng → Eng) : (h.modEng e f).evt = h.evt := rfl
@[simp] theorem Hw.modEng_wins (e : Nat) (f : Eng → Eng) : (h.modEng e f).wins = h.wins := rfl
@[simp] theorem Hw.modEng_img (e : Nat) (f : Eng → Eng) : (h.modEng e f).img = h.img := rfl
@[simp] theorem Hw.modEng_host (e : Nat) (f : Eng → Eng) : (h.modEng e f).host = h.host := rfl
@[simp] theorem Hw.modEng_mode (e : Nat) (f : Eng → Eng) : (h.modEng e f).mode = h.mode := rfl
@[simp] theorem Hw.modEng_therm (e : Nat) (f : Eng → Eng) : (h.modEng e f).therm = h.therm := rfl
@[simp] theorem Hw.modEng_fuses (e : Nat) (f : Eng → Eng) : (h.modEng e f).fuses = h.fuses := rfl
@[simp] theorem Hw.modEng_trust (e : Nat) (f : Eng → Eng) : (h.modEng e f).trust = h.trust := rfl
@[simp] theorem Hw.modEng_flash (e : Nat) (f : Eng → Eng) : (h.modEng e f).flash = h.flash := rfl
@[simp] theorem Hw.modEng_fab (e : Nat) (f : Eng → Eng) : (h.modEng e f).fab = h.fab := rfl
@[simp] theorem Hw.modEng_drl (e : Nat) (f : Eng → Eng) : (h.modEng e f).drl = h.drl := rfl
@[simp] theorem Hw.modEng_jtag (e : Nat) (f : Eng → Eng) : (h.modEng e f).jtag = h.jtag := rfl
@[simp] theorem Hw.modEng_msix (e : Nat) (f : Eng → Eng) : (h.modEng e f).msix = h.msix := rfl
@[simp] theorem Hw.modEng_bells (e : Nat) (f : Eng → Eng) : (h.modEng e f).bells = h.bells := rfl
@[simp] theorem Hw.modEng_out (e : Nat) (f : Eng → Eng) : (h.modEng e f).out = h.out := rfl
@[simp] theorem Hw.modEng_fresh (e : Nat) (f : Eng → Eng) : (h.modEng e f).fresh = h.fresh := rfl
@[simp] theorem Hw.modEng_ids (e : Nat) (f : Eng → Eng) : (h.modEng e f).ids = h.ids := rfl

/-! ### modChan -/

@[simp] theorem Hw.modChan_csr (k : Nat) (f : Chan → Chan) : (h.modChan k f).csr = h.csr := rfl
@[simp] theorem Hw.modChan_lat (k : Nat) (f : Chan → Chan) : (h.modChan k f).lat = h.lat := rfl
@[simp] theorem Hw.modChan_setNow (k : Nat) (f : Chan → Chan) : (h.modChan k f).setNow = h.setNow := rfl
@[simp] theorem Hw.modChan_dram (k : Nat) (f : Chan → Chan) : (h.modChan k f).dram = h.dram := rfl
@[simp] theorem Hw.modChan_sram (k : Nat) (f : Chan → Chan) : (h.modChan k f).sram = h.sram := rfl
@[simp] theorem Hw.modChan_marks (k : Nat) (f : Chan → Chan) : (h.modChan k f).marks = h.marks := rfl
@[simp] theorem Hw.modChan_cols (k : Nat) (f : Chan → Chan) : (h.modChan k f).cols = h.cols := rfl
@[simp] theorem Hw.modChan_towers (k : Nat) (f : Chan → Chan) : (h.modChan k f).towers = h.towers := rfl
@[simp] theorem Hw.modChan_cores (k : Nat) (f : Chan → Chan) : (h.modChan k f).cores = h.cores := rfl
@[simp] theorem Hw.modChan_engs (k : Nat) (f : Chan → Chan) : (h.modChan k f).engs = h.engs := rfl
@[simp] theorem Hw.modChan_bars (k : Nat) (f : Chan → Chan) : (h.modChan k f).bars = h.bars := rfl
@[simp] theorem Hw.modChan_filt (k : Nat) (f : Chan → Chan) : (h.modChan k f).filt = h.filt := rfl
@[simp] theorem Hw.modChan_hostHeld (k : Nat) (f : Chan → Chan) : (h.modChan k f).hostHeld = h.hostHeld := rfl
@[simp] theorem Hw.modChan_lines (k : Nat) (f : Chan → Chan) : (h.modChan k f).lines = h.lines := rfl
@[simp] theorem Hw.modChan_poison (k : Nat) (f : Chan → Chan) : (h.modChan k f).poison = h.poison := rfl
@[simp] theorem Hw.modChan_poisonOver (k : Nat) (f : Chan → Chan) : (h.modChan k f).poisonOver = h.poisonOver := rfl
@[simp] theorem Hw.modChan_evt (k : Nat) (f : Chan → Chan) : (h.modChan k f).evt = h.evt := rfl
@[simp] theorem Hw.modChan_wins (k : Nat) (f : Chan → Chan) : (h.modChan k f).wins = h.wins := rfl
@[simp] theorem Hw.modChan_img (k : Nat) (f : Chan → Chan) : (h.modChan k f).img = h.img := rfl
@[simp] theorem Hw.modChan_host (k : Nat) (f : Chan → Chan) : (h.modChan k f).host = h.host := rfl
@[simp] theorem Hw.modChan_mode (k : Nat) (f : Chan → Chan) : (h.modChan k f).mode = h.mode := rfl
@[simp] theorem Hw.modChan_therm (k : Nat) (f : Chan → Chan) : (h.modChan k f).therm = h.therm := rfl
@[simp] theorem Hw.modChan_fuses (k : Nat) (f : Chan → Chan) : (h.modChan k f).fuses = h.fuses := rfl
@[simp] theorem Hw.modChan_trust (k : Nat) (f : Chan → Chan) : (h.modChan k f).trust = h.trust := rfl
@[simp] theorem Hw.modChan_flash (k : Nat) (f : Chan → Chan) : (h.modChan k f).flash = h.flash := rfl
@[simp] theorem Hw.modChan_fab (k : Nat) (f : Chan → Chan) : (h.modChan k f).fab = h.fab := rfl
@[simp] theorem Hw.modChan_drl (k : Nat) (f : Chan → Chan) : (h.modChan k f).drl = h.drl := rfl
@[simp] theorem Hw.modChan_jtag (k : Nat) (f : Chan → Chan) : (h.modChan k f).jtag = h.jtag := rfl
@[simp] theorem Hw.modChan_msix (k : Nat) (f : Chan → Chan) : (h.modChan k f).msix = h.msix := rfl
@[simp] theorem Hw.modChan_bells (k : Nat) (f : Chan → Chan) : (h.modChan k f).bells = h.bells := rfl
@[simp] theorem Hw.modChan_out (k : Nat) (f : Chan → Chan) : (h.modChan k f).out = h.out := rfl
@[simp] theorem Hw.modChan_fresh (k : Nat) (f : Chan → Chan) : (h.modChan k f).fresh = h.fresh := rfl
@[simp] theorem Hw.modChan_ids (k : Nat) (f : Chan → Chan) : (h.modChan k f).ids = h.ids := rfl

/-! ### modBar -/

@[simp] theorem Hw.modBar_csr (b : Nat) (f : BarSt → BarSt) : (h.modBar b f).csr = h.csr := rfl
@[simp] theorem Hw.modBar_lat (b : Nat) (f : BarSt → BarSt) : (h.modBar b f).lat = h.lat := rfl
@[simp] theorem Hw.modBar_setNow (b : Nat) (f : BarSt → BarSt) : (h.modBar b f).setNow = h.setNow := rfl
@[simp] theorem Hw.modBar_dram (b : Nat) (f : BarSt → BarSt) : (h.modBar b f).dram = h.dram := rfl
@[simp] theorem Hw.modBar_sram (b : Nat) (f : BarSt → BarSt) : (h.modBar b f).sram = h.sram := rfl
@[simp] theorem Hw.modBar_marks (b : Nat) (f : BarSt → BarSt) : (h.modBar b f).marks = h.marks := rfl
@[simp] theorem Hw.modBar_cols (b : Nat) (f : BarSt → BarSt) : (h.modBar b f).cols = h.cols := rfl
@[simp] theorem Hw.modBar_towers (b : Nat) (f : BarSt → BarSt) : (h.modBar b f).towers = h.towers := rfl
@[simp] theorem Hw.modBar_cores (b : Nat) (f : BarSt → BarSt) : (h.modBar b f).cores = h.cores := rfl
@[simp] theorem Hw.modBar_engs (b : Nat) (f : BarSt → BarSt) : (h.modBar b f).engs = h.engs := rfl
@[simp] theorem Hw.modBar_chans (b : Nat) (f : BarSt → BarSt) : (h.modBar b f).chans = h.chans := rfl
@[simp] theorem Hw.modBar_filt (b : Nat) (f : BarSt → BarSt) : (h.modBar b f).filt = h.filt := rfl
@[simp] theorem Hw.modBar_hostHeld (b : Nat) (f : BarSt → BarSt) : (h.modBar b f).hostHeld = h.hostHeld := rfl
@[simp] theorem Hw.modBar_lines (b : Nat) (f : BarSt → BarSt) : (h.modBar b f).lines = h.lines := rfl
@[simp] theorem Hw.modBar_poison (b : Nat) (f : BarSt → BarSt) : (h.modBar b f).poison = h.poison := rfl
@[simp] theorem Hw.modBar_poisonOver (b : Nat) (f : BarSt → BarSt) : (h.modBar b f).poisonOver = h.poisonOver := rfl
@[simp] theorem Hw.modBar_evt (b : Nat) (f : BarSt → BarSt) : (h.modBar b f).evt = h.evt := rfl
@[simp] theorem Hw.modBar_wins (b : Nat) (f : BarSt → BarSt) : (h.modBar b f).wins = h.wins := rfl
@[simp] theorem Hw.modBar_img (b : Nat) (f : BarSt → BarSt) : (h.modBar b f).img = h.img := rfl
@[simp] theorem Hw.modBar_host (b : Nat) (f : BarSt → BarSt) : (h.modBar b f).host = h.host := rfl
@[simp] theorem Hw.modBar_mode (b : Nat) (f : BarSt → BarSt) : (h.modBar b f).mode = h.mode := rfl
@[simp] theorem Hw.modBar_therm (b : Nat) (f : BarSt → BarSt) : (h.modBar b f).therm = h.therm := rfl
@[simp] theorem Hw.modBar_fuses (b : Nat) (f : BarSt → BarSt) : (h.modBar b f).fuses = h.fuses := rfl
@[simp] theorem Hw.modBar_trust (b : Nat) (f : BarSt → BarSt) : (h.modBar b f).trust = h.trust := rfl
@[simp] theorem Hw.modBar_flash (b : Nat) (f : BarSt → BarSt) : (h.modBar b f).flash = h.flash := rfl
@[simp] theorem Hw.modBar_fab (b : Nat) (f : BarSt → BarSt) : (h.modBar b f).fab = h.fab := rfl
@[simp] theorem Hw.modBar_drl (b : Nat) (f : BarSt → BarSt) : (h.modBar b f).drl = h.drl := rfl
@[simp] theorem Hw.modBar_jtag (b : Nat) (f : BarSt → BarSt) : (h.modBar b f).jtag = h.jtag := rfl
@[simp] theorem Hw.modBar_msix (b : Nat) (f : BarSt → BarSt) : (h.modBar b f).msix = h.msix := rfl
@[simp] theorem Hw.modBar_bells (b : Nat) (f : BarSt → BarSt) : (h.modBar b f).bells = h.bells := rfl
@[simp] theorem Hw.modBar_out (b : Nat) (f : BarSt → BarSt) : (h.modBar b f).out = h.out := rfl
@[simp] theorem Hw.modBar_fresh (b : Nat) (f : BarSt → BarSt) : (h.modBar b f).fresh = h.fresh := rfl
@[simp] theorem Hw.modBar_ids (b : Nat) (f : BarSt → BarSt) : (h.modBar b f).ids = h.ids := rfl

/-! ### modWin -/

@[simp] theorem Hw.modWin_csr (w : Nat) (f : Win → Win) : (h.modWin w f).csr = h.csr := rfl
@[simp] theorem Hw.modWin_lat (w : Nat) (f : Win → Win) : (h.modWin w f).lat = h.lat := rfl
@[simp] theorem Hw.modWin_setNow (w : Nat) (f : Win → Win) : (h.modWin w f).setNow = h.setNow := rfl
@[simp] theorem Hw.modWin_dram (w : Nat) (f : Win → Win) : (h.modWin w f).dram = h.dram := rfl
@[simp] theorem Hw.modWin_sram (w : Nat) (f : Win → Win) : (h.modWin w f).sram = h.sram := rfl
@[simp] theorem Hw.modWin_marks (w : Nat) (f : Win → Win) : (h.modWin w f).marks = h.marks := rfl
@[simp] theorem Hw.modWin_cols (w : Nat) (f : Win → Win) : (h.modWin w f).cols = h.cols := rfl
@[simp] theorem Hw.modWin_towers (w : Nat) (f : Win → Win) : (h.modWin w f).towers = h.towers := rfl
@[simp] theorem Hw.modWin_cores (w : Nat) (f : Win → Win) : (h.modWin w f).cores = h.cores := rfl
@[simp] theorem Hw.modWin_engs (w : Nat) (f : Win → Win) : (h.modWin w f).engs = h.engs := rfl
@[simp] theorem Hw.modWin_chans (w : Nat) (f : Win → Win) : (h.modWin w f).chans = h.chans := rfl
@[simp] theorem Hw.modWin_bars (w : Nat) (f : Win → Win) : (h.modWin w f).bars = h.bars := rfl
@[simp] theorem Hw.modWin_filt (w : Nat) (f : Win → Win) : (h.modWin w f).filt = h.filt := rfl
@[simp] theorem Hw.modWin_hostHeld (w : Nat) (f : Win → Win) : (h.modWin w f).hostHeld = h.hostHeld := rfl
@[simp] theorem Hw.modWin_lines (w : Nat) (f : Win → Win) : (h.modWin w f).lines = h.lines := rfl
@[simp] theorem Hw.modWin_poison (w : Nat) (f : Win → Win) : (h.modWin w f).poison = h.poison := rfl
@[simp] theorem Hw.modWin_poisonOver (w : Nat) (f : Win → Win) : (h.modWin w f).poisonOver = h.poisonOver := rfl
@[simp] theorem Hw.modWin_evt (w : Nat) (f : Win → Win) : (h.modWin w f).evt = h.evt := rfl
@[simp] theorem Hw.modWin_img (w : Nat) (f : Win → Win) : (h.modWin w f).img = h.img := rfl
@[simp] theorem Hw.modWin_host (w : Nat) (f : Win → Win) : (h.modWin w f).host = h.host := rfl
@[simp] theorem Hw.modWin_mode (w : Nat) (f : Win → Win) : (h.modWin w f).mode = h.mode := rfl
@[simp] theorem Hw.modWin_therm (w : Nat) (f : Win → Win) : (h.modWin w f).therm = h.therm := rfl
@[simp] theorem Hw.modWin_fuses (w : Nat) (f : Win → Win) : (h.modWin w f).fuses = h.fuses := rfl
@[simp] theorem Hw.modWin_trust (w : Nat) (f : Win → Win) : (h.modWin w f).trust = h.trust := rfl
@[simp] theorem Hw.modWin_flash (w : Nat) (f : Win → Win) : (h.modWin w f).flash = h.flash := rfl
@[simp] theorem Hw.modWin_fab (w : Nat) (f : Win → Win) : (h.modWin w f).fab = h.fab := rfl
@[simp] theorem Hw.modWin_drl (w : Nat) (f : Win → Win) : (h.modWin w f).drl = h.drl := rfl
@[simp] theorem Hw.modWin_jtag (w : Nat) (f : Win → Win) : (h.modWin w f).jtag = h.jtag := rfl
@[simp] theorem Hw.modWin_msix (w : Nat) (f : Win → Win) : (h.modWin w f).msix = h.msix := rfl
@[simp] theorem Hw.modWin_bells (w : Nat) (f : Win → Win) : (h.modWin w f).bells = h.bells := rfl
@[simp] theorem Hw.modWin_out (w : Nat) (f : Win → Win) : (h.modWin w f).out = h.out := rfl
@[simp] theorem Hw.modWin_fresh (w : Nat) (f : Win → Win) : (h.modWin w f).fresh = h.fresh := rfl
@[simp] theorem Hw.modWin_ids (w : Nat) (f : Win → Win) : (h.modWin w f).ids = h.ids := rfl

/-! ### modImg -/

@[simp] theorem Hw.modImg_csr (f : ImgSt → ImgSt) : (h.modImg f).csr = h.csr := rfl
@[simp] theorem Hw.modImg_lat (f : ImgSt → ImgSt) : (h.modImg f).lat = h.lat := rfl
@[simp] theorem Hw.modImg_setNow (f : ImgSt → ImgSt) : (h.modImg f).setNow = h.setNow := rfl
@[simp] theorem Hw.modImg_dram (f : ImgSt → ImgSt) : (h.modImg f).dram = h.dram := rfl
@[simp] theorem Hw.modImg_sram (f : ImgSt → ImgSt) : (h.modImg f).sram = h.sram := rfl
@[simp] theorem Hw.modImg_marks (f : ImgSt → ImgSt) : (h.modImg f).marks = h.marks := rfl
@[simp] theorem Hw.modImg_cols (f : ImgSt → ImgSt) : (h.modImg f).cols = h.cols := rfl
@[simp] theorem Hw.modImg_towers (f : ImgSt → ImgSt) : (h.modImg f).towers = h.towers := rfl
@[simp] theorem Hw.modImg_cores (f : ImgSt → ImgSt) : (h.modImg f).cores = h.cores := rfl
@[simp] theorem Hw.modImg_engs (f : ImgSt → ImgSt) : (h.modImg f).engs = h.engs := rfl
@[simp] theorem Hw.modImg_chans (f : ImgSt → ImgSt) : (h.modImg f).chans = h.chans := rfl
@[simp] theorem Hw.modImg_bars (f : ImgSt → ImgSt) : (h.modImg f).bars = h.bars := rfl
@[simp] theorem Hw.modImg_filt (f : ImgSt → ImgSt) : (h.modImg f).filt = h.filt := rfl
@[simp] theorem Hw.modImg_hostHeld (f : ImgSt → ImgSt) : (h.modImg f).hostHeld = h.hostHeld := rfl
@[simp] theorem Hw.modImg_lines (f : ImgSt → ImgSt) : (h.modImg f).lines = h.lines := rfl
@[simp] theorem Hw.modImg_poison (f : ImgSt → ImgSt) : (h.modImg f).poison = h.poison := rfl
@[simp] theorem Hw.modImg_poisonOver (f : ImgSt → ImgSt) : (h.modImg f).poisonOver = h.poisonOver := rfl
@[simp] theorem Hw.modImg_evt (f : ImgSt → ImgSt) : (h.modImg f).evt = h.evt := rfl
@[simp] theorem Hw.modImg_wins (f : ImgSt → ImgSt) : (h.modImg f).wins = h.wins := rfl
@[simp] theorem Hw.modImg_img (f : ImgSt → ImgSt) : (h.modImg f).img = f h.img := rfl
@[simp] theorem Hw.modImg_host (f : ImgSt → ImgSt) : (h.modImg f).host = h.host := rfl
@[simp] theorem Hw.modImg_mode (f : ImgSt → ImgSt) : (h.modImg f).mode = h.mode := rfl
@[simp] theorem Hw.modImg_therm (f : ImgSt → ImgSt) : (h.modImg f).therm = h.therm := rfl
@[simp] theorem Hw.modImg_fuses (f : ImgSt → ImgSt) : (h.modImg f).fuses = h.fuses := rfl
@[simp] theorem Hw.modImg_trust (f : ImgSt → ImgSt) : (h.modImg f).trust = h.trust := rfl
@[simp] theorem Hw.modImg_flash (f : ImgSt → ImgSt) : (h.modImg f).flash = h.flash := rfl
@[simp] theorem Hw.modImg_fab (f : ImgSt → ImgSt) : (h.modImg f).fab = h.fab := rfl
@[simp] theorem Hw.modImg_drl (f : ImgSt → ImgSt) : (h.modImg f).drl = h.drl := rfl
@[simp] theorem Hw.modImg_jtag (f : ImgSt → ImgSt) : (h.modImg f).jtag = h.jtag := rfl
@[simp] theorem Hw.modImg_msix (f : ImgSt → ImgSt) : (h.modImg f).msix = h.msix := rfl
@[simp] theorem Hw.modImg_bells (f : ImgSt → ImgSt) : (h.modImg f).bells = h.bells := rfl
@[simp] theorem Hw.modImg_out (f : ImgSt → ImgSt) : (h.modImg f).out = h.out := rfl
@[simp] theorem Hw.modImg_fresh (f : ImgSt → ImgSt) : (h.modImg f).fresh = h.fresh := rfl
@[simp] theorem Hw.modImg_ids (f : ImgSt → ImgSt) : (h.modImg f).ids = h.ids := rfl

/-! ### modHost -/

@[simp] theorem Hw.modHost_csr (f : HostSt → HostSt) : (h.modHost f).csr = h.csr := rfl
@[simp] theorem Hw.modHost_lat (f : HostSt → HostSt) : (h.modHost f).lat = h.lat := rfl
@[simp] theorem Hw.modHost_setNow (f : HostSt → HostSt) : (h.modHost f).setNow = h.setNow := rfl
@[simp] theorem Hw.modHost_dram (f : HostSt → HostSt) : (h.modHost f).dram = h.dram := rfl
@[simp] theorem Hw.modHost_sram (f : HostSt → HostSt) : (h.modHost f).sram = h.sram := rfl
@[simp] theorem Hw.modHost_marks (f : HostSt → HostSt) : (h.modHost f).marks = h.marks := rfl
@[simp] theorem Hw.modHost_cols (f : HostSt → HostSt) : (h.modHost f).cols = h.cols := rfl
@[simp] theorem Hw.modHost_towers (f : HostSt → HostSt) : (h.modHost f).towers = h.towers := rfl
@[simp] theorem Hw.modHost_cores (f : HostSt → HostSt) : (h.modHost f).cores = h.cores := rfl
@[simp] theorem Hw.modHost_engs (f : HostSt → HostSt) : (h.modHost f).engs = h.engs := rfl
@[simp] theorem Hw.modHost_chans (f : HostSt → HostSt) : (h.modHost f).chans = h.chans := rfl
@[simp] theorem Hw.modHost_bars (f : HostSt → HostSt) : (h.modHost f).bars = h.bars := rfl
@[simp] theorem Hw.modHost_filt (f : HostSt → HostSt) : (h.modHost f).filt = h.filt := rfl
@[simp] theorem Hw.modHost_hostHeld (f : HostSt → HostSt) : (h.modHost f).hostHeld = h.hostHeld := rfl
@[simp] theorem Hw.modHost_lines (f : HostSt → HostSt) : (h.modHost f).lines = h.lines := rfl
@[simp] theorem Hw.modHost_poison (f : HostSt → HostSt) : (h.modHost f).poison = h.poison := rfl
@[simp] theorem Hw.modHost_poisonOver (f : HostSt → HostSt) : (h.modHost f).poisonOver = h.poisonOver := rfl
@[simp] theorem Hw.modHost_evt (f : HostSt → HostSt) : (h.modHost f).evt = h.evt := rfl
@[simp] theorem Hw.modHost_wins (f : HostSt → HostSt) : (h.modHost f).wins = h.wins := rfl
@[simp] theorem Hw.modHost_img (f : HostSt → HostSt) : (h.modHost f).img = h.img := rfl
@[simp] theorem Hw.modHost_host (f : HostSt → HostSt) : (h.modHost f).host = f h.host := rfl
@[simp] theorem Hw.modHost_mode (f : HostSt → HostSt) : (h.modHost f).mode = h.mode := rfl
@[simp] theorem Hw.modHost_therm (f : HostSt → HostSt) : (h.modHost f).therm = h.therm := rfl
@[simp] theorem Hw.modHost_fuses (f : HostSt → HostSt) : (h.modHost f).fuses = h.fuses := rfl
@[simp] theorem Hw.modHost_trust (f : HostSt → HostSt) : (h.modHost f).trust = h.trust := rfl
@[simp] theorem Hw.modHost_flash (f : HostSt → HostSt) : (h.modHost f).flash = h.flash := rfl
@[simp] theorem Hw.modHost_fab (f : HostSt → HostSt) : (h.modHost f).fab = h.fab := rfl
@[simp] theorem Hw.modHost_drl (f : HostSt → HostSt) : (h.modHost f).drl = h.drl := rfl
@[simp] theorem Hw.modHost_jtag (f : HostSt → HostSt) : (h.modHost f).jtag = h.jtag := rfl
@[simp] theorem Hw.modHost_msix (f : HostSt → HostSt) : (h.modHost f).msix = h.msix := rfl
@[simp] theorem Hw.modHost_bells (f : HostSt → HostSt) : (h.modHost f).bells = h.bells := rfl
@[simp] theorem Hw.modHost_out (f : HostSt → HostSt) : (h.modHost f).out = h.out := rfl
@[simp] theorem Hw.modHost_fresh (f : HostSt → HostSt) : (h.modHost f).fresh = h.fresh := rfl
@[simp] theorem Hw.modHost_ids (f : HostSt → HostSt) : (h.modHost f).ids = h.ids := rfl

/-! ### modMode -/

@[simp] theorem Hw.modMode_csr (f : ModeSt → ModeSt) : (h.modMode f).csr = h.csr := rfl
@[simp] theorem Hw.modMode_lat (f : ModeSt → ModeSt) : (h.modMode f).lat = h.lat := rfl
@[simp] theorem Hw.modMode_setNow (f : ModeSt → ModeSt) : (h.modMode f).setNow = h.setNow := rfl
@[simp] theorem Hw.modMode_dram (f : ModeSt → ModeSt) : (h.modMode f).dram = h.dram := rfl
@[simp] theorem Hw.modMode_sram (f : ModeSt → ModeSt) : (h.modMode f).sram = h.sram := rfl
@[simp] theorem Hw.modMode_marks (f : ModeSt → ModeSt) : (h.modMode f).marks = h.marks := rfl
@[simp] theorem Hw.modMode_cols (f : ModeSt → ModeSt) : (h.modMode f).cols = h.cols := rfl
@[simp] theorem Hw.modMode_towers (f : ModeSt → ModeSt) : (h.modMode f).towers = h.towers := rfl
@[simp] theorem Hw.modMode_cores (f : ModeSt → ModeSt) : (h.modMode f).cores = h.cores := rfl
@[simp] theorem Hw.modMode_engs (f : ModeSt → ModeSt) : (h.modMode f).engs = h.engs := rfl
@[simp] theorem Hw.modMode_chans (f : ModeSt → ModeSt) : (h.modMode f).chans = h.chans := rfl
@[simp] theorem Hw.modMode_bars (f : ModeSt → ModeSt) : (h.modMode f).bars = h.bars := rfl
@[simp] theorem Hw.modMode_filt (f : ModeSt → ModeSt) : (h.modMode f).filt = h.filt := rfl
@[simp] theorem Hw.modMode_hostHeld (f : ModeSt → ModeSt) : (h.modMode f).hostHeld = h.hostHeld := rfl
@[simp] theorem Hw.modMode_lines (f : ModeSt → ModeSt) : (h.modMode f).lines = h.lines := rfl
@[simp] theorem Hw.modMode_poison (f : ModeSt → ModeSt) : (h.modMode f).poison = h.poison := rfl
@[simp] theorem Hw.modMode_poisonOver (f : ModeSt → ModeSt) : (h.modMode f).poisonOver = h.poisonOver := rfl
@[simp] theorem Hw.modMode_evt (f : ModeSt → ModeSt) : (h.modMode f).evt = h.evt := rfl
@[simp] theorem Hw.modMode_wins (f : ModeSt → ModeSt) : (h.modMode f).wins = h.wins := rfl
@[simp] theorem Hw.modMode_img (f : ModeSt → ModeSt) : (h.modMode f).img = h.img := rfl
@[simp] theorem Hw.modMode_host (f : ModeSt → ModeSt) : (h.modMode f).host = h.host := rfl
@[simp] theorem Hw.modMode_mode (f : ModeSt → ModeSt) : (h.modMode f).mode = f h.mode := rfl
@[simp] theorem Hw.modMode_therm (f : ModeSt → ModeSt) : (h.modMode f).therm = h.therm := rfl
@[simp] theorem Hw.modMode_fuses (f : ModeSt → ModeSt) : (h.modMode f).fuses = h.fuses := rfl
@[simp] theorem Hw.modMode_trust (f : ModeSt → ModeSt) : (h.modMode f).trust = h.trust := rfl
@[simp] theorem Hw.modMode_flash (f : ModeSt → ModeSt) : (h.modMode f).flash = h.flash := rfl
@[simp] theorem Hw.modMode_fab (f : ModeSt → ModeSt) : (h.modMode f).fab = h.fab := rfl
@[simp] theorem Hw.modMode_drl (f : ModeSt → ModeSt) : (h.modMode f).drl = h.drl := rfl
@[simp] theorem Hw.modMode_jtag (f : ModeSt → ModeSt) : (h.modMode f).jtag = h.jtag := rfl
@[simp] theorem Hw.modMode_msix (f : ModeSt → ModeSt) : (h.modMode f).msix = h.msix := rfl
@[simp] theorem Hw.modMode_bells (f : ModeSt → ModeSt) : (h.modMode f).bells = h.bells := rfl
@[simp] theorem Hw.modMode_out (f : ModeSt → ModeSt) : (h.modMode f).out = h.out := rfl
@[simp] theorem Hw.modMode_fresh (f : ModeSt → ModeSt) : (h.modMode f).fresh = h.fresh := rfl
@[simp] theorem Hw.modMode_ids (f : ModeSt → ModeSt) : (h.modMode f).ids = h.ids := rfl

/-! ### modTherm -/

@[simp] theorem Hw.modTherm_csr (f : ThermSt → ThermSt) : (h.modTherm f).csr = h.csr := rfl
@[simp] theorem Hw.modTherm_lat (f : ThermSt → ThermSt) : (h.modTherm f).lat = h.lat := rfl
@[simp] theorem Hw.modTherm_setNow (f : ThermSt → ThermSt) : (h.modTherm f).setNow = h.setNow := rfl
@[simp] theorem Hw.modTherm_dram (f : ThermSt → ThermSt) : (h.modTherm f).dram = h.dram := rfl
@[simp] theorem Hw.modTherm_sram (f : ThermSt → ThermSt) : (h.modTherm f).sram = h.sram := rfl
@[simp] theorem Hw.modTherm_marks (f : ThermSt → ThermSt) : (h.modTherm f).marks = h.marks := rfl
@[simp] theorem Hw.modTherm_cols (f : ThermSt → ThermSt) : (h.modTherm f).cols = h.cols := rfl
@[simp] theorem Hw.modTherm_towers (f : ThermSt → ThermSt) : (h.modTherm f).towers = h.towers := rfl
@[simp] theorem Hw.modTherm_cores (f : ThermSt → ThermSt) : (h.modTherm f).cores = h.cores := rfl
@[simp] theorem Hw.modTherm_engs (f : ThermSt → ThermSt) : (h.modTherm f).engs = h.engs := rfl
@[simp] theorem Hw.modTherm_chans (f : ThermSt → ThermSt) : (h.modTherm f).chans = h.chans := rfl
@[simp] theorem Hw.modTherm_bars (f : ThermSt → ThermSt) : (h.modTherm f).bars = h.bars := rfl
@[simp] theorem Hw.modTherm_filt (f : ThermSt → ThermSt) : (h.modTherm f).filt = h.filt := rfl
@[simp] theorem Hw.modTherm_hostHeld (f : ThermSt → ThermSt) : (h.modTherm f).hostHeld = h.hostHeld := rfl
@[simp] theorem Hw.modTherm_lines (f : ThermSt → ThermSt) : (h.modTherm f).lines = h.lines := rfl
@[simp] theorem Hw.modTherm_poison (f : ThermSt → ThermSt) : (h.modTherm f).poison = h.poison := rfl
@[simp] theorem Hw.modTherm_poisonOver (f : ThermSt → ThermSt) : (h.modTherm f).poisonOver = h.poisonOver := rfl
@[simp] theorem Hw.modTherm_evt (f : ThermSt → ThermSt) : (h.modTherm f).evt = h.evt := rfl
@[simp] theorem Hw.modTherm_wins (f : ThermSt → ThermSt) : (h.modTherm f).wins = h.wins := rfl
@[simp] theorem Hw.modTherm_img (f : ThermSt → ThermSt) : (h.modTherm f).img = h.img := rfl
@[simp] theorem Hw.modTherm_host (f : ThermSt → ThermSt) : (h.modTherm f).host = h.host := rfl
@[simp] theorem Hw.modTherm_mode (f : ThermSt → ThermSt) : (h.modTherm f).mode = h.mode := rfl
@[simp] theorem Hw.modTherm_therm (f : ThermSt → ThermSt) : (h.modTherm f).therm = f h.therm := rfl
@[simp] theorem Hw.modTherm_fuses (f : ThermSt → ThermSt) : (h.modTherm f).fuses = h.fuses := rfl
@[simp] theorem Hw.modTherm_trust (f : ThermSt → ThermSt) : (h.modTherm f).trust = h.trust := rfl
@[simp] theorem Hw.modTherm_flash (f : ThermSt → ThermSt) : (h.modTherm f).flash = h.flash := rfl
@[simp] theorem Hw.modTherm_fab (f : ThermSt → ThermSt) : (h.modTherm f).fab = h.fab := rfl
@[simp] theorem Hw.modTherm_drl (f : ThermSt → ThermSt) : (h.modTherm f).drl = h.drl := rfl
@[simp] theorem Hw.modTherm_jtag (f : ThermSt → ThermSt) : (h.modTherm f).jtag = h.jtag := rfl
@[simp] theorem Hw.modTherm_msix (f : ThermSt → ThermSt) : (h.modTherm f).msix = h.msix := rfl
@[simp] theorem Hw.modTherm_bells (f : ThermSt → ThermSt) : (h.modTherm f).bells = h.bells := rfl
@[simp] theorem Hw.modTherm_out (f : ThermSt → ThermSt) : (h.modTherm f).out = h.out := rfl
@[simp] theorem Hw.modTherm_fresh (f : ThermSt → ThermSt) : (h.modTherm f).fresh = h.fresh := rfl
@[simp] theorem Hw.modTherm_ids (f : ThermSt → ThermSt) : (h.modTherm f).ids = h.ids := rfl

/-! ### modTrust -/

@[simp] theorem Hw.modTrust_csr (f : TrustSt → TrustSt) : (h.modTrust f).csr = h.csr := rfl
@[simp] theorem Hw.modTrust_lat (f : TrustSt → TrustSt) : (h.modTrust f).lat = h.lat := rfl
@[simp] theorem Hw.modTrust_setNow (f : TrustSt → TrustSt) : (h.modTrust f).setNow = h.setNow := rfl
@[simp] theorem Hw.modTrust_dram (f : TrustSt → TrustSt) : (h.modTrust f).dram = h.dram := rfl
@[simp] theorem Hw.modTrust_sram (f : TrustSt → TrustSt) : (h.modTrust f).sram = h.sram := rfl
@[simp] theorem Hw.modTrust_marks (f : TrustSt → TrustSt) : (h.modTrust f).marks = h.marks := rfl
@[simp] theorem Hw.modTrust_cols (f : TrustSt → TrustSt) : (h.modTrust f).cols = h.cols := rfl
@[simp] theorem Hw.modTrust_towers (f : TrustSt → TrustSt) : (h.modTrust f).towers = h.towers := rfl
@[simp] theorem Hw.modTrust_cores (f : TrustSt → TrustSt) : (h.modTrust f).cores = h.cores := rfl
@[simp] theorem Hw.modTrust_engs (f : TrustSt → TrustSt) : (h.modTrust f).engs = h.engs := rfl
@[simp] theorem Hw.modTrust_chans (f : TrustSt → TrustSt) : (h.modTrust f).chans = h.chans := rfl
@[simp] theorem Hw.modTrust_bars (f : TrustSt → TrustSt) : (h.modTrust f).bars = h.bars := rfl
@[simp] theorem Hw.modTrust_filt (f : TrustSt → TrustSt) : (h.modTrust f).filt = h.filt := rfl
@[simp] theorem Hw.modTrust_hostHeld (f : TrustSt → TrustSt) : (h.modTrust f).hostHeld = h.hostHeld := rfl
@[simp] theorem Hw.modTrust_lines (f : TrustSt → TrustSt) : (h.modTrust f).lines = h.lines := rfl
@[simp] theorem Hw.modTrust_poison (f : TrustSt → TrustSt) : (h.modTrust f).poison = h.poison := rfl
@[simp] theorem Hw.modTrust_poisonOver (f : TrustSt → TrustSt) : (h.modTrust f).poisonOver = h.poisonOver := rfl
@[simp] theorem Hw.modTrust_evt (f : TrustSt → TrustSt) : (h.modTrust f).evt = h.evt := rfl
@[simp] theorem Hw.modTrust_wins (f : TrustSt → TrustSt) : (h.modTrust f).wins = h.wins := rfl
@[simp] theorem Hw.modTrust_img (f : TrustSt → TrustSt) : (h.modTrust f).img = h.img := rfl
@[simp] theorem Hw.modTrust_host (f : TrustSt → TrustSt) : (h.modTrust f).host = h.host := rfl
@[simp] theorem Hw.modTrust_mode (f : TrustSt → TrustSt) : (h.modTrust f).mode = h.mode := rfl
@[simp] theorem Hw.modTrust_therm (f : TrustSt → TrustSt) : (h.modTrust f).therm = h.therm := rfl
@[simp] theorem Hw.modTrust_fuses (f : TrustSt → TrustSt) : (h.modTrust f).fuses = h.fuses := rfl
@[simp] theorem Hw.modTrust_trust (f : TrustSt → TrustSt) : (h.modTrust f).trust = f h.trust := rfl
@[simp] theorem Hw.modTrust_flash (f : TrustSt → TrustSt) : (h.modTrust f).flash = h.flash := rfl
@[simp] theorem Hw.modTrust_fab (f : TrustSt → TrustSt) : (h.modTrust f).fab = h.fab := rfl
@[simp] theorem Hw.modTrust_drl (f : TrustSt → TrustSt) : (h.modTrust f).drl = h.drl := rfl
@[simp] theorem Hw.modTrust_jtag (f : TrustSt → TrustSt) : (h.modTrust f).jtag = h.jtag := rfl
@[simp] theorem Hw.modTrust_msix (f : TrustSt → TrustSt) : (h.modTrust f).msix = h.msix := rfl
@[simp] theorem Hw.modTrust_bells (f : TrustSt → TrustSt) : (h.modTrust f).bells = h.bells := rfl
@[simp] theorem Hw.modTrust_out (f : TrustSt → TrustSt) : (h.modTrust f).out = h.out := rfl
@[simp] theorem Hw.modTrust_fresh (f : TrustSt → TrustSt) : (h.modTrust f).fresh = h.fresh := rfl
@[simp] theorem Hw.modTrust_ids (f : TrustSt → TrustSt) : (h.modTrust f).ids = h.ids := rfl

/-! ### modFlash -/

@[simp] theorem Hw.modFlash_csr (f : FlashSt → FlashSt) : (h.modFlash f).csr = h.csr := rfl
@[simp] theorem Hw.modFlash_lat (f : FlashSt → FlashSt) : (h.modFlash f).lat = h.lat := rfl
@[simp] theorem Hw.modFlash_setNow (f : FlashSt → FlashSt) : (h.modFlash f).setNow = h.setNow := rfl
@[simp] theorem Hw.modFlash_dram (f : FlashSt → FlashSt) : (h.modFlash f).dram = h.dram := rfl
@[simp] theorem Hw.modFlash_sram (f : FlashSt → FlashSt) : (h.modFlash f).sram = h.sram := rfl
@[simp] theorem Hw.modFlash_marks (f : FlashSt → FlashSt) : (h.modFlash f).marks = h.marks := rfl
@[simp] theorem Hw.modFlash_cols (f : FlashSt → FlashSt) : (h.modFlash f).cols = h.cols := rfl
@[simp] theorem Hw.modFlash_towers (f : FlashSt → FlashSt) : (h.modFlash f).towers = h.towers := rfl
@[simp] theorem Hw.modFlash_cores (f : FlashSt → FlashSt) : (h.modFlash f).cores = h.cores := rfl
@[simp] theorem Hw.modFlash_engs (f : FlashSt → FlashSt) : (h.modFlash f).engs = h.engs := rfl
@[simp] theorem Hw.modFlash_chans (f : FlashSt → FlashSt) : (h.modFlash f).chans = h.chans := rfl
@[simp] theorem Hw.modFlash_bars (f : FlashSt → FlashSt) : (h.modFlash f).bars = h.bars := rfl
@[simp] theorem Hw.modFlash_filt (f : FlashSt → FlashSt) : (h.modFlash f).filt = h.filt := rfl
@[simp] theorem Hw.modFlash_hostHeld (f : FlashSt → FlashSt) : (h.modFlash f).hostHeld = h.hostHeld := rfl
@[simp] theorem Hw.modFlash_lines (f : FlashSt → FlashSt) : (h.modFlash f).lines = h.lines := rfl
@[simp] theorem Hw.modFlash_poison (f : FlashSt → FlashSt) : (h.modFlash f).poison = h.poison := rfl
@[simp] theorem Hw.modFlash_poisonOver (f : FlashSt → FlashSt) : (h.modFlash f).poisonOver = h.poisonOver := rfl
@[simp] theorem Hw.modFlash_evt (f : FlashSt → FlashSt) : (h.modFlash f).evt = h.evt := rfl
@[simp] theorem Hw.modFlash_wins (f : FlashSt → FlashSt) : (h.modFlash f).wins = h.wins := rfl
@[simp] theorem Hw.modFlash_img (f : FlashSt → FlashSt) : (h.modFlash f).img = h.img := rfl
@[simp] theorem Hw.modFlash_host (f : FlashSt → FlashSt) : (h.modFlash f).host = h.host := rfl
@[simp] theorem Hw.modFlash_mode (f : FlashSt → FlashSt) : (h.modFlash f).mode = h.mode := rfl
@[simp] theorem Hw.modFlash_therm (f : FlashSt → FlashSt) : (h.modFlash f).therm = h.therm := rfl
@[simp] theorem Hw.modFlash_fuses (f : FlashSt → FlashSt) : (h.modFlash f).fuses = h.fuses := rfl
@[simp] theorem Hw.modFlash_trust (f : FlashSt → FlashSt) : (h.modFlash f).trust = h.trust := rfl
@[simp] theorem Hw.modFlash_flash (f : FlashSt → FlashSt) : (h.modFlash f).flash = f h.flash := rfl
@[simp] theorem Hw.modFlash_fab (f : FlashSt → FlashSt) : (h.modFlash f).fab = h.fab := rfl
@[simp] theorem Hw.modFlash_drl (f : FlashSt → FlashSt) : (h.modFlash f).drl = h.drl := rfl
@[simp] theorem Hw.modFlash_jtag (f : FlashSt → FlashSt) : (h.modFlash f).jtag = h.jtag := rfl
@[simp] theorem Hw.modFlash_msix (f : FlashSt → FlashSt) : (h.modFlash f).msix = h.msix := rfl
@[simp] theorem Hw.modFlash_bells (f : FlashSt → FlashSt) : (h.modFlash f).bells = h.bells := rfl
@[simp] theorem Hw.modFlash_out (f : FlashSt → FlashSt) : (h.modFlash f).out = h.out := rfl
@[simp] theorem Hw.modFlash_fresh (f : FlashSt → FlashSt) : (h.modFlash f).fresh = h.fresh := rfl
@[simp] theorem Hw.modFlash_ids (f : FlashSt → FlashSt) : (h.modFlash f).ids = h.ids := rfl

/-! ### modFab -/

@[simp] theorem Hw.modFab_csr (f : FabSt → FabSt) : (h.modFab f).csr = h.csr := rfl
@[simp] theorem Hw.modFab_lat (f : FabSt → FabSt) : (h.modFab f).lat = h.lat := rfl
@[simp] theorem Hw.modFab_setNow (f : FabSt → FabSt) : (h.modFab f).setNow = h.setNow := rfl
@[simp] theorem Hw.modFab_dram (f : FabSt → FabSt) : (h.modFab f).dram = h.dram := rfl
@[simp] theorem Hw.modFab_sram (f : FabSt → FabSt) : (h.modFab f).sram = h.sram := rfl
@[simp] theorem Hw.modFab_marks (f : FabSt → FabSt) : (h.modFab f).marks = h.marks := rfl
@[simp] theorem Hw.modFab_cols (f : FabSt → FabSt) : (h.modFab f).cols = h.cols := rfl
@[simp] theorem Hw.modFab_towers (f : FabSt → FabSt) : (h.modFab f).towers = h.towers := rfl
@[simp] theorem Hw.modFab_cores (f : FabSt → FabSt) : (h.modFab f).cores = h.cores := rfl
@[simp] theorem Hw.modFab_engs (f : FabSt → FabSt) : (h.modFab f).engs = h.engs := rfl
@[simp] theorem Hw.modFab_chans (f : FabSt → FabSt) : (h.modFab f).chans = h.chans := rfl
@[simp] theorem Hw.modFab_bars (f : FabSt → FabSt) : (h.modFab f).bars = h.bars := rfl
@[simp] theorem Hw.modFab_filt (f : FabSt → FabSt) : (h.modFab f).filt = h.filt := rfl
@[simp] theorem Hw.modFab_hostHeld (f : FabSt → FabSt) : (h.modFab f).hostHeld = h.hostHeld := rfl
@[simp] theorem Hw.modFab_lines (f : FabSt → FabSt) : (h.modFab f).lines = h.lines := rfl
@[simp] theorem Hw.modFab_poison (f : FabSt → FabSt) : (h.modFab f).poison = h.poison := rfl
@[simp] theorem Hw.modFab_poisonOver (f : FabSt → FabSt) : (h.modFab f).poisonOver = h.poisonOver := rfl
@[simp] theorem Hw.modFab_evt (f : FabSt → FabSt) : (h.modFab f).evt = h.evt := rfl
@[simp] theorem Hw.modFab_wins (f : FabSt → FabSt) : (h.modFab f).wins = h.wins := rfl
@[simp] theorem Hw.modFab_img (f : FabSt → FabSt) : (h.modFab f).img = h.img := rfl
@[simp] theorem Hw.modFab_host (f : FabSt → FabSt) : (h.modFab f).host = h.host := rfl
@[simp] theorem Hw.modFab_mode (f : FabSt → FabSt) : (h.modFab f).mode = h.mode := rfl
@[simp] theorem Hw.modFab_therm (f : FabSt → FabSt) : (h.modFab f).therm = h.therm := rfl
@[simp] theorem Hw.modFab_fuses (f : FabSt → FabSt) : (h.modFab f).fuses = h.fuses := rfl
@[simp] theorem Hw.modFab_trust (f : FabSt → FabSt) : (h.modFab f).trust = h.trust := rfl
@[simp] theorem Hw.modFab_flash (f : FabSt → FabSt) : (h.modFab f).flash = h.flash := rfl
@[simp] theorem Hw.modFab_fab (f : FabSt → FabSt) : (h.modFab f).fab = f h.fab := rfl
@[simp] theorem Hw.modFab_drl (f : FabSt → FabSt) : (h.modFab f).drl = h.drl := rfl
@[simp] theorem Hw.modFab_jtag (f : FabSt → FabSt) : (h.modFab f).jtag = h.jtag := rfl
@[simp] theorem Hw.modFab_msix (f : FabSt → FabSt) : (h.modFab f).msix = h.msix := rfl
@[simp] theorem Hw.modFab_bells (f : FabSt → FabSt) : (h.modFab f).bells = h.bells := rfl
@[simp] theorem Hw.modFab_out (f : FabSt → FabSt) : (h.modFab f).out = h.out := rfl
@[simp] theorem Hw.modFab_fresh (f : FabSt → FabSt) : (h.modFab f).fresh = h.fresh := rfl
@[simp] theorem Hw.modFab_ids (f : FabSt → FabSt) : (h.modFab f).ids = h.ids := rfl

/-! ### modPort -/

@[simp] theorem Hw.modPort_csr (p : Nat) (f : Port → Port) : (h.modPort p f).csr = h.csr := rfl
@[simp] theorem Hw.modPort_lat (p : Nat) (f : Port → Port) : (h.modPort p f).lat = h.lat := rfl
@[simp] theorem Hw.modPort_setNow (p : Nat) (f : Port → Port) : (h.modPort p f).setNow = h.setNow := rfl
@[simp] theorem Hw.modPort_dram (p : Nat) (f : Port → Port) : (h.modPort p f).dram = h.dram := rfl
@[simp] theorem Hw.modPort_sram (p : Nat) (f : Port → Port) : (h.modPort p f).sram = h.sram := rfl
@[simp] theorem Hw.modPort_marks (p : Nat) (f : Port → Port) : (h.modPort p f).marks = h.marks := rfl
@[simp] theorem Hw.modPort_cols (p : Nat) (f : Port → Port) : (h.modPort p f).cols = h.cols := rfl
@[simp] theorem Hw.modPort_towers (p : Nat) (f : Port → Port) : (h.modPort p f).towers = h.towers := rfl
@[simp] theorem Hw.modPort_cores (p : Nat) (f : Port → Port) : (h.modPort p f).cores = h.cores := rfl
@[simp] theorem Hw.modPort_engs (p : Nat) (f : Port → Port) : (h.modPort p f).engs = h.engs := rfl
@[simp] theorem Hw.modPort_chans (p : Nat) (f : Port → Port) : (h.modPort p f).chans = h.chans := rfl
@[simp] theorem Hw.modPort_bars (p : Nat) (f : Port → Port) : (h.modPort p f).bars = h.bars := rfl
@[simp] theorem Hw.modPort_filt (p : Nat) (f : Port → Port) : (h.modPort p f).filt = h.filt := rfl
@[simp] theorem Hw.modPort_hostHeld (p : Nat) (f : Port → Port) : (h.modPort p f).hostHeld = h.hostHeld := rfl
@[simp] theorem Hw.modPort_lines (p : Nat) (f : Port → Port) : (h.modPort p f).lines = h.lines := rfl
@[simp] theorem Hw.modPort_poison (p : Nat) (f : Port → Port) : (h.modPort p f).poison = h.poison := rfl
@[simp] theorem Hw.modPort_poisonOver (p : Nat) (f : Port → Port) : (h.modPort p f).poisonOver = h.poisonOver := rfl
@[simp] theorem Hw.modPort_evt (p : Nat) (f : Port → Port) : (h.modPort p f).evt = h.evt := rfl
@[simp] theorem Hw.modPort_wins (p : Nat) (f : Port → Port) : (h.modPort p f).wins = h.wins := rfl
@[simp] theorem Hw.modPort_img (p : Nat) (f : Port → Port) : (h.modPort p f).img = h.img := rfl
@[simp] theorem Hw.modPort_host (p : Nat) (f : Port → Port) : (h.modPort p f).host = h.host := rfl
@[simp] theorem Hw.modPort_mode (p : Nat) (f : Port → Port) : (h.modPort p f).mode = h.mode := rfl
@[simp] theorem Hw.modPort_therm (p : Nat) (f : Port → Port) : (h.modPort p f).therm = h.therm := rfl
@[simp] theorem Hw.modPort_fuses (p : Nat) (f : Port → Port) : (h.modPort p f).fuses = h.fuses := rfl
@[simp] theorem Hw.modPort_trust (p : Nat) (f : Port → Port) : (h.modPort p f).trust = h.trust := rfl
@[simp] theorem Hw.modPort_flash (p : Nat) (f : Port → Port) : (h.modPort p f).flash = h.flash := rfl
@[simp] theorem Hw.modPort_drl (p : Nat) (f : Port → Port) : (h.modPort p f).drl = h.drl := rfl
@[simp] theorem Hw.modPort_jtag (p : Nat) (f : Port → Port) : (h.modPort p f).jtag = h.jtag := rfl
@[simp] theorem Hw.modPort_msix (p : Nat) (f : Port → Port) : (h.modPort p f).msix = h.msix := rfl
@[simp] theorem Hw.modPort_bells (p : Nat) (f : Port → Port) : (h.modPort p f).bells = h.bells := rfl
@[simp] theorem Hw.modPort_out (p : Nat) (f : Port → Port) : (h.modPort p f).out = h.out := rfl
@[simp] theorem Hw.modPort_fresh (p : Nat) (f : Port → Port) : (h.modPort p f).fresh = h.fresh := rfl
@[simp] theorem Hw.modPort_ids (p : Nat) (f : Port → Port) : (h.modPort p f).ids = h.ids := rfl

/-! ### modDrl -/

@[simp] theorem Hw.modDrl_csr (f : DrlSt → DrlSt) : (h.modDrl f).csr = h.csr := rfl
@[simp] theorem Hw.modDrl_lat (f : DrlSt → DrlSt) : (h.modDrl f).lat = h.lat := rfl
@[simp] theorem Hw.modDrl_setNow (f : DrlSt → DrlSt) : (h.modDrl f).setNow = h.setNow := rfl
@[simp] theorem Hw.modDrl_dram (f : DrlSt → DrlSt) : (h.modDrl f).dram = h.dram := rfl
@[simp] theorem Hw.modDrl_sram (f : DrlSt → DrlSt) : (h.modDrl f).sram = h.sram := rfl
@[simp] theorem Hw.modDrl_marks (f : DrlSt → DrlSt) : (h.modDrl f).marks = h.marks := rfl
@[simp] theorem Hw.modDrl_cols (f : DrlSt → DrlSt) : (h.modDrl f).cols = h.cols := rfl
@[simp] theorem Hw.modDrl_towers (f : DrlSt → DrlSt) : (h.modDrl f).towers = h.towers := rfl
@[simp] theorem Hw.modDrl_cores (f : DrlSt → DrlSt) : (h.modDrl f).cores = h.cores := rfl
@[simp] theorem Hw.modDrl_engs (f : DrlSt → DrlSt) : (h.modDrl f).engs = h.engs := rfl
@[simp] theorem Hw.modDrl_chans (f : DrlSt → DrlSt) : (h.modDrl f).chans = h.chans := rfl
@[simp] theorem Hw.modDrl_bars (f : DrlSt → DrlSt) : (h.modDrl f).bars = h.bars := rfl
@[simp] theorem Hw.modDrl_filt (f : DrlSt → DrlSt) : (h.modDrl f).filt = h.filt := rfl
@[simp] theorem Hw.modDrl_hostHeld (f : DrlSt → DrlSt) : (h.modDrl f).hostHeld = h.hostHeld := rfl
@[simp] theorem Hw.modDrl_lines (f : DrlSt → DrlSt) : (h.modDrl f).lines = h.lines := rfl
@[simp] theorem Hw.modDrl_poison (f : DrlSt → DrlSt) : (h.modDrl f).poison = h.poison := rfl
@[simp] theorem Hw.modDrl_poisonOver (f : DrlSt → DrlSt) : (h.modDrl f).poisonOver = h.poisonOver := rfl
@[simp] theorem Hw.modDrl_evt (f : DrlSt → DrlSt) : (h.modDrl f).evt = h.evt := rfl
@[simp] theorem Hw.modDrl_wins (f : DrlSt → DrlSt) : (h.modDrl f).wins = h.wins := rfl
@[simp] theorem Hw.modDrl_img (f : DrlSt → DrlSt) : (h.modDrl f).img = h.img := rfl
@[simp] theorem Hw.modDrl_host (f : DrlSt → DrlSt) : (h.modDrl f).host = h.host := rfl
@[simp] theorem Hw.modDrl_mode (f : DrlSt → DrlSt) : (h.modDrl f).mode = h.mode := rfl
@[simp] theorem Hw.modDrl_therm (f : DrlSt → DrlSt) : (h.modDrl f).therm = h.therm := rfl
@[simp] theorem Hw.modDrl_fuses (f : DrlSt → DrlSt) : (h.modDrl f).fuses = h.fuses := rfl
@[simp] theorem Hw.modDrl_trust (f : DrlSt → DrlSt) : (h.modDrl f).trust = h.trust := rfl
@[simp] theorem Hw.modDrl_flash (f : DrlSt → DrlSt) : (h.modDrl f).flash = h.flash := rfl
@[simp] theorem Hw.modDrl_fab (f : DrlSt → DrlSt) : (h.modDrl f).fab = h.fab := rfl
@[simp] theorem Hw.modDrl_drl (f : DrlSt → DrlSt) : (h.modDrl f).drl = f h.drl := rfl
@[simp] theorem Hw.modDrl_jtag (f : DrlSt → DrlSt) : (h.modDrl f).jtag = h.jtag := rfl
@[simp] theorem Hw.modDrl_msix (f : DrlSt → DrlSt) : (h.modDrl f).msix = h.msix := rfl
@[simp] theorem Hw.modDrl_bells (f : DrlSt → DrlSt) : (h.modDrl f).bells = h.bells := rfl
@[simp] theorem Hw.modDrl_out (f : DrlSt → DrlSt) : (h.modDrl f).out = h.out := rfl
@[simp] theorem Hw.modDrl_fresh (f : DrlSt → DrlSt) : (h.modDrl f).fresh = h.fresh := rfl
@[simp] theorem Hw.modDrl_ids (f : DrlSt → DrlSt) : (h.modDrl f).ids = h.ids := rfl

/-! ### send -/

@[simp] theorem Hw.send_csr (m : Msg) : (h.send m).csr = h.csr := rfl
@[simp] theorem Hw.send_lat (m : Msg) : (h.send m).lat = h.lat := rfl
@[simp] theorem Hw.send_setNow (m : Msg) : (h.send m).setNow = h.setNow := rfl
@[simp] theorem Hw.send_dram (m : Msg) : (h.send m).dram = h.dram := rfl
@[simp] theorem Hw.send_sram (m : Msg) : (h.send m).sram = h.sram := rfl
@[simp] theorem Hw.send_marks (m : Msg) : (h.send m).marks = h.marks := rfl
@[simp] theorem Hw.send_cols (m : Msg) : (h.send m).cols = h.cols := rfl
@[simp] theorem Hw.send_towers (m : Msg) : (h.send m).towers = h.towers := rfl
@[simp] theorem Hw.send_cores (m : Msg) : (h.send m).cores = h.cores := rfl
@[simp] theorem Hw.send_engs (m : Msg) : (h.send m).engs = h.engs := rfl
@[simp] theorem Hw.send_chans (m : Msg) : (h.send m).chans = h.chans := rfl
@[simp] theorem Hw.send_bars (m : Msg) : (h.send m).bars = h.bars := rfl
@[simp] theorem Hw.send_filt (m : Msg) : (h.send m).filt = h.filt := rfl
@[simp] theorem Hw.send_hostHeld (m : Msg) : (h.send m).hostHeld = h.hostHeld := rfl
@[simp] theorem Hw.send_lines (m : Msg) : (h.send m).lines = h.lines := rfl
@[simp] theorem Hw.send_poison (m : Msg) : (h.send m).poison = h.poison := rfl
@[simp] theorem Hw.send_poisonOver (m : Msg) : (h.send m).poisonOver = h.poisonOver := rfl
@[simp] theorem Hw.send_evt (m : Msg) : (h.send m).evt = h.evt := rfl
@[simp] theorem Hw.send_wins (m : Msg) : (h.send m).wins = h.wins := rfl
@[simp] theorem Hw.send_img (m : Msg) : (h.send m).img = h.img := rfl
@[simp] theorem Hw.send_host (m : Msg) : (h.send m).host = h.host := rfl
@[simp] theorem Hw.send_mode (m : Msg) : (h.send m).mode = h.mode := rfl
@[simp] theorem Hw.send_therm (m : Msg) : (h.send m).therm = h.therm := rfl
@[simp] theorem Hw.send_fuses (m : Msg) : (h.send m).fuses = h.fuses := rfl
@[simp] theorem Hw.send_trust (m : Msg) : (h.send m).trust = h.trust := rfl
@[simp] theorem Hw.send_flash (m : Msg) : (h.send m).flash = h.flash := rfl
@[simp] theorem Hw.send_fab (m : Msg) : (h.send m).fab = h.fab := rfl
@[simp] theorem Hw.send_drl (m : Msg) : (h.send m).drl = h.drl := rfl
@[simp] theorem Hw.send_jtag (m : Msg) : (h.send m).jtag = h.jtag := rfl
@[simp] theorem Hw.send_msix (m : Msg) : (h.send m).msix = h.msix := rfl
@[simp] theorem Hw.send_bells (m : Msg) : (h.send m).bells = h.bells := rfl
@[simp] theorem Hw.send_out (m : Msg) : (h.send m).out = m :: h.out := rfl
@[simp] theorem Hw.send_fresh (m : Msg) : (h.send m).fresh = h.fresh := rfl
@[simp] theorem Hw.send_ids (m : Msg) : (h.send m).ids = h.ids := rfl

/-! ### raise -/

@[simp] theorem Hw.raise_csr (v : Nat) : (h.raise v).csr = h.csr := rfl
@[simp] theorem Hw.raise_lat (v : Nat) : (h.raise v).lat = h.lat := rfl
@[simp] theorem Hw.raise_setNow (v : Nat) : (h.raise v).setNow = h.setNow := rfl
@[simp] theorem Hw.raise_dram (v : Nat) : (h.raise v).dram = h.dram := rfl
@[simp] theorem Hw.raise_sram (v : Nat) : (h.raise v).sram = h.sram := rfl
@[simp] theorem Hw.raise_marks (v : Nat) : (h.raise v).marks = h.marks := rfl
@[simp] theorem Hw.raise_cols (v : Nat) : (h.raise v).cols = h.cols := rfl
@[simp] theorem Hw.raise_towers (v : Nat) : (h.raise v).towers = h.towers := rfl
@[simp] theorem Hw.raise_cores (v : Nat) : (h.raise v).cores = h.cores := rfl
@[simp] theorem Hw.raise_engs (v : Nat) : (h.raise v).engs = h.engs := rfl
@[simp] theorem Hw.raise_chans (v : Nat) : (h.raise v).chans = h.chans := rfl
@[simp] theorem Hw.raise_bars (v : Nat) : (h.raise v).bars = h.bars := rfl
@[simp] theorem Hw.raise_filt (v : Nat) : (h.raise v).filt = h.filt := rfl
@[simp] theorem Hw.raise_hostHeld (v : Nat) : (h.raise v).hostHeld = h.hostHeld := rfl
@[simp] theorem Hw.raise_lines (v : Nat) : (h.raise v).lines = h.lines := rfl
@[simp] theorem Hw.raise_poison (v : Nat) : (h.raise v).poison = h.poison := rfl
@[simp] theorem Hw.raise_poisonOver (v : Nat) : (h.raise v).poisonOver = h.poisonOver := rfl
@[simp] theorem Hw.raise_evt (v : Nat) : (h.raise v).evt = h.evt := rfl
@[simp] theorem Hw.raise_wins (v : Nat) : (h.raise v).wins = h.wins := rfl
@[simp] theorem Hw.raise_img (v : Nat) : (h.raise v).img = h.img := rfl
@[simp] theorem Hw.raise_host (v : Nat) : (h.raise v).host = h.host := rfl
@[simp] theorem Hw.raise_mode (v : Nat) : (h.raise v).mode = h.mode := rfl
@[simp] theorem Hw.raise_therm (v : Nat) : (h.raise v).therm = h.therm := rfl
@[simp] theorem Hw.raise_fuses (v : Nat) : (h.raise v).fuses = h.fuses := rfl
@[simp] theorem Hw.raise_trust (v : Nat) : (h.raise v).trust = h.trust := rfl
@[simp] theorem Hw.raise_flash (v : Nat) : (h.raise v).flash = h.flash := rfl
@[simp] theorem Hw.raise_fab (v : Nat) : (h.raise v).fab = h.fab := rfl
@[simp] theorem Hw.raise_drl (v : Nat) : (h.raise v).drl = h.drl := rfl
@[simp] theorem Hw.raise_jtag (v : Nat) : (h.raise v).jtag = h.jtag := rfl
@[simp] theorem Hw.raise_bells (v : Nat) : (h.raise v).bells = h.bells := rfl
@[simp] theorem Hw.raise_out (v : Nat) : (h.raise v).out = if h.msix.sends v then .msix v :: h.out else h.out := rfl
@[simp] theorem Hw.raise_fresh (v : Nat) : (h.raise v).fresh = h.fresh := rfl
@[simp] theorem Hw.raise_ids (v : Nat) : (h.raise v).ids = h.ids := rfl

/-- A vector raised is sent or stands in its pending bit. -/
theorem Hw.raise_shows (v : Nat) : Msg.msix v ∈ (h.raise v).out ∨ v ∈ (h.raise v).msix.pending := by
  unfold Hw.raise
  by_cases s : h.msix.sends v = true
  · exact .inl (by simp [s])
  · by_cases p : v ∈ h.msix.pending
    · exact .inr (by simp [s, p])
    · exact .inr (by simp [s, p])

end Sys2Proof.Machine
end

