-- ==== Sys2Proof/Laws/Table.lean ====
section
/-!
SUPPORT. Laws of sparse tables and byte memories: what a read finds after a write, and that every write keeps the canonical form.
-/
namespace Sys2Proof.Machine

variable {α : Type}

/-! ## A read after a write -/

theorem tget_tins_same (d : Nat → α) (t : Tab α) (k : Nat) (v : α) : tget d (tins k v t) k = v := by
  induction t with
  | nil => simp [tins, tget]
  | cons x t ih =>
    obtain ⟨j, w⟩ := x
    simp only [tins]
    split
    · simp [tget]
    · split
      · simp [tget]
      · rename_i h _
        simp [tget, h, ih]

theorem tget_tins_other (d : Nat → α) (t : Tab α) (k j : Nat) (v : α) (h : j ≠ k) : tget d (tins k v t) j = tget d t j := by
  induction t with
  | nil => simp [tins, tget, h]
  | cons x t ih =>
    obtain ⟨i, w⟩ := x
    simp only [tins]
    split
    · rename_i e
      subst e
      simp [tget, h]
    · split
      · simp [tget, h]
      · simp only [tget, ih]

theorem tget_terase_same (d : Nat → α) (t : Tab α) (k : Nat) : tget d (terase k t) k = d k := by
  induction t with
  | nil => rfl
  | cons x t ih =>
    obtain ⟨j, w⟩ := x
    simp only [terase]
    split
    · exact ih
    · rename_i h
      simp [tget, h, ih]

theorem tget_terase_other (d : Nat → α) (t : Tab α) (k j : Nat) (h : j ≠ k) : tget d (terase k t) j = tget d t j := by
  induction t with
  | nil => rfl
  | cons x t ih =>
    obtain ⟨i, w⟩ := x
    simp only [terase]
    split
    · rename_i e
      subst e
      simp [tget, h, ih]
    · simp only [tget, ih]

variable [DecidableEq α]

@[simp] theorem tget_tset_same (d : Nat → α) (t : Tab α) (k : Nat) (v : α) : tget d (tset d t k v) k = v := by
  unfold tset
  split
  · rename_i h
    rw [tget_terase_same, h]
  · exact tget_tins_same d t k v

theorem tget_tset_other (d : Nat → α) (t : Tab α) (k j : Nat) (v : α) (h : j ≠ k) : tget d (tset d t k v) j = tget d t j := by
  unfold tset
  split
  · exact tget_terase_other d t k j h
  · exact tget_tins_other d t k j v h

/-! ## The canonical form is kept -/

theorem twfFrom_mono (d : Nat → α) (t : Tab α) (a b : Nat) (h : a ≤ b) (w : twfFrom d b t = true) : twfFrom d a t = true := by
  cases t with
  | nil => rfl
  | cons x t =>
    obtain ⟨j, v⟩ := x
    simp only [twfFrom, Bool.and_eq_true, decide_eq_true_eq] at w ⊢
    exact ⟨⟨by omega, w.1.2⟩, w.2⟩

theorem twfFrom_terase (d : Nat → α) (t : Tab α) (lo k : Nat) (w : twfFrom d lo t = true) : twfFrom d lo (terase k t) = true := by
  induction t generalizing lo with
  | nil => rfl
  | cons x t ih =>
    obtain ⟨j, v⟩ := x
    simp only [twfFrom, Bool.and_eq_true, decide_eq_true_eq] at w
    simp only [terase]
    split
    · exact twfFrom_mono d _ lo (j + 1) (by omega) (ih _ w.2)
    · simp only [twfFrom, Bool.and_eq_true, decide_eq_true_eq]
      exact ⟨w.1, ih _ w.2⟩

theorem twfFrom_tins (d : Nat → α) (t : Tab α) (lo k : Nat) (v : α) (hk : lo ≤ k) (hv : v ≠ d k) (w : twfFrom d lo t = true) :
    twfFrom d lo (tins k v t) = true := by
  induction t generalizing lo with
  | nil => simp [tins, twfFrom, hk, hv]
  | cons x t ih =>
    obtain ⟨j, u⟩ := x
    simp only [twfFrom, Bool.and_eq_true, decide_eq_true_eq] at w
    simp only [tins]
    split
    · rename_i e
      subst e
      simp [twfFrom, hk, hv, w.2]
    · split
      · rename_i h1 h2
        have h3 : k + 1 ≤ j := h2
        simp only [twfFrom, Bool.and_eq_true, decide_eq_true_eq]
        exact ⟨⟨hk, by simp [hv]⟩, ⟨h3, w.1.2⟩, w.2⟩
      · rename_i h1 h2
        simp only [twfFrom, Bool.and_eq_true, decide_eq_true_eq]
        exact ⟨w.1, ih (j + 1) (by omega) w.2⟩

/-- Every table write keeps the canonical form. -/
theorem twf_tset (d : Nat → α) (t : Tab α) (k : Nat) (v : α) (w : twf d t = true) : twf d (tset d t k v) = true := by
  unfold tset
  split
  · exact twfFrom_terase d t 0 k w
  · rename_i h
    exact twfFrom_tins d t 0 k v (Nat.zero_le k) h w

/-! ## Byte memories -/

@[simp] theorem Memory.read_write_same (m : Memory) (a : Nat) (b : Byte) : Memory.read (Memory.write m a b) a = b :=
  tget_tset_same _ _ _ _

theorem Memory.read_write_other (m : Memory) (a c : Nat) (b : Byte) (h : c ≠ a) : Memory.read (Memory.write m a b) c = Memory.read m c :=
  tget_tset_other _ _ _ _ _ h

theorem Memory.write_wf (m : Memory) (a : Nat) (b : Byte) (w : Memory.wf m = true) : Memory.wf (Memory.write m a b) = true :=
  twf_tset _ _ _ _ w

theorem Memory.writeLE_wf (m : Memory) (a n v : Nat) (w : Memory.wf m = true) : Memory.wf (Memory.writeLE m a n v) = true := by
  induction n generalizing m a v with
  | zero => exact w
  | succ n ih => exact ih _ _ _ (Memory.write_wf _ _ _ w)

theorem Memory.writeMasked_wf (m : Memory) (a n mask v : Nat) (w : Memory.wf m = true) : Memory.wf (Memory.writeMasked m a n mask v) = true := by
  induction n generalizing m a mask v with
  | zero => exact w
  | succ n ih =>
    apply ih
    split
    · exact Memory.write_wf _ _ _ w
    · exact w

theorem Memory.writeBytes_wf (m : Memory) (a : Nat) (l : List Byte) (w : Memory.wf m = true) : Memory.wf (Memory.writeBytes m a l) = true := by
  induction l generalizing m a with
  | nil => exact w
  | cons b l ih => exact ih _ _ (Memory.write_wf _ _ _ w)

/-- A byte outside a little-endian write reads as before. -/
theorem Memory.read_writeLE_other (m : Memory) (a n v c : Nat) (h : c < a ∨ a + n ≤ c) :
    Memory.read (Memory.writeLE m a n v) c = Memory.read m c := by
  induction n generalizing m a v with
  | zero => rfl
  | succ n ih =>
    rw [Memory.writeLE, ih _ _ _ (by omega), Memory.read_write_other _ _ _ _ (by omega)]

theorem Memory.read_writeMasked_other (m : Memory) (a n mask v c : Nat) (h : c < a ∨ a + n ≤ c) :
    Memory.read (Memory.writeMasked m a n mask v) c = Memory.read m c := by
  induction n generalizing m a mask v with
  | zero => rfl
  | succ n ih =>
    rw [Memory.writeMasked, ih _ _ _ _ (by omega)]
    split
    · rw [Memory.read_write_other _ _ _ _ (by omega)]
    · rfl

/-- What a byte reads as after a list of bytes has been written. -/
theorem Memory.read_writeBytes (m : Memory) (a : Nat) (l : List Byte) (c : Nat) :
    Memory.read (Memory.writeBytes m a l) c = if a ≤ c ∧ c < a + l.length then l.getD (c - a) 0 else Memory.read m c := by
  induction l generalizing m a with
  | nil =>
    have h : ¬ (a ≤ c ∧ c < a + ([] : List Byte).length) := by simp
    rw [if_neg h, Memory.writeBytes]
  | cons b l ih =>
    rw [Memory.writeBytes, ih, List.length_cons]
    by_cases h : c = a
    · subst h
      rw [if_neg (by omega), if_pos (by omega), Memory.read_write_same]
      simp
    · by_cases g : a + 1 ≤ c ∧ c < a + 1 + l.length
      · obtain ⟨n, rfl⟩ : ∃ n, c = a + 1 + n := ⟨c - (a + 1), by omega⟩
        rw [if_pos g, if_pos (by omega), show a + 1 + n - (a + 1) = n by omega, show a + 1 + n - a = n + 1 by omega]
        rfl
      · rw [if_neg g, if_neg (by omega), Memory.read_write_other _ _ _ _ h]

/-- Bytes that two memories read alike. -/
theorem Memory.readBytes_congr (m k : Memory) (a n : Nat) (h : ∀ c, a ≤ c → c < a + n → Memory.read m c = Memory.read k c) :
    Memory.readBytes m a n = Memory.readBytes k a n := by
  unfold Memory.readBytes
  apply List.map_congr_left
  intro i hi
  exact h _ (by omega) (by have := List.mem_range.mp hi; omega)

theorem Memory.readLE_congr (m k : Memory) (a n : Nat) (h : ∀ c, a ≤ c → c < a + n → Memory.read m c = Memory.read k c) :
    Memory.readLE m a n = Memory.readLE k a n := by
  induction n generalizing a with
  | zero => rfl
  | succ n ih => rw [Memory.readLE, Memory.readLE, h a (by omega) (by omega), ih (a + 1) fun c u v => h c (by omega) (by omega)]

/-- The list just written reads back. -/
theorem Memory.readBytes_writeBytes (m : Memory) (a : Nat) (l : List Byte) : Memory.readBytes (Memory.writeBytes m a l) a l.length = l := by
  apply List.ext_getElem
  · simp [Memory.readBytes]
  · intro i h1 h2
    simp only [Memory.readBytes, List.getElem_map, List.getElem_range, Memory.read_writeBytes]
    rw [if_pos (by omega), show a + i - a = i by omega]
    simp [List.getD, h2]

/-- Bytes outside a written list read as before. -/
theorem Memory.readBytes_writeBytes_other (m : Memory) (a : Nat) (l : List Byte) (c n : Nat) (h : c + n ≤ a ∨ a + l.length ≤ c) :
    Memory.readBytes (Memory.writeBytes m a l) c n = Memory.readBytes m c n :=
  Memory.readBytes_congr _ _ _ _ fun x u v => by rw [Memory.read_writeBytes, if_neg (by omega)]

theorem Memory.readLE_writeBytes_other (m : Memory) (a : Nat) (l : List Byte) (c n : Nat) (h : c + n ≤ a ∨ a + l.length ≤ c) :
    Memory.readLE (Memory.writeBytes m a l) c n = Memory.readLE m c n :=
  Memory.readLE_congr _ _ _ _ fun x u v => by rw [Memory.read_writeBytes, if_neg (by omega)]

/-- The bytes just written read back, as a number below `256 ^ n`. -/
theorem Memory.readLE_writeLE (m : Memory) (a n v : Nat) : Memory.readLE (Memory.writeLE m a n v) a n = v % 256 ^ n := by
  induction n generalizing m a v with
  | zero => simp [Memory.readLE, Nat.mod_one]
  | succ n ih =>
    rw [Memory.readLE, Memory.writeLE, Memory.read_writeLE_other _ _ _ _ _ (by omega), Memory.read_write_same, ih]
    simp only [BitVec.toNat_ofNat]
    have e : (256 : Nat) ^ (n + 1) = 256 * 256 ^ n := by rw [Nat.pow_succ, Nat.mul_comm]
    rw [e, Nat.mod_mul]

/-- The little-endian bytes of a number give it back. -/
theorem leNat_natLE (n v : Nat) : leNat (natLE n v) = v % 256 ^ n := by
  induction n generalizing v with
  | zero => simp [natLE, leNat, Nat.mod_one]
  | succ n ih =>
    rw [natLE, leNat, ih, BitVec.toNat_ofNat, show (256 : Nat) ^ (n + 1) = 256 * 256 ^ n by rw [Nat.pow_succ, Nat.mul_comm], Nat.mod_mul]

end Sys2Proof.Machine
end

