-- ==== Sys2Proof/Laws/Ops.lean ====
section
/-!
SUPPORT. Laws of the named operations: what a register field, a unit's record and an SRAM byte read as after each of them.
-/
namespace Sys2Proof.Machine

/-! ## Registers -/

@[simp] theorem Hw.word_setWord_same (h : Hw) (o : Nat) (v : W64) : (h.setWord o v).word o = v := tget_tset_same _ _ _ _

theorem Hw.word_setWord_other (h : Hw) (o p : Nat) (v : W64) (n : p ≠ o) : (h.setWord o v).word p = h.word p := tget_tset_other _ _ _ _ _ n

/-- A field that fits its register. -/
def Loc.fits (l : Loc) : Prop := l.lo + l.width ≤ 64

/-- Two fields share no bit. -/
def Loc.apart (a b : Loc) : Prop := a.off ≠ b.off ∨ a.lo + a.width ≤ b.lo ∨ b.lo + b.width ≤ a.lo

theorem bitsOf_testBit (v lo width i : Nat) : (bitsOf v lo width).testBit i = (decide (i < width) && v.testBit (lo + i)) := by
  simp [bitsOf, Nat.testBit_mod_two_pow, Nat.testBit_shiftRight]

theorem setBits_testBit (w : BitVec 64) (lo width v i : Nat) (f : lo + width ≤ 64) :
    (setBits w lo width v).toNat.testBit i =
      if lo ≤ i ∧ i < lo + width then v.testBit (i - lo) else w.toNat.testBit i := by
  by_cases h64 : i < 64
  · have hb : (setBits w lo width v).toNat.testBit i = (setBits w lo width v).getLsbD i := rfl
    have hw : w.toNat.testBit i = w.getLsbD i := rfl
    rw [hb, hw, setBits]
    simp only [BitVec.getLsbD_or, BitVec.getLsbD_and, BitVec.getLsbD_not, BitVec.getLsbD_ofNat, Nat.testBit_shiftLeft, Nat.testBit_two_pow_sub_one,
      Nat.testBit_mod_two_pow, h64, decide_true, Bool.true_and]
    by_cases a : lo ≤ i
    · by_cases b : i < lo + width
      · have c : i - lo < width := by omega
        simp [a, b, c]
      · have c : ¬ i - lo < width := by omega
        simp [a, b, c]
    · simp [a]
  · have big : ∀ x : BitVec 64, x.toNat.testBit i = false := fun x => by
      apply Nat.testBit_lt_two_pow
      exact Nat.lt_of_lt_of_le x.isLt (Nat.pow_le_pow_right (by omega) (by omega))
    rw [big, big]
    split
    · omega
    · rfl

/-- A field written reads back. -/
theorem Hw.get_put_same (h : Hw) (l : Loc) (v : Nat) (f : l.fits) : (h.put l v).get l = v % 2 ^ l.width := by
  apply Nat.eq_of_testBit_eq
  intro i
  simp only [Hw.get, Hw.put, Hw.word_setWord_same, bitsOf_testBit, setBits_testBit _ _ _ _ _ f, Nat.testBit_mod_two_pow]
  by_cases a : i < l.width
  · simp [a]
  · simp [a]

/-- A field apart from the written one reads as before. -/
theorem Hw.get_put_other (h : Hw) (l m : Loc) (v : Nat) (f : l.fits) (n : l.apart m) : (h.put l v).get m = h.get m := by
  by_cases e : m.off = l.off
  · apply Nat.eq_of_testBit_eq
    intro i
    simp only [Hw.get, Hw.put, bitsOf_testBit, e, Hw.word_setWord_same, setBits_testBit _ _ _ _ _ f]
    by_cases a : i < m.width
    · have : ¬ (l.lo ≤ m.lo + i ∧ m.lo + i < l.lo + l.width) := by
        rcases n with n | n | n
        · exact absurd e.symm n
        · omega
        · omega
      simp [a, this]
    · simp [a]
  · simp only [Hw.get, Hw.put]
    rw [Hw.word_setWord_other _ _ _ _ e]

/-- A whole register written reads back. -/
theorem Hw.get_setWord_same (h : Hw) (l : Loc) (v : W64) : (h.setWord l.off v).get l = bitsOf v.toNat l.lo l.width := by
  simp [Hw.get]

theorem Hw.get_setWord_other (h : Hw) (o : Nat) (v : W64) (l : Loc) (n : l.off ≠ o) : (h.setWord o v).get l = h.get l := by
  simp only [Hw.get, Hw.word_setWord_other _ _ _ _ n]

theorem Hw.get_of_csr (a b : Hw) (l : Loc) (e : a.csr = b.csr) : a.get l = b.get l := by
  simp only [Hw.get, Hw.word, e]

theorem Hw.flag_put_same (h : Hw) (l : Loc) (b : Bool) (f : l.fits) (w : l.width = 1) : (h.put l (bnat b)).flag l = b := by
  simp only [Hw.flag, Hw.get_put_same _ _ _ f, w]
  cases b <;> decide

@[simp] theorem Hw.puts_nil (h : Hw) : h.puts [] = h := rfl
@[simp] theorem Hw.puts_cons (h : Hw) (l : Loc) (v : Nat) (t : List (Loc × Nat)) : h.puts ((l, v) :: t) = (h.put l v).puts t := rfl

/-- Fields written in a list change nothing but registers. -/
theorem Hw.puts_frame (h : Hw) (l : List (Loc × Nat)) : h.puts l = { h with csr := (h.puts l).csr } := by
  induction l generalizing h with
  | nil => rfl
  | cons x l ih =>
    obtain ⟨a, b⟩ := x
    rw [Hw.puts_cons, ih]
    rfl

/-- Fields apart from those written read as before. -/
theorem Hw.get_puts_other (h : Hw) (l : List (Loc × Nat)) (m : Loc) (f : ∀ x ∈ l, x.1.fits) (n : ∀ x ∈ l, x.1.apart m) :
    (h.puts l).get m = h.get m := by
  induction l generalizing h with
  | nil => rfl
  | cons x l ih =>
    obtain ⟨a, b⟩ := x
    rw [Hw.puts_cons, ih (h.put a b) (fun y hy => f y (List.mem_cons_of_mem _ hy)) (fun y hy => n y (List.mem_cons_of_mem _ hy))]
    exact Hw.get_put_other _ _ _ _ (f (a, b) List.mem_cons_self) (n (a, b) List.mem_cons_self)

/-! ## Units -/

@[simp] theorem Hw.col_setCol_same (h : Hw) (c : Nat) (v : Col) : (h.setCol c v).col c = v := tget_tset_same _ _ _ _
theorem Hw.col_setCol_other (h : Hw) (c k : Nat) (v : Col) (n : k ≠ c) : (h.setCol c v).col k = h.col k := tget_tset_other _ _ _ _ _ n
@[simp] theorem Hw.col_modCol_same (h : Hw) (c : Nat) (f : Col → Col) : (h.modCol c f).col c = f (h.col c) := tget_tset_same _ _ _ _
theorem Hw.col_modCol_other (h : Hw) (c k : Nat) (f : Col → Col) (n : k ≠ c) : (h.modCol c f).col k = h.col k := tget_tset_other _ _ _ _ _ n

@[simp] theorem Hw.core_setCore_same (h : Hw) (c : Nat) (v : CoreSt) : (h.setCore c v).core c = v := tget_tset_same _ _ _ _
@[simp] theorem Hw.core_modCore_same (h : Hw) (c : Nat) (f : CoreSt → CoreSt) : (h.modCore c f).core c = f (h.core c) := tget_tset_same _ _ _ _
theorem Hw.core_modCore_other (h : Hw) (c k : Nat) (f : CoreSt → CoreSt) (n : k ≠ c) : (h.modCore c f).core k = h.core k :=
  tget_tset_other _ _ _ _ _ n

@[simp] theorem Hw.eng_modEng_same (h : Hw) (e : Nat) (f : Eng → Eng) : (h.modEng e f).eng e = f (h.eng e) := tget_tset_same _ _ _ _
theorem Hw.eng_modEng_other (h : Hw) (e k : Nat) (f : Eng → Eng) (n : k ≠ e) : (h.modEng e f).eng k = h.eng k := tget_tset_other _ _ _ _ _ n

@[simp] theorem Hw.chan_modChan_same (h : Hw) (k : Nat) (f : Chan → Chan) : (h.modChan k f).chan k = f (h.chan k) := tget_tset_same _ _ _ _
@[simp] theorem Hw.bar_modBar_same (h : Hw) (b : Nat) (f : BarSt → BarSt) : (h.modBar b f).bar b = f (h.bar b) := tget_tset_same _ _ _ _
@[simp] theorem Hw.tower_modTower_same (h : Hw) (t : Nat) (f : Tower → Tower) : (h.modTower t f).tower t = f (h.tower t) := tget_tset_same _ _ _ _
@[simp] theorem Hw.win_modWin_same (h : Hw) (w : Nat) (f : Win → Win) : (h.modWin w f).win w = f (h.win w) := tget_tset_same _ _ _ _
theorem Hw.win_modWin_other (h : Hw) (w k : Nat) (f : Win → Win) (n : k ≠ w) : (h.modWin w f).win k = h.win k := tget_tset_other _ _ _ _ _ n
@[simp] theorem Hw.port_modPort_same (h : Hw) (p : Nat) (f : Port → Port) : (h.modPort p f).port p = f (h.port p) := tget_tset_same _ _ _ _
theorem Hw.port_modPort_other (h : Hw) (p k : Nat) (f : Port → Port) (n : k ≠ p) : (h.modPort p f).port k = h.port k := tget_tset_other _ _ _ _ _ n

/-! ## SRAM -/

/-- An SRAM write changes nothing but SRAM bytes and marks. -/
theorem Hw.swrite_frame (h : Hw) (a n v : Nat) : h.swrite a n v = { h with sram := (h.swrite a n v).sram, marks := (h.swrite a n v).marks } := by
  unfold Hw.swrite
  dsimp only
  split <;> rfl

@[simp] theorem Hw.swrite_sram (h : Hw) (a n v : Nat) : (h.swrite a n v).sram = Memory.writeLE h.sram a n v := by
  unfold Hw.swrite
  dsimp only
  split <;> rfl

/-- An SRAM write reads back. -/
theorem Hw.sread_swrite_same (h : Hw) (a n v : Nat) : (h.swrite a n v).sread a n = v % 256 ^ n := by
  simp only [Hw.sread, Hw.swrite_sram, Memory.readLE_writeLE]

theorem Hw.swrite_wf (h : Hw) (a n v : Nat) (w : Memory.wf h.sram = true) : Memory.wf (h.swrite a n v).sram = true := by
  rw [Hw.swrite_sram]
  exact Memory.writeLE_wf _ _ _ _ w

/-! ## Folds -/

/-- What every step of a fold keeps, the fold keeps. -/
theorem foldUp_keeps {σ : Type} (P : σ → Prop) (n : Nat) (f : Nat → σ → σ) (s : σ) (h0 : P s) (hs : ∀ i x, P x → P (f i x)) : P (foldUp n f s) := by
  unfold foldUp
  generalize List.range n = l
  induction l generalizing s with
  | nil => exact h0
  | cons i l ih => exact ih _ (hs i s h0)

/-- The outcome of a command as a next state. -/
theorem done_eq (s : State) (h : Hw) : done s h = .next { s with hw := h } := rfl

end Sys2Proof.Machine
end

