-- ==== Sys2Proof/Tests/Slice0.lean ====
section
/-!
SUPPORT. Tests: a witness for the hypotheses of every statement, one conjunct for each of its clauses; the checks of WellFormed; worked values of the spec.
-/
open Sys2Proof Sys2Proof.Machine

namespace Sys2Proof.Tests

set_option Elab.async false

/-- A released module with its host link up and some register fields set. -/
def live (l : List (Loc × Nat)) : Hw := Hw.puts { mode := { phase := .released }, host := { link := true } } l

/-- A state with no command waiting. -/
def st (h : Hw) : State := { hw := h }

/-! ## Well-formed commands -/

/-- Each check of WellFormed refuses a command that breaks it. -/
theorem test_wf_refuses :
    (Instr.hostMemRead 0x20 0 ⟨.invalid, none⟩).wf = false ∧ (Instr.hostMemWrite 0x3F 0 ⟨.invalid, none⟩ 0 false).wf = false ∧
    (Instr.seqRequestArrive ⟨⟨0, 37748736, .host, .read, .host 0 false, 0⟩, none⟩).wf = false ∧
    (Instr.seqRequestArrive ⟨⟨0, 0, .paced, .read, .host 0 false, 0⟩, none⟩).wf = false ∧ (Instr.powerSampleSlow 0 0 []).wf = false ∧
    (Instr.sensorSlowRound []).wf = false ∧ (Instr.sensorFastRound [(192, 0)]).wf = false ∧ (Instr.hostCleanEviction 1).wf = false := by decide

/-- And accepts its neighbours. -/
theorem test_wf_accepts :
    (Instr.hostMemRead 0x40 0 ⟨.invalid, none⟩).wf = true ∧ (Instr.hostMemWrite 0x40 0 ⟨.invalid, none⟩ 0 false).wf = true ∧
    (Instr.seqRequestArrive ⟨⟨0, 37748735, .host, .read, .host 0 false, 0⟩, none⟩).wf = true ∧ (Instr.powerSampleSlow 0 0 (List.replicate 30 0)).wf = true ∧
    (Instr.sensorSlowRound (List.replicate 193 0)).wf = true ∧ (Instr.sensorFastRound [(191, 0)]).wf = true ∧
    (Instr.hostCleanEviction 0x40).wf = true := by decide +kernel

theorem witness_QueueRunsDry : State.queueWf { pending := [.jtagBypass, .hostMemRead 0x40 0 ⟨.invalid, none⟩] } := by unfold State.queueWf; decide

theorem witness_IdleCountsTime : (live []).mode.phase ≠ .off ∧ (live []).mode.phase ≠ .heldOff ∧ (live []).mode.phase ≠ .locked := by decide

theorem witness_FusesOnlyRise : step { pending := [.jtagBypass], hw := { fuses := { svn := 3 } } } =
    .next { pending := [], hw := { fuses := { svn := 3 }, jtag := { ir := 0, bypass := false } } } := rfl

/-! ## The scalar processor -/

/-- Core 3 stands at scalar instruction `w`, with s1 = 5, s2 = 7 and s3 = 1. -/
def scal (w : W32) : Hw :=
  ({ live [(CORE_STAT.RUN 3, 1), (CORE_IMEM.EXEC_BASE 3, 16), (SYNC_VAL.VALUE 3 2, 5), (SYNC_VAL.VOID 3 2, 0), (SYNC_VAL.VOID 3 47, 0)] with
      sram := Memory.writeLE [] (sramImem 3 + 16) 4 w.toNat }).setCore 3 { sst := .running, spc := 16, s := [(1, 5), (2, 7), (3, 1), (4, 0x2000)] }

/-- The word `w` is ready, and its opcode is `op`. -/
def ready (w : W32) (op : Nat) : Bool := (scal w).scalarReady 3 w && scOp w == op

/-- A register-form word. -/
def regForm (op d a b f : Nat) : W32 := BitVec.ofNat 32 (op + d * 2 ^ 6 + a * 2 ^ 11 + b * 2 ^ 16 + f * 2 ^ 21)
/-- An immediate-form or branch word: in a branch A stands in the place of D. -/
def immForm (op d a imm : Nat) : W32 := BitVec.ofNat 32 (op + d * 2 ^ 6 + a * 2 ^ 11 + imm * 2 ^ 16)

theorem witness_ScalarResults :
    (∀ x ∈ intOps 3, ready (regForm 1 3 1 2 x.2.1) 1 = true ∧ scFunc (regForm 1 3 1 2 x.2.1) = x.2.1) ∧
    (∀ x ∈ fpOps 3, ready (regForm 2 3 1 0 x.2.1) 2 = true ∧ scFunc (regForm 2 3 1 0 x.2.1) = x.2.1) ∧
    (∀ x ∈ immOps 3, ready (immForm x.2.1 3 (if x.2.1 = 0x0C then 0 else 1) 0xFFFF) x.2.1 = true) := by decide +kernel

/-- The address that LW and SW use. -/
def addr (w : W32) : Nat := ((scal w).sreg 3 (scA w) + BitVec.signExtend 32 (BitVec.ofNat 16 (scImm w))).toNat

theorem witness_ScalarLoadStore :
    (ready (immForm 0x10 3 2 1) 0x10 = true ∧ addr (immForm 0x10 3 2 1) = 8) ∧ (ready (immForm 0x11 3 0 0xFFFC) 0x11 = true ∧ addr (immForm 0x11 3 0 0xFFFC) = 0xFFFFFFFC) ∧
    (ready (immForm 0x11 3 0 0x7FFC) 0x11 = true ∧ addr (immForm 0x11 3 0 0x7FFC) = 0x7FFC) ∧ (ready (immForm 0x10 3 2 0) 0x10 = true ∧ addr (immForm 0x10 3 2 0) % 4 ≠ 0) := by
  decide +kernel

theorem witness_ScalarControl :
    (∀ x ∈ branchOps 3, ready (immForm x.2.1 1 2 1) x.2.1 = true ∧ ready (immForm x.2.1 2 1 1) x.2.1 = true ∧
      ready (immForm x.2.1 1 1 1) x.2.1 = true ∧ (x.2.2 5 7 = true ∨ x.2.2 7 5 = true ∨ x.2.2 5 5 = true) ∧
      (x.2.2 5 7 = false ∨ x.2.2 7 5 = false ∨ x.2.2 5 5 = false)) ∧
    (scal (immForm 0x18 1 1 0xFFFB)).scEnd 3 = 1024 ∧
    (ready (immForm 0x18 1 1 0xFFFB) 0x18 = true ∧ (16 : Int) + 4 * (BitVec.ofNat 16 0xFFFB).toInt < 0) ∧
    (ready (immForm 0x18 1 1 0xFFFC) 0x18 = true ∧ (16 : Int) + 4 * (BitVec.ofNat 16 0xFFFC).toInt = 0) ∧
    (ready (immForm 0x1E 3 0 251) 0x1E = true ∧ 16 + 4 * 251 < 1024) ∧ (ready (immForm 0x1E 3 0 252) 0x1E = true ∧ 16 + 4 * 252 = 1024) ∧
    (ready (regForm 0x1F 0 1 0 0) 0x1F = true ∧ (scal (regForm 0x1F 0 1 0 0)).sreg 3 1 < 1024) ∧
    (ready (regForm 0x1F 0 4 0 0) 0x1F = true ∧ 1024 ≤ ((scal (regForm 0x1F 0 4 0 0)).sreg 3 4).toNat) := by decide +kernel

theorem witness_ScalarParameters :
    ready (immForm 0x20 3 0 31) 0x20 = true ∧ ready (immForm 0x26 3 0 1) 0x26 = true ∧ ready (immForm 0x26 3 0 0) 0x26 = true ∧
    (ready (immForm 0x21 0 1 31) 0x21 = true ∧ (scal (immForm 0x21 0 1 31)).pQuiet 3 31) ∧
    (let h := (scal (immForm 0x21 0 1 31)).modCore 3 fun x => { x with pLast := [(31, (0, 0, 1, 9))] }
     h.scalarReady 3 (immForm 0x21 0 1 31) = true ∧ ¬ h.pQuiet 3 31 ∧ (h.pLastOf 3 31).2.2.1 < 4) ∧
    (ready (immForm 0x25 2 1 7) 0x25 = true ∧ (scal (immForm 0x25 2 1 7)).groupSize 3 = 1) := by
  unfold Hw.pQuiet; decide +kernel

/-- The same with object 2 at `v` and other changes to core 3. -/
def scalv (w : W32) (v : Nat) (f : CoreSt → CoreSt) : Hw := ((scal w).put (SYNC_VAL.VALUE 3 2) v).modCore 3 f

/-- SIG (0x22) or WAIT (0x23) of a kind and an index with its amount in a register: 0, 5, 7, 1 and 0x2000 in s0 to s4. -/
def objForm (op kind idx a : Nat) : W32 := immForm op 0 a (kind + 4 * idx)

theorem witness_ScalarStreams :
    (ready (immForm 0x24 0 1 0) 0x24 = true ∧ (ready (immForm 0x24 0 1 1) 0x24 = true ∧ (scal 0).members 3 = [3]) ∧ ready (immForm 0x28 0 0 0) 0x28 = true ∧
      ready (objForm 0x22 0 0 0) 0x22 = true ∧ ready (objForm 0x23 0 0 0) 0x23 = true) ∧
    ((scal 0).leader 3 = 3 ∧ (scal 0).get (SYNC_VAL.VALUE 3 2) = 5 ∧ (scal 0).flag (SYNC_VAL.VOID 3 2) = false ∧ (scal 0).flag (SYNC_VAL.VOID 3 4) = true ∧
      (∀ k ∈ [1, 2, 3], ∀ a ∈ [0, 4], ready (objForm 0x22 k 2 a) 0x22 = true) ∧ ((scal 0).sreg 3 0).toNat = 0 ∧ 256 < ((scal 0).sreg 3 4).toNat) ∧
    (∀ k ∈ [1, 3], ready (objForm 0x22 k 2 1) 0x22 = true ∧ ready (objForm 0x22 k 4 1) 0x22 = true ∧ ready (objForm 0x22 k 2 2) 0x22 = true) ∧
    (let h := scalv (objForm 0x22 1 2 1) (2 ^ 32 - 5) id
     h.scalarReady 3 (objForm 0x22 1 2 1) = true ∧ 2 ^ 32 ≤ h.get (SYNC_VAL.VALUE 3 2) + (h.sreg 3 1).toNat) ∧
    (∀ n ∈ [0, 1 + 3 * 2 ^ 8 + 2 * 2 ^ 16], let h := (scal (objForm 0x22 2 2 1)).swrite (sramScalar 3 + 0xBE00 + 16) 8 n
      h.scalarReady 3 (objForm 0x22 2 2 1) = true ∧ ((h.routeSignal (h.route 3 2) 3 2 16 5).1 == 0) = (n != 0)) ∧
    (∀ k ∈ [1, 2], ∀ a ∈ [1, 2], ready (objForm 0x23 k 2 a) 0x23 = true ∧ ready (objForm 0x23 k 4 a) 0x23 = true ∧ (scal (objForm 0x23 k 2 a)).standing 3 2 = [] ∧
      ((scal (objForm 0x23 k 2 a)).core 3).swait = none ∧ (scal (objForm 0x23 k 2 a)).flag (SYNC_VAL.ABORTED 3 2) = false ∧
      ((scal (objForm 0x23 k 2 a)).put (SYNC_VAL.ABORTED 3 2) 1).scalarReady 3 (objForm 0x23 k 2 a) = true) ∧
    (∀ g ∈ [none, some 65535, some 0], let h := scalv (objForm 0x23 3 2 0) 5 fun x => { x with gens := [(2, g)] }
      h.scalarReady 3 (objForm 0x23 3 2 0) = true ∧ tget (fun _ => none) (h.core 3).gens 2 = g ∧ (barPassed (h.get (BAR_STAT.GEN 2)) 65535 = true) ∧
        barPassed (h.get (BAR_STAT.GEN 2)) 0 = false) ∧
    (∀ d ∈ [false, true], let h := scalv (immForm 0x27 3 0 0) 5 fun x => { x with lapDone := d }
      h.scalarReady 3 (immForm 0x27 3 0 0) = true ∧ (h.modCore 3 fun y => { y with lapDone := true }).lapReady = false) := by decide +kernel


/-! ## Columns -/

/-- A host read of word `w` of column 5. -/
def hread (w : Nat) : ColReq := ⟨5, w, .host, .read, .host 1 true, 0⟩
/-- A host write of word 0 of column 5. -/
def hwrite : ColReq := ⟨5, 0, .host, .write 7 0xFFFFFFFF#32 false, .hostWrite 1 false, 0⟩
/-- A module with column 5 as given. -/
def withCol (k : Col) (l : List (Loc × Nat)) : Hw := (live l).setCol 5 k

/-- Ten queued host requests: the four of the class and the six shared entries. -/
def tenReads : List QReq := (List.range 10).map fun i => { id := i, r := hread i }

/-- A fetch request of word 0 of column 5, and a narrow and a wide write of it. -/
def fetch0 : ColReq := ⟨5, 0, .paced, .read, .queue 1 0 0 [], 0⟩
def nwrite : ColReq := ⟨5, 0, .host, .write 7 1#32 false, .hostWrite 1 false, 0⟩

/-- The module that the clauses on arrival ask for: a column where `r` finds room. -/
def arrives (h : Hw) (r : ColReq) : Bool :=
  r.classed && decide (r.word < 37748736) && !(h.col r.col).failed.contains (wordLevel r.word) && hasRoom (if r.op.isWrite then (h.col r.col).wq else (h.col r.col).rq) r.cls &&
    !((h.col r.col).waiting.any fun x => x.cls == r.cls && x.op.isWrite == r.op.isWrite) && !(h.col r.col).selfRef && !h.pllOff

theorem witness_ColumnArrival :
    ((live []).filt = {} ∧ (∀ r ∈ [hread 0, fetch0, hwrite, nwrite], arrives (live []) r = true) ∧ arrives (withCol { rq := tenReads.drop 1 } []) (hread 0) = true ∧
      hwrite.op.isWrite = true ∧ hwrite.op.narrow = false ∧ (live []).col 5 = {}) ∧
    (hasRoom tenReads .host = false ∧ (((withCol { rq := tenReads, wq := tenReads } []).col 5).failed.contains 0 = false) ∧
      ((([hread 6] : List ColReq).any fun x => x.cls == (hread 0).cls && x.op.isWrite == (hread 0).op.isWrite) = true) ∧
      ((withCol { selfRef := true } []).col 5).selfRef = true ∧ ({ live [] with mode := { phase := .released, gear := some ⟨false, 3, 0⟩ } } : Hw).pllOff = true) ∧
    ((withCol { failed := [0] } []).col 5).failed.contains (wordLevel 0) = true ∧
    (∀ r ∈ [hread 0, fetch0, hwrite], (⟨true, 0⟩ : XbarFault).header = true ∧ 2 ≤ (xbarPath r.col r.src).length) ∧
    (∀ r ∈ [hread 0, fetch0], let k := (withCol { waiting := [hwrite, r], wq := tenReads } []).col 5
      k.waiting.find? (fun y => hasRoom (if y.op.isWrite then k.wq else k.rq) y.cls) = some r) ∧
    ((hread 0).portCore = none ∧ fetch0.portCore = some 1 ∧ ((live []).core 1).port = []) ∧
    (let k := (withCol { waiting := [hread 0], rq := tenReads } []).col 5
     k.waiting.find? (fun y => hasRoom (if y.op.isWrite then k.wq else k.rq) y.cls) = none) := by decide +kernel

/-- A column with one queued request, its row open. -/
def queued (r : ColReq) : Hw :=
  withCol { rq := if r.op.isWrite then [] else [{ id := 3, r := r }], wq := if r.op.isWrite then [{ id := 3, r := r }] else [], rows := [⟨0, 0, false, 0⟩] } []

theorem witness_ColumnTransfers :
    (∀ r ∈ [hread 0, { hread 0 with cls := .paced }, hwrite], let h := queued r
      h.rowHit 5 0 = true ∧ 3 ∈ [3] ∧ h.get (TMC_COL_A.RSV_MASK 5) = 0 ∧ h.pllOff = false ∧ h.flag (FZ_COL_A.ACTIVE 5) = false ∧ h.mode.verify.contains 5 = false ∧
        (if r.op.isWrite then (h.col 5).loneWrite { id := 3, r := r } else (h.col 5).lone { id := 3, r := r })) ∧
    (hread 0).op = .read ∧ hwrite.op = .write 7 0xFFFFFFFF#32 false ∧
    (((live []).col 5).wq = [] ∧ ((withCol { rq := tenReads } []).col 5).wq = [] ∧ ((withCol { selfRef := true } []).col 5).selfRef = true) ∧
    (let h := { withCol { flight := [{ id := 3, r := hread 0 }] } [] with lines := [⟨1, some (9, false), none⟩] }
     (h.col 5).flight = [{ id := 3, r := hread 0 }] ∧ (hread 0).src = .host 1 true ∧ h.readWord 5 0 0 = (.clean, 0) ∧ ∀ x ∈ (h.col 5).slow, x.word ≠ 0) ∧
    ((withCol { slow := [⟨3, 0, .deliver { id := 3, r := hread 0 }⟩, ⟨4, 0, .deliver { id := 4, r := hread 0 }⟩] } []).col 5).slow.map (·.id) = [3, 4] ∧
    ((live []).col 5).slow = [] := by
  unfold Col.lone Col.loneWrite; decide +kernel

theorem witness_ColumnMarks :
    (∃ q ∈ ((withCol { rq := [{ id := 3, r := hread 0 }] } []).col 5).rq ++ ((withCol { rq := [{ id := 3, r := hread 0 }] } []).col 5).wq, q.id = 3 ∧ q.aged = false) ∧
    (∃ q ∈ ((withCol { wq := [{ id := 3, r := hwrite }] } []).col 5).rq ++ ((withCol { wq := [{ id := 3, r := hwrite }] } []).col 5).wq, q.id = 3 ∧ q.aged = false) ∧
    (∀ q ∈ ((withCol { wq := [{ id := 3, r := hwrite, aged := true }] } []).col 5).wq, q.id = 3 → q.aged = true) := by decide +kernel

/-- Every row of the bank is clean, as a refresh asks. -/
def cleanB (k : Col) (l : Nat) : Bool := match k.openOf l with
  | some r => !r.dirty && r.inl == 0
  | none => true

theorem witness_RefreshAccounting :
    (((withCol { selfRef := true } []).col 5).selfRef = true ∧ ((withCol { failed := [0] } []).col 5).failed.contains 0 = true) ∧
    (((live []).col 5).selfRef = false ∧ ((live []).col 5).failed.contains 0 = false ∧ (live [(TMC_COL_B.PBURST 5, 1)]).flag (TMC_COL_B.PBURST 5) = true ∧
      (live []).flag (TMC_COL_B.PBURST 5) = false ∧ (live []).pllOff = false) ∧
    (∀ n ∈ [1, 4], ∀ rows ∈ [[], [(⟨0, 9, false, 0⟩ : OpenRow)]], let h := withCol { rows := rows } [(TMC_COL_B.OWED 5, n)]
      h.colClock 5 = true ∧ h.owed 5 0 = n ∧ cleanB (h.col 5) 0 = true ∧ (h.col 5).flushQ = [] ∧ (h.col 5).failed = [] ∧ (h.col 5).rq = [] ∧ (h.col 5).wq = []) ∧
    ((live []).owed 5 0 = 0 ∧ (((tenReads ++ []).any fun q => wordLevel q.r.word == 0) = true) ∧ ((withCol { flushQ := [5, 0] } []).col 5).flushQ.contains 0 = true) ∧
    (let h := withCol { flushQ := [5, 0] } [(TMC_COL_B.FLUSH 5, 1)]
     (h.col 5).flushQ = [5, 0] ∧ cleanB (h.col 5) 5 = true ∧ h.colClock 5 = true) ∧
    ((live []).col 5).flushQ = [] ∧ ((tenReads.any fun q => q.r.cls == .paced) = false) ∧ (([({ id := 0, r := fetch0 } : QReq)].any fun q => q.r.cls == .paced) = true) ∧
    (withCol { selfRef := true } []).colClock 5 = false := by decide +kernel

/-- A calibration word that no wire inverts reads clean. -/
theorem readCal_clean (h : Hw) (c level i : Nat) : h.readCal c level i 0 = (.clean, h.calWord c level i) := by
  have x : innerClass 0#16 = .clean := by decide
  have z : (0 : Wires).toNat = 0 := by exact BitVec.toNat_zero
  simp only [Hw.readCal, innerDecode, z, Nat.zero_div, BitVec.xor_zero, BitVec.xor_self, x]

/-- Column 5 may start a feed zone. -/
def zoned (l : List (Loc × Nat)) : Hw := (live ([(PWR_DOM.ON 8, 1), (PWR_DOM.ON 16, 1)] ++ l)).modMode fun m => { m with trained := true }

theorem witness_FeedZones :
    ((zoned []).zoneMay 5 ∧ (zoned [(FZ_COL_A.PASS_KEPT 5, 1)]).zoneMay 5 ∧ (zoned [(FZ_COL_A.PASS_KEPT 5, 1)]).flag (FZ_COL_A.PASS_KEPT 5) = true ∧
      (zoned []).flag (FZ_COL_A.PASS_KEPT 5) = false ∧ ¬ (live []).zoneMay 5) ∧
    (live [(FZ_COL_A.ACTIVE 5, 1)]).flag (FZ_COL_A.ACTIVE 5) = true ∧ (live []).flag (FZ_COL_A.ACTIVE 5) = false ∧
    (let h := (live []).modMode fun m => { m with verify := [5] }
     h.mode.verify.contains 5 = true ∧ h.colClock 5 = true ∧ h.readCal 5 0 0 0 = (.clean, 0) ∧ (h.readCal 5 0 0 1).1 = .corrected 0 ∧ (h.col 5).failed.contains 0 = false) ∧
    (live []).mode.verify.contains 5 = false ∧ (withCol { selfRef := true } []).colClock 5 = false := by
  unfold Hw.zoneMay; decide +kernel

theorem witness_ColumnErrors :
    (((live []).col 5).openOf 5 = none ∧ ((live []).col 5).rq = [] ∧ ((live []).col 5).wq = [] ∧ ((live []).col 5).flight = [] ∧ ((live []).col 5).alerts = []) ∧
    (let k := (withCol { rq := [{ id := 3, r := hread 0 }] } []).col 5
     k.openOf 0 = none ∧ k.flight = [] ∧ k.alerts = [] ∧ k.rq = [{ id := 3, r := hread 0 }] ∧ k.wq = [] ∧ wordLevel 0 = 0 ∧ (hread 0).src = .host 1 true) ∧
    (let k := (withCol { wq := [{ id := 3, r := hwrite }] } []).col 5
     k.openOf 0 = none ∧ k.flight = [] ∧ k.alerts = [] ∧ k.wq = [{ id := 3, r := hwrite }] ∧ k.rq = [] ∧ k.merge = [] ∧ k.slow = [] ∧ hwrite.src = .hostWrite 1 false) ∧
    (live [(TMC_ERRLOG.VALID 0, 1)]).flag (TMC_ERRLOG.VALID 0) = true ∧ (live []).flag (TMC_ERRLOG.VALID 0) = false ∧
    (live [(IMG_STAT.STATE, 2)]).get IMG_STAT.STATE < 3 ∧ 3 ≤ (live [(IMG_STAT.STATE, 3)]).get IMG_STAT.STATE := by decide +kernel

theorem witness_Patrol :
    (∀ n ∈ [1179648, 1179653], let h := withCol { patrol := n, cal := true } []
      h.flag (PROT_CTRL.SCRUB_EN 0) = true ∧ h.colClock 5 = true ∧ (h.col 5).patrol + 1 ≤ passRows ∧ (h.col 5).failed.contains (n % 6) = false ∧
        h.scrubMay 5 (n % 6) (n / 6) = true ∧ (h.col 5).rows = []) ∧
    (1179652 + 1 < passRows ∧ ∀ i, i < 32 → (withCol { patrol := 1179648, cal := true } []).readCal 5 0 i 0 =
      (.clean, (withCol { patrol := 1179648, cal := true } []).calWord 5 0 i)) ∧
    (let h := withCol { patrol := 7, failed := [1] } []
     h.flag (PROT_CTRL.SCRUB_EN 0) = true ∧ h.colClock 5 = true ∧ (h.col 5).failed.contains ((h.col 5).patrol % 6) = true) ∧
    ((live [(PROT_CTRL.SCRUB_EN 0, 0)]).flag (PROT_CTRL.SCRUB_EN 0) = false ∧ (withCol { selfRef := true } []).colClock 5 = false ∧
      (withCol {} [(FZ_COL_A.ACTIVE 5, 1)]).scrubMay 5 0 0 = false) ∧
    (∀ n ∈ (((live []).modTower 2 fun t => { t with unsaved := [15] }).tower 2).unsaved, n < 16) :=
  ⟨by decide +kernel, ⟨by decide +kernel, fun _ _ => readCal_clean ..⟩, by decide +kernel, by decide +kernel, by decide +kernel⟩

/-! ## The host port and the map -/

/-- A decoder from HPA 0 over 512 MiB. -/
def dec0 (lock : Bool) : HdmDecoder := ⟨0, 2 ^ 29, 0, 1, 256, 0, lock⟩

/-- Region 0 covers 512 MiB in column 5, with every permission, and decoder 0 leads to it. -/
def mapped (l : List (Loc × Nat)) : Hw :=
  (live ([(MAP_INST_A.VALID 0, 1), (MAP_INST_A.SIZE 0, 2), (MAP_INST_A.GRAIN_K 0, 4), (MAP_INST_A.FIRST 0, 5), (MAP_INST_A.COUNT 0, 1), (MAP_INST_B.HR 0, 1),
    (MAP_INST_B.HW 0, 1), (MAP_INST_B.ER 0, 1), (MAP_INST_B.EW 0, 1), (MAP_INST_B.FR 0, 1), (MAP_INST_B.FW 0, 1)] ++ l)).modHost fun x =>
      { x with hdm := [(0, some ⟨dec0 false, 0⟩)] }

/-- One snoop is out, of line 1. -/
def snooped (again : Bool) : Hw := { live [] with filt := { snoops := [⟨1, true, [], again⟩], evict := if again then [1] else [] } }

theorem witness_HostCoherence :
    ((live []).hdmLocked 0 = false ∧ (live []).hdmOk 0 (dec0 false) = true ∧ (live []).hdmOk 1 (dec0 false) = false) ∧
    ((live []).modHost fun x => { x with hdm := [(0, some ⟨dec0 true, 0⟩)] }).hdmLocked 0 = true ∧ (mapped []).hostDpa 0x40 = some 0x40 ∧
    (∀ a ∈ [false, true], ((snooped a).filt.snoops.find? fun x => x.line == 1) = some ⟨1, true, [], a⟩ ∧ (snooped a).hostHeld = [] ∧
      ((snooped a).filt.evict.erase 1).contains 1 = false) ∧
    ∀ a w, ((snooped a).win w).due = [] ∧ (snooped a).screen w = snooped a :=
  ⟨by decide +kernel, by decide +kernel, by decide +kernel, by decide +kernel, fun _ _ => ⟨rfl, rfl⟩⟩

theorem witness_HostMemory :
    (mapped []).hostOpen ∧ (mapped []).hostDpa (2 ^ 29) = none ∧
    (mapped []).hostDpa (2 ^ 29 - 64) = some (2 ^ 29 - 64) ∧ (mapped [(TRU_STAT.POLICY, 2)]).hostOpen ∧ (mapped [(TRU_STAT.POLICY, 2)]).hostShut = true ∧ (mapped []).hostShut = false ∧
    (mapped []).regionOf 0x40 = some 0 ∧ ((mapped []).region 0).coh = 0 ∧ (mapped []).col 5 = {} ∧ (mapped []).mapAccess 0x40 .hr false = .at' 5 0x40 ∧
    (mapped []).mapAccess 0x40 .hw false = .at' 5 0x40 := by
  unfold Hw.hostOpen; decide +kernel

theorem witness_RegionMap :
    (live []).flag MAP_CTRL.BUSY = false ∧ (live [(MAP_CTRL.BUSY, 1)]).flag MAP_CTRL.BUSY = true ∧
    mapErr ((List.range 16).map (live [(MAP_RGN_A.VALID 15, 1)]).staged) (fun n => ((live [(MAP_RGN_A.VALID 15, 1)]).region n).lock) (live []).rsvLo (live []).rsvSlice
      ((live []).get IMG_STAT.STATE == 3) = some (15, 1) ∧
    mapErr ((List.range 16).map (live []).staged) (fun n => ((live []).region n).lock) (live []).rsvLo (live []).rsvSlice ((live []).get IMG_STAT.STATE == 3) = none ∧
    (live []).changedLines = [] ∧ (live [(MAP_CTRL.BUSY, 1)]).changedLines = [] ∧ (live []).hostHeld = [] := by decide +kernel

/-! ## Command windows and images -/

/-- A submission entry with CID 7. -/
def ent (op flags : Nat) (args : List Nat) : BitVec 512 :=
  BitVec.ofNat 512 (op + flags * 2 ^ 8 + 7 * 2 ^ 16 + ((List.range args.length).map fun i => args.getD i 0 * 2 ^ (64 + 64 * i)).foldl (· + ·) 0)

/-- Window 2 of a module has entry `e` at its front. -/
def Hwin (h : Hw) (e : BitVec 512) : Hw := h.modWin 2 fun _ => { sq := [⟨e, 0, none⟩] }
/-- Window 2 of a module runs entry `e`. -/
def Hrun (h : Hw) (e : BitVec 512) : Hw := h.modWin 2 fun _ => { run := some e }

/-- A check that decides `Hw.fronts`. -/
def frontsB (h : Hw) (w : Nat) (e : BitVec 512) (op : Nat) : Bool :=
  h.released && h.pllOff == false && (h.win w).sq == [⟨e, 0, none⟩] && h.inOrder w ⟨e, 0, none⟩ && (h.win w).run == none && (h.win w).done == [] && sqOp e == op && sqBad e == none

theorem fronts_of {h : Hw} {w : Nat} {e : BitVec 512} {op : Nat} (x : frontsB h w e op = true) : h.fronts w e op := by
  simp only [frontsB, Bool.and_eq_true, beq_iff_eq] at x
  obtain ⟨⟨⟨⟨⟨⟨⟨a, b⟩, c⟩, o⟩, d⟩, f⟩, g⟩, i⟩ := x
  exact ⟨a, b, ⟨_, _, c, rfl, rfl, o⟩, d, f, g, i⟩

theorem starts_of {h : Hw} {w : Nat} {e : BitVec 512} {op : Nat} (x : (frontsB h w e op && h.kick == false) = true) : h.starts w e op := by
  simp only [Bool.and_eq_true, beq_iff_eq] at x
  exact ⟨fronts_of x.1, x.2⟩

/-- The module of `mapped`, with words of column 5 written, and the column idle again. -/
def stored (l : List (Loc × Nat)) (ws : List (Nat × Word)) : Hw :=
  (ws.foldl (fun h x => h.fwrite 5 x.1 x.2 0xFFFFFFFF#32 false .upkeep 0) (mapped l)).setCol 5 {}

/-- A submission entry of a STOP at the start of ring 0. -/
def ringed : Hw := stored [(CMD_CTRL.EN 2, 1), (CMD_SQ.LOG2 2, 4), (CMD_CQ.LOG2 2, 4)] [(0, 0x70003#256), (1, 0)]

theorem witness_CommandWindows :
    (ringed.flag (CMD_CTRL.EN 2) = true ∧ (ringed.win 2) = {} ∧ ringed.col 5 = {} ∧ ringed.mapAccess 0 .hr false = .at' 5 0 ∧ ringed.mapAccess 32 .hr false = .at' 5 32 ∧
      ringed.readWord 5 0 0 = (.clean, 0x70003#256) ∧ ringed.readWord 5 1 0 = (.clean, 0) ∧ sqBad ((0 : Word) ++ 0x70003#256) = none ∧
      ringed.get (CMD_SQ_HEAD.HEAD 2) = 0 ∧ 2 ^ ringed.get (CMD_SQ.LOG2 2) = 16) ∧
    (ringed.get (CMD_CQ_TAIL.TAIL 2) = ringed.get (CMD_CQ_HEAD.HEAD 2) ∧ (live [(CMD_CQ_TAIL.TAIL 2, 3), (CMD_CQ.LOG2 2, 4)]).get (CMD_CQ_TAIL.TAIL 2) = 3) ∧
    (live []).flag (CMD_CTRL.EN 2) = false ∧ ringed.queueOk 0 (64 * 16) = true ∧ (live []).queueOk 0 64 = false ∧ ringed.filt = {} ∧
    ringed.lapWindow 2 = false ∧
    (let h := ringed.modWin 2 fun _ => { done := [⟨7, 0, 0, 0, 0, 0⟩] }
     (h.win 2).done = [⟨7, 0, 0, 0, 0, 0⟩] ∧ 2 ≤ h.cqFree 2 ∧ h.get (CMD_CQ.LOG2 2) ≤ 12 ∧ h.get (CMD_CQ_TAIL.TAIL 2) < 16 ∧ h.claim 0 32 true = none ∧ h.mapAccess 0 .hw false = .at' 5 0 ∧
       h.col 5 = {}) ∧
    (let h := ringed.modWin 2 fun _ => { run := some 0 }
     (h.win 2).sq = [] ∧ (h.win 2).closing = false ∧ (h.win 2).run ≠ none) := by
  decide +kernel

/-- An event for the logs. -/
def ev0 : Ev := ⟨0x101, 1, 0, 0, 1, 0, 0, 0⟩

theorem witness_Mailbox :
    ((mapped []).released = true ∧ (mapped []).pllOff = false ∧ (mapped []).host.sources = [] ∧ (mapped []).msix.sends 17 = true ∧
      ({ mapped [] with msix := { masked := [17] } } : Hw).msix.sends 17 = false) ∧
    ({ mapped [] with evt := { logs := [[], [ev0, ev0], [], []] } } : Hw).evt.logs.getD 1 [] = [ev0, ev0] ∧
    (mapped []).mappedLine (2 ^ 29) = none ∧ (mapped []).mappedLine 0x40 = some (5, 0x40) ∧ (mapped []).col 5 = {} ∧ (mapped []).claim 0x40 0x80 true = none := by
  decide +kernel

theorem witness_LinkProtection :
    (live []).flag TRU_STAT.ID_FAULT = false ∧ (live [(TRU_STAT.ID_FAULT, 1)]).flag TRU_STAT.ID_FAULT = true ∧
    (let h := fun n => { live [(TRU_STAT.ID_FAULT, n)] with trust := { ak := 1 } }
     ∀ n ∈ [0, 1], (h n).released = true ∧ (h n).host.link = true ∧ (h n).trust.ak ≠ 0 ∧ (h n).flag TRU_STAT.ID_FAULT = (n == 1)) := by decide +kernel

/-- Core 3 of an image. -/
def core3 : CoreConf :=
  { core := 3, fuse := 0, compat := false, execBase := 1024, accBase := 2048, wdMs := 1, wdEn := false, dlPeriod := 1, seed := 0, staging := none, scalarCode := true,
    imem := [], descs := [], routes := [], recs := [], params := [], sync := [], slots := [] }
/-- An image that configures core 3 only, which is its lap core. -/
def conf0 : ImgConf := { topGear := 0, cool := false, snapSlots := 2, wcet := 0, lapMask := 8, digest := 0, cores := [core3], red := [], bars := [], rsv := [], disp := none }

/-- The bytes of the smallest image before its signature block: the header, nine section entries, the map section, nothing in the others. -/
def imgBody : List Byte :=
  natLE 8 0x474D494E4F475355 ++ natLE 4 0x00020000 ++ natLE 4 9 ++ natLE 8 2496 ++ [0, 0, 2] ++ List.replicate 13 0 ++ natLE 8 8 ++ List.replicate 208 0 ++
    (requiredSects.flatMap fun t => natLE 4 t ++ natLE 4 (if t = 1 then 384 else 0) ++ natLE 8 (if t = 1 then 448 else 832)) ++ List.replicate 432 0

/-- An owner record with one image key. -/
def owner0 : OwnerRec := ⟨1, 0, List.replicate 9000 0, 1⟩

/-- KEY_ID of that image key. -/
def key0 : Nat := keyId (imageKey owner0 0)

/-- The smallest image, with a DIGEST, the KEY_ID of that image key and a signature of one byte. -/
def imgWith (digest : List Byte) : Image := ⟨imgBody ++ digest ++ natLE 8 key0 ++ [1] ++ List.replicate 1591 0, true, conf0⟩

/-- The smallest image that passes every check, and one whose DIGEST has no bytes. -/
def img0 : Image := imgWith (natLE 64 (Config.shake256 imgBody 64))
def img1 : Image := imgWith (List.replicate 64 0)

theorem img0_signed : imgSigned img0 2496 (some owner0) = true := by
  have n : imgBody.length = 832 := by decide +kernel
  have a : ∀ (d t u v : List Byte), d.length = 64 → (((imgBody ++ d ++ t ++ u ++ v).drop 832).take 64 = d) ∧ ((imgBody ++ d ++ t ++ u ++ v).take 832 = imgBody) := by
    intro d t u v e
    simp only [List.append_assoc]
    rw [List.drop_left' n, List.take_left' n, List.take_left' e]
    exact ⟨rfl, rfl⟩
  have b := a (natLE 64 (Config.shake256 imgBody 64)) (natLE 8 key0) [1] (List.replicate 1591 0) rfl
  have k : Image.le img0 (832 + 0x40) 8 = key0 := by
    have e : ∀ (d t u v : List Byte), d.length = 64 → t.length = 8 → ((imgBody ++ d ++ t ++ u ++ v).drop (832 + 0x40)).take 8 = t := by
      intro d t u v e f
      rw [List.append_assoc _ u v, List.append_assoc _ t (u ++ v), List.drop_left' (by rw [List.length_append, n, e]), List.take_left' f]
    show leNat ((img0.bytes.drop (832 + 0x40)).take 8) = key0
    rw [show img0.bytes = imgBody ++ natLE 64 (Config.shake256 imgBody 64) ++ natLE 8 key0 ++ [1] ++ List.replicate 1591 0 from rfl, e _ _ _ _ rfl rfl, leNat_natLE]
    exact Nat.mod_mod_of_dvd _ (Nat.dvd_refl _)
  have c : (decide (1 ≤ Image.le img0 (832 + 0x48) 2) && decide (Image.le img0 (832 + 0x48) 2 ≤ 1536) && Image.le img0 (832 + 0x4A) 54 == 0 &&
      Image.le img0 (832 + 0x80 + Image.le img0 (832 + 0x48) 2) (1536 - Image.le img0 (832 + 0x48) 2) == 0 && img0.sigOk) = true := by decide +kernel
  simp only [Bool.and_eq_true] at c
  simp only [imgSigned, Bool.and_eq_true, beq_iff_eq]
  refine ⟨⟨⟨⟨⟨⟨?_, c.1.1.1.1⟩, c.1.1.1.2⟩, by simpa using c.1.1.2⟩, by simpa using c.1.2⟩, ?_⟩, c.2⟩
  case refine_2 =>
    show (some owner0).any (admits · (Image.le img0 (832 + 0x40) 8)) = true
    rw [k]
    exact List.any_eq_true.mpr ⟨0, by decide, beq_self_eq_true _⟩
  show ((img0.bytes.drop 832).take 64) = natLE 64 (Config.shake256 (img0.bytes.take 832) 64)
  rw [show img0.bytes = imgBody ++ natLE 64 (Config.shake256 imgBody 64) ++ natLE 8 key0 ++ [1] ++ List.replicate 1591 0 from rfl, b.1, b.2]

/-- Window 2 runs LOAD_IMAGE of `n` bytes. -/
def loading (n : Nat) : Hw :=
  { (Hrun (mapped [(TRU_STAT.OWNED, 1), (IMG_STAT.STATE, 1)]) (ent 1 0 [0, n])).modImg fun x => { x with load := some (2, 0, n) } with trust := { sel := some owner0 } }

/-- An image in state `n` of IMG_STAT. -/
def imaged (n : Nat) (l : List (Loc × Nat)) : Hw := (mapped ([(IMG_STAT.STATE, n), (IMG_STAT.SNAP_SLOTS, 2)] ++ l)).modImg fun x => { x with conf := some conf0, lapWin := some 2 }

/-- The image passes every check but that of its signature block. -/
def passes (g : Image) (h : Hw) : Prop :=
  imgHeadErr g 2496 = none ∧ alignUp 2496 mib2 + (imgConf g 2496).snapSlots * 576 * 2 ^ 20 ≤ h.rsvBytes - 64 * 2 ^ 20 ∧ imgHeaderErr g = none ∧
    imgTableErr g 2496 = none ∧ h.cols = []

theorem witness_LapWindow : (imaged 3 []).lapWindow 2 = true ∧ (imaged 3 []).get IMG_STAT.STATE ≠ 4 ∧ (imaged 4 []).get IMG_STAT.STATE = 4 := by decide +kernel

theorem witness_ImageLife :
    ((Hwin (live []) (ent 1 0 [0, 2496])).starts 2 (ent 1 0 [0, 2496]) 1 ∧ (live []).loadRefused = false ∧ sqArg (ent 1 0 [0, 2496]) 1 ≠ 0) ∧
    ((Hwin (live []) (ent 1 0 [0, 0])).starts 2 (ent 1 0 [0, 0]) 1 ∧ sqArg (ent 1 0 [0, 0]) 1 = 0) ∧
    ((loading 2496).img.load = some (2, 0, 2496) ∧ ((loading 2496).win 2).run = some (ent 1 0 [0, 2496]) ∧ imgHeadErr ⟨[], true, conf0⟩ 2496 = some 0) ∧
    (passes img0 (loading 2496) ∧ (loading 2496).flag TRU_STAT.OWNED = true ∧ imgSigned img0 2496 (loading 2496).trust.sel = true ∧ (loading 2496).filt = {} ∧
      (loading 2496).loadErr (imgConf img0 2496) ((imgMap img0).map fun x => Region.ofWords x.1 x.2.1 x.2.2) 2496 ((imgSect img0 2).getD ⟨2, 0, 0⟩).len = none) ∧
    (passes img0 ((loading 2496).put TRU_STAT.OWNED 0) ∧ ((loading 2496).put TRU_STAT.OWNED 0).flag TRU_STAT.OWNED = false ∧
      passes { img1 with sigOk := false } (loading 2496) ∧ imgSigned { img1 with sigOk := false } 2496 (loading 2496).trust.sel = false) ∧
    ((Hwin (imaged 2 []) (ent 2 0 [])).starts 2 (ent 2 0 []) 2 ∧ (imaged 2 []).get IMG_STAT.STATE = 2 ∧ (imaged 2 []).img.conf = some conf0 ∧
      max ((imaged 2 []).get PWR_GEAR.LIM_IMG) ((imaged 2 []).get PWR_GEAR.LIM_HOST) ≤ (imaged 2 []).get PWR_GEAR.GEAR ∧ conf0.cool = false ∧ (imaged 2 []).hotDie = none ∧
      (imaged 2 []).flag PWR_GEAR.CHANGING = false) :=
  ⟨⟨starts_of (by decide +kernel), by decide +kernel⟩, ⟨starts_of (by decide +kernel), by decide +kernel⟩, by decide +kernel,
    ⟨by unfold passes; decide +kernel, by decide +kernel, img0_signed, by decide +kernel⟩,
    ⟨by unfold passes; decide +kernel, by decide +kernel, by unfold passes; decide +kernel, by simp [imgSigned]⟩,
    ⟨starts_of (by decide +kernel), by decide +kernel⟩⟩

/-- A snapshot of the image that is loaded. -/
def snap0 : Snap := ⟨0, 5, [], [], [], [], [], [], {}⟩

theorem witness_ImageStops :
    (∀ n ∈ [(3, 0), (4, 1), (4, 0), (2, 1)], (Hwin (imaged n.1 []) (ent 3 n.2 [])).starts 2 (ent 3 n.2 []) 3 ∧ sqFlags (ent 3 n.2 []) = n.2 ∧ (imaged n.1 []).img.snapW = none) ∧
    (∀ k ∈ [(none, 0), (some (3, 7, false), 1)], let h := (Hrun (imaged 3 [(IMG_STAT.PEND_STOP, 1)]) (ent 3 0 [])).modImg fun x => { x with stopW := [2], snapW := k.1, snapAt := k.2 }
      h.img.stopW = [2] ∧ (h.img.snapW = none ∨ h.img.snapAt ≠ 0) ∧ (h.win 2).run = some (ent 3 0 [])) ∧
    (let h := (Hrun (imaged 5 []) (ent 3 0 [])).modImg fun x => { x with quiesce := some (.stop [2] 0) }
     (h.win 2).run = some (ent 3 0 []) ∧ h.quiet = true ∧ h.img.quiesce = some (.stop [2] 0)) ∧
    (let h := (Hrun (imaged 5 []) (ent 4 0 [7])).modImg fun x => { x with quiesce := some (.snap 7 (some 2) false []) }
     7 < 8 ∧ h.quiet = true ∧ h.img.quiesce = some (.snap 7 (some 2) false []) ∧ (h.win 2).run = some (ent 4 0 [7])) ∧
    ((Hwin (imaged 3 []) (ent 4 1 [1])).starts 2 (ent 4 1 [1]) 4 ∧ (imaged 3 []).flag IMG_STAT.PEND_SNAP = false ∧ sqArg (ent 4 1 [1]) 0 < (imaged 3 []).get IMG_STAT.SNAP_SLOTS) ∧
    ((Hwin ((imaged 2 []).modImg fun x => { x with snaps := [(1, some snap0)] }) (ent 5 0 [1])).starts 2 (ent 5 0 [1]) 5 ∧
      ((imaged 2 []).modImg fun x => { x with snaps := [(1, some snap0)] }).snap 1 = some snap0 ∧ snap0.digest = leNat (imaged 2 []).digestBytes) ∧
    (∀ k ∈ [([], 1), ([3], 0)], let h := (Hrun (imaged 3 [(IMG_STAT.PEND_SNAP, 1)]) (ent 4 0 [7])).modImg fun x => { x with snapW := some (2, 7, false), stopW := k.1, snapAt := k.2 }
      (h.img.stopW = [] ∨ h.img.snapAt = 0) ∧ h.img.snapW = some (2, 7, false) ∧ (h.win 2).run = some (ent 4 0 [7])) ∧
    ((imaged 3 []).img.stopW = [] ∧ (imaged 3 []).img.snapW = none) ∧
    (∀ n ∈ [4, 2], (Hwin (imaged n []) (ent 4 0 [1])).starts 2 (ent 4 0 [1]) 4 ∧ (imaged n []).get IMG_STAT.STATE ≠ 3) ∧
    ((Hwin (imaged 3 []) (ent 4 0 [7])).starts 2 (ent 4 0 [7]) 4 ∧ (imaged 3 []).get IMG_STAT.SNAP_SLOTS ≤ sqArg (ent 4 0 [7]) 0) ∧
    ((Hwin (imaged 3 []) (ent 5 0 [1])).starts 2 (ent 5 0 [1]) 5 ∧ (imaged 3 []).get IMG_STAT.STATE ≠ 2) ∧
    ((Hwin (imaged 2 []) (ent 5 0 [1])).starts 2 (ent 5 0 [1]) 5 ∧ (imaged 2 []).img.conf ≠ none ∧ (imaged 2 []).get IMG_STAT.STATE = 2 ∧
      (imaged 2 []).snap (sqArg (ent 5 0 [1]) 0) = none ∧
      ((imaged 2 []).modImg fun x => { x with snaps := [(1, some { snap0 with digest := 1 })] }).snap 1 = some { snap0 with digest := 1 } ∧
      ({ snap0 with digest := 1 } : Snap).digest ≠ leNat (imaged 2 []).digestBytes) :=
  ⟨by intro n hn; simp only [List.mem_cons, List.not_mem_nil, or_false] at hn
      rcases hn with rfl | rfl | rfl | rfl <;> exact ⟨starts_of (by decide +kernel), by decide +kernel⟩,
    by decide +kernel, by decide +kernel, by decide +kernel, ⟨starts_of (by decide +kernel), by decide +kernel⟩, ⟨starts_of (by decide +kernel), by decide +kernel⟩,
    by decide +kernel, by decide +kernel, by
      intro n hn; simp only [List.mem_cons, List.not_mem_nil, or_false] at hn
      rcases hn with rfl | rfl <;> exact ⟨starts_of (by decide +kernel), by decide +kernel⟩,
    ⟨starts_of (by decide +kernel), by decide +kernel⟩, ⟨starts_of (by decide +kernel), by decide +kernel⟩, ⟨starts_of (by decide +kernel), by decide +kernel⟩⟩

/-- A check that decides `Hw.lineAt` for a line at byte `o` of column `c`. -/
def lineB (h : Hw) (c o a : Nat) (v : BitVec 512) : Bool :=
  h.mapAccess a .hr false == .at' c o && h.mapAccess (a + 32) .hr false == .at' c (o + 32) && h.col c == {} &&
    (h.readWord c (o / 32) 0).1 == .clean && (h.readWord c ((o + 32) / 32) 0).1 == .clean &&
    v == (h.readWord c ((o + 32) / 32) 0).2 ++ (h.readWord c (o / 32) 0).2

theorem lineAt_of {h : Hw} {c o a : Nat} {v : BitVec 512} (x : lineB h c o a v = true) : h.lineAt a v := by
  simp only [lineB, Bool.and_eq_true, beq_iff_eq] at x
  obtain ⟨⟨⟨⟨⟨p, q⟩, r⟩, t⟩, u⟩, w⟩ := x
  exact ⟨c, o, _, _, p, q, r, Prod.ext t rfl, Prod.ext u rfl, w⟩

/-- A patch of register 4 of core `c`, to 9 at lap 6. -/
def patch (c : Nat) : Nat := c + 4 * 2 ^ 8 + 9 * 2 ^ 32 + 6 * 2 ^ 64

/-- A running image, and a patch of core `c` at byte 64 of device memory. -/
def patched (c : Nat) : Hw := (stored [(IMG_STAT.STATE, 3)] [(2, BitVec.ofNat 256 (patch c)), (3, 0)]).modImg fun x => { x with conf := some conf0, lapWin := some 2 }

theorem witness_LapsAndPatches :
    (∀ c ∈ [3, 4], (Hwin (patched c) (ent 6 0 [64, 1])).starts 2 (ent 6 0 [64, 1]) 6 ∧ (patched c).filt = {} ∧ (patched c).img.patches = [] ∧ (patched c).lineAt 64 (BitVec.ofNat 512 (patch c)) ∧
      patchEntry (bitsOf (BitVec.ofNat 512 (patch c)).toNat 0 128) = some ⟨c, 4, 9, 6⟩) ∧
    (fusedMember core3 = false ∧ core3.scalarCode = true ∧ ∀ x ∈ conf0.cores, x.core ≠ 4) ∧
    (let h := ((imaged 3 []).modImg fun x => { x with relWait := true }).setCore 3 { sst := .lapWait, lapDone := true, lapLate := true }
     h.img.relWait = true ∧ h.get IMG_STAT.STATE ≠ 5 ∧ h.img.lapWin = some 2 ∧ h.cqFree 2 ≠ 0 ∧ (h.win 2).done.any (fun c => c.kind == 1) = false ∧
       h.get (CMD_RES.RES_COUNT 2) = 0 ∧ (h.core 3).lapLate = true ∧ (h.core 4).lapLate = false) :=
  ⟨by intro c hc; simp only [List.mem_cons, List.not_mem_nil, or_false] at hc
      rcases hc with rfl | rfl <;> exact ⟨starts_of (by decide +kernel), by decide +kernel, by decide +kernel, lineAt_of (c := 5) (o := 64) (by decide +kernel), by decide +kernel⟩,
    by decide +kernel, by decide +kernel⟩

/-! ## Memory commands and queries, kickstand, enumeration -/

/-- A descriptor in hub SRAM of FP32 type: rank 2, sizes `a` and `b`, contiguous, at byte `base`, with a window of 32 bytes. -/
def tensor (a b base : Nat) : BitVec 512 :=
  BitVec.ofNat 512 (1 + 2 * 2 + 3 * 2 ^ 15 + base * 2 ^ 32 + 2 ^ 128 + a * 2 ^ 164 + b * 2 ^ 190 + 2 ^ 320 + a * 2 ^ 332)

/-- Window 2 has COPY or TRANSPOSE (`op`) at its front, from the descriptor at byte 64 to the one at byte 128. -/
def copying (op : Nat) (d : BitVec 512) : Hw :=
  Hwin (stored [] [(2, BitVec.ofNat 256 (tensor 8 1 0).toNat), (3, BitVec.ofNat 256 ((tensor 8 1 0).toNat / 2 ^ 256)), (4, BitVec.ofNat 256 d.toNat),
    (5, BitVec.ofNat 256 (d.toNat / 2 ^ 256))]) (ent op 0 [64, 128, 0])

theorem witness_copy (op : Nat) (d : BitVec 512) (h : (op, d) = (9, tensor 8 1 64) ∨ (op, d) = (0x0A, tensor 1 8 64)) :
    (copying op d).starts 2 (ent op 0 [64, 128, 0]) op ∧ (copying op d).filt = {} ∧ (copying op d).get IMG_STAT.STATE < 2 ∧ (copying op d).marks = [] ∧
      (copying op d).lineAt 64 (tensor 8 1 0) ∧ (copying op d).lineAt 128 d ∧
      (let x : Copy := ⟨tensor 8 1 0, d, op == 0x0A, 1, 1⟩
       x = sqCopy (ent op 0 [64, 128, 0]) (tensor 8 1 0) d ∧ x.refuse = none ∧ x.s.space = 3 ∧ x.d.space = 3 ∧ x.overlap = false ∧ x.bytes = 32 ∧ x.s.vbase = 0 ∧ x.d.vbase = 64 ∧
         ∀ i ∈ List.range 32, (match x.at' i with | .ok y => y == (i, 64 + i) | _ => false) = true) := by
  rcases h with h | h <;> cases h <;>
    exact ⟨starts_of (by decide +kernel), by decide +kernel, by decide +kernel, by decide +kernel,
      lineAt_of (c := 5) (o := 64) (by decide +kernel), lineAt_of (c := 5) (o := 128) (by decide +kernel), by decide +kernel⟩

/-- FILL or SCRUB_REGION (`op`) of `n` bytes at `a` stands at the front of window 2. -/
def ranged (op a n : Nat) : Hw := Hwin (mapped []) (ent op 0 [a, n])

/-- A module without requests is calm. -/
theorem calm_of {h : Hw} (x : h.cols = []) : h.calm := by
  intro c
  have e : h.col c = {} := by simp [Hw.col, x, tget]
  rw [e]; exact ⟨rfl, rfl, rfl, rfl, rfl, rfl⟩

theorem witness_MemoryCommands :
    (∀ op ∈ [8, 0x0C],
      ((ranged op 0x20 64).starts 2 (ent op 0 [0x20, 64]) op ∧ rangeArgs (ent op 0 [0x20, 64]) = some 0) ∧
      ((ranged op (2 ^ 29 - 64) 128).starts 2 (ent op 0 [2 ^ 29 - 64, 128]) op ∧ rangeArgs (ent op 0 [2 ^ 29 - 64, 128]) = none ∧
        ((ranged op (2 ^ 29 - 64) 128).mapFault (2 ^ 29 - 64) 128 .hw).isSome = true ∧ ((ranged op (2 ^ 29 - 64) 128).mapFault (2 ^ 29 - 64) 128 .hr).isSome = true) ∧
      ((ranged op 0x40 64).starts 2 (ent op 0 [0x40, 64]) op ∧ rangeArgs (ent op 0 [0x40, 64]) = none ∧
        (ranged op 0x40 64).mapFault 0x40 64 .hw = none ∧ (ranged op 0x40 64).mapFault 0x40 64 .hr = none ∧ (ranged op 0x40 64).cols = [] ∧ (ranged op 0x40 64).filt = {} ∧
        (ranged op 0x40 64).mapAccess 0x40 .hw false = .at' 5 0x40 ∧ (ranged op 0x40 64).mapAccess 0x60 .hw false = .at' 5 0x60)) ∧
    ((Hwin (mapped []) (ent 0x0B 1 [])).starts 2 (ent 0x0B 1 []) 0x0B ∧ (Hwin (mapped []) (ent 0x0B 1 [])).get IMG_STAT.STATE = 0 ∧
      (Hwin (mapped []) (ent 0x0B 1 [])).mode.erase = none ∧ (Hwin (mapped []) (ent 0x0B 1 [])).filt = {}) ∧
    (let h := Hrun ((mapped []).modMode fun m => { m with erase := some (.command 2 true) }) (ent 0x0B 1 [])
     h.mode.erase = some (.command 2 true) ∧ h.filt = {} ∧ h.cols = [] ∧ (h.win 2).run = some (ent 0x0B 1 [])) :=
  ⟨by intro op h; simp only [List.mem_cons, List.not_mem_nil, or_false] at h
      rcases h with rfl | rfl <;>
        exact ⟨⟨starts_of (by decide +kernel), by decide +kernel⟩, ⟨starts_of (by decide +kernel), by decide +kernel⟩, starts_of (by decide +kernel), by decide +kernel⟩,
    ⟨starts_of (by decide +kernel), by decide +kernel⟩, by decide +kernel⟩

theorem witness_Queries : ∀ n ∈ [0, 1, 2, 3, 4], (Hwin (live []) (ent 0x13 0 [n])).starts 2 (ent 0x13 0 [n]) 0x13 ∧ sqArg (ent 0x13 0 [n]) 0 = n := by
  intro n h; simp only [List.mem_cons, List.not_mem_nil, or_false] at h
  rcases h with rfl | rfl | rfl | rfl | rfl <;> exact ⟨starts_of (by decide +kernel), by decide +kernel⟩

theorem witness_ModuleCommands :
    ((Hwin (live []) (ent 0x11 0 [0])).starts 2 (ent 0x11 0 [0]) 0x11 ∧ sqArg (ent 0x11 0 [0]) 0 = 0 ∧ (Hwin (live []) (ent 0x11 0 [0])).calm ∧
      (live [(PWR_GEAR.GEAR, 4)]).get PWR_GEAR.GEAR = 4 ∧ (live []).flag PWR_FW.FW = false) ∧
    ∀ k ∈ [1, 2, 3], (Hwin (live [(KICK_STAT.KICK, 1), (KICK_STAT.CAUSE, k)]) (ent 0x11 0 [1])).fronts 2 (ent 0x11 0 [1]) 0x11 ∧ sqArg (ent 0x11 0 [1]) 0 = 1 ∧
      (live [(KICK_STAT.KICK, 1), (KICK_STAT.CAUSE, k)]).kick = true ∧ (live []).get THM_STAT.LEVEL < 2 :=
  ⟨⟨starts_of (by decide +kernel), by decide +kernel, calm_of (by decide +kernel), by decide +kernel, by decide +kernel⟩, by
    intro n h; simp only [List.mem_cons, List.not_mem_nil, or_false] at h
    rcases h with rfl | rfl | rfl <;> exact ⟨fronts_of (by decide +kernel), by decide +kernel⟩⟩

theorem witness_EnumCommands :
    (∀ f ∈ [0, 1], (Hwin (live []) (ent 0x12 f [9])).starts 2 (ent 0x12 f [9]) 0x12 ∧ sqFlags (ent 0x12 f [9]) = f) ∧ (live []).fuses.variantS = false ∧
    (live []).loaded = false ∧ (live [(FAB_PSTAT.STATE 0, 3)]).portUp 0 = true ∧ (live []).portUp 0 = false ∧ (live []).portUp 2 = false ∧ (live []).portUp 4 = false :=
  ⟨by intro n h; simp only [List.mem_cons, List.not_mem_nil, or_false] at h
      rcases h with rfl | rfl <;> exact ⟨starts_of (by decide +kernel), by decide +kernel⟩, by decide +kernel⟩

/-! ## Power, gears and heat -/

theorem witness_PowerCap :
    ((live []).powered = true ∧ (live []).since (live []).mode.capDown 20000 = true ∧ (live [(PWR_GEAR.LIM_PWR, 3)]).get PWR_GEAR.LIM_PWR < 4 ∧ (live []).mode.cap = 650 ∧
      11 * 650 < (716 : BitVec 10).toNat * 10 ∧ (715 : BitVec 10).toNat * 10 ≤ 11 * 650) ∧
    (List.replicate 30 (1 : BitVec 10)).length = 30 ∧ (live []).get PWR_CAP.CAP_W < (651 : BitVec 10).toNat ∧ (650 : BitVec 10).toNat ≤ (live []).get PWR_CAP.CAP_W ∧
    ([] : List (BitVec 10)).length ≠ 30 := by decide +kernel

/-- A module whose gear changes from 0 to 3 since the host's cap is 3. -/
def shifting (locked : Bool) : Hw := (live [(PWR_GEAR.LIM_HOST, 3), (PWR_GEAR.GEAR, if locked then 3 else 0), (PWR_GEAR.CHANGING, 1)]).modMode fun m => { m with gear := some ⟨locked, 3, 0⟩ }

theorem witness_GearChange :
    (let h := live [(PWR_GEAR.LIM_HOST, 3), (PWR_GEAR.GEAR, 0)]
     h.mode.gear = none ∧ h.powered = true ∧ h.flag PWR_FW.FW = false ∧ h.get PWR_GEAR.GEAR ≠ h.gearInForce ∧ h.cols = []) ∧
    (shifting false).mode.gear = some ⟨false, 3, 0⟩ ∧
    ((shifting true).mode.gear = some ⟨true, 3, 0⟩ ∧ (shifting true).mode.verify = [] ∧ (shifting true).issuedEnded = true ∧ (shifting true).mode.freeWaits = false ∧ (shifting true).hostHeld = []) := by decide +kernel

theorem witness_GearCapCommand :
    (∀ x ∈ [(5, 0), (4, 4), (3, 0), (4, 0)], (Hwin (live [(PWR_GEAR.GEAR, x.2)]) (ent 0x10 0 [x.1])).starts 2 (ent 0x10 0 [x.1]) 0x10 ∧ sqArg (ent 0x10 0 [x.1]) 0 = x.1) ∧
    ((live [(PWR_GEAR.GEAR, 0), (PWR_GEAR.LIM_THERM, 4)]).get PWR_GEAR.LIM_THERM = 4 ∧ (live [(PWR_GEAR.GEAR, 4)]).get PWR_GEAR.GEAR = 4 ∧
      max ((live []).get PWR_GEAR.LIM_IMG) (max ((live []).get PWR_GEAR.LIM_THERM) ((live []).get PWR_GEAR.LIM_PWR)) = 0) ∧
    ∀ n ∈ [3, 4], (let h := (Hrun (shifting true) (ent 0x10 0 [n])).modImg fun x => { x with gearW := [2] }
      h.mode.gear = some ⟨true, 3, 0⟩ ∧ h.mode.verify = [] ∧ h.issuedEnded = true ∧ h.mode.freeWaits = false ∧ h.hostHeld = [] ∧ h.img.gearW = [2] ∧ (h.win 2).run = some (ent 0x10 0 [n]) ∧
        h.get PWR_GEAR.GEAR = 3 ∧ sqArg (ent 0x10 0 [n]) 0 = n) :=
  ⟨by intro x h; simp only [List.mem_cons, List.not_mem_nil, or_false] at h
      rcases h with rfl | rfl | rfl | rfl <;> exact ⟨starts_of (by decide +kernel), by decide +kernel⟩, by decide +kernel, by decide +kernel⟩

theorem witness_Freewheel :
    ((live []).released = true ∧ (live []).flag PWR_FW.FW = false ∧ (live []).mayFreewheel = true ∧ (live []).mode.gear = none) ∧
    ((live [(IMG_STAT.STATE, 3)]).mayFreewheel = false ∧ (live [(IMG_STAT.STATE, 3)]).mode.gear = none) ∧
    (let h := (live []).modMode fun m => { m with gear := some ⟨false, 4, 0⟩ }
     h.released = true ∧ h.flag PWR_FW.FW = false ∧ h.mode.gear = some ⟨false, 4, 0⟩) ∧ (live [(PWR_FW.FW, 1)]).flag PWR_FW.FW = true ∧ (live []).hostHeld = [] := by decide +kernel

theorem witness_Sensors :
    (∀ x ∈ List.replicate 193 640#13, -640 ≤ x.toInt ∧ x.toInt ≤ 640) ∧ ((live []).powered = true ∧ (live []).flag (THM_SENS.FAILED 192) = false) ∧
    (let h := live [(THM_SENS.FAST 191, 1), (THM_SENS.TEMP 191, 1840)]
     h.flag (THM_SENS.FAST 191) = true ∧ h.flag (THM_SENS.FAILED 191) = false ∧ sensorDie 191 = some 63 ∧ threshold 63 3 ≤ h.prevSample 191 ∧ h.engaged 63 3 = false ∧
       threshold 63 3 ≤ (1840 : BitVec 13).toInt) ∧
    (let h := live [(THM_SENS.FAST 191, 1), (THM_SENS.TEMP 191, 1487)]
     h.temp 191 < threshold 63 1 - 112) ∧
    ((live [(THM_SENS.TEMP 166, 1295), (THM_SENS.TEMP 167, 8191)]).goodSensors 47 = [166, 167] ∧
      ∀ n ∈ [166, 167], (live [(THM_SENS.TEMP 166, 1295), (THM_SENS.TEMP 167, 8191)]).temp n < 1296) ∧
    ((live [(THM_SENS.TEMP 190, 1552), (THM_SENS.TEMP 191, 0)]).goodSensors 63 ≠ [] ∧
      ∀ n ∈ (live [(THM_SENS.TEMP 190, 1552), (THM_SENS.TEMP 191, 0)]).goodSensors 63, (live [(THM_SENS.TEMP 190, 1552), (THM_SENS.TEMP 191, 0)]).temp n ≤ threshold 63 2 - 48) :=
  ⟨by intro x h; rw [List.eq_of_mem_replicate h]; decide, by decide +kernel⟩

theorem witness_Heat :
    (let h := (live [(THM_SENS.TEMP 0, 1600)]).modTherm fun t => { t with engaged := [(48, 2)], brakeBy := [(48, 1)] }
     h.brakeDie = some (48, 0)) ∧
    (let h := (live [(PWR_GEAR.GEAR, 4)]).modTherm fun t => { t with engaged := [(63, 4)] }
     h.get PWR_GEAR.GEAR = 4 ∧ h.powered = true ∧ h.engaged 63 2 = true ∧ h.kick = false) ∧
    ((∀ d ∈ List.range 64, (live []).dieLevel d < 2) ∧ (live []).since (live []).therm.rateAt 1000000 = true) := by decide +kernel

/-! ## Power loss, starts and resets -/

/-- What a start finds where every part is good. -/
def goodInputs : StartInputs :=
  { slotId := 0, originN := true, bist := true, sigA := true, sigB := true, idOk := true, domainsBad := [], pllOk := true, trainBad := [], trims := [], fillBad := [],
    testBad := [], ports := [] }

/-- A module of that phase. -/
def phased (p : Phase) : Hw := { mode := { phase := p } }

theorem witness_PowerLoss :
    ((live []).mode.phase ≠ .off ∧ (live []).mode.phase ≠ .heldOff ∧ (live []).mode.phase ≠ .locked) ∧
    ((live [(PWR_DOM.ON 29, 1)]).flag (PWR_DOM.ON 29) = true ∧ (live []).kick = false) ∧ (phased .heldOff).mode.phase = .heldOff ∧
    ({ goodInputs with bist := false } : StartInputs).bist = false := by decide +kernel

/-- The shipped firmware without its key and BODY_DIGEST. -/
def bareFirmware : Memory := [(0, 0x42), (1, 0x52), (2, 0x46), (3, 0x57), (0x10, 1), (0x778, 1)]

/-- The shipped firmware passes with a good signature, in any module whose SVN fuses allow it; so does a slot that reads like it. -/
theorem shipped_ok (h : Hw) (m : Memory) (e : h.fuses.svn = 0) (r : ∀ c, c < 0x1001 → Memory.read m c = Memory.read shippedFirmware c) :
    h.slotOk m true = true ∧ h.slotOk m false = false := by
  have k : (padTo 1793 Config.fwKey).length = 1793 := by unfold padTo; rw [List.length_take, List.length_append, List.length_replicate]; omega
  have d : (shake64 [0]).length = 64 := rfl
  have le : ∀ a n, a + n ≤ 0x20 ∨ (0x778 ≤ a ∧ a + n ≤ 0x1001) → Memory.readLE m a n = Memory.readLE bareFirmware a n := by
    intro a n q
    rw [Memory.readLE_congr m shippedFirmware a n fun c u v => r c (by omega), shippedFirmware,
      Memory.readLE_writeBytes_other _ _ _ _ _ (by rw [k]; omega), Memory.readLE_writeBytes_other _ _ _ _ _ (by rw [d]; omega), bareFirmware]
  have key : Memory.readBytes m 0x60 1793 = padTo 1793 Config.fwKey := by
    rw [Memory.readBytes_congr m shippedFirmware 0x60 1793 fun c u v => r c (by omega), shippedFirmware]
    have q := Memory.readBytes_writeBytes (Memory.writeBytes bareFirmware 0x20 (shake64 [0])) 0x60 (padTo 1793 Config.fwKey)
    rw [k] at q
    exact q
  have dig : Memory.readBytes m 0x20 64 = shake64 [0] := by
    rw [Memory.readBytes_congr m shippedFirmware 0x20 64 fun c u v => r c (by omega), shippedFirmware, Memory.readBytes_writeBytes_other _ _ _ _ _ (by rw [k]; omega)]
    exact Memory.readBytes_writeBytes _ 0x20 (shake64 [0])
  have body : Memory.readBytes m 0x1000 1 = [0] := by
    rw [Memory.readBytes_congr m shippedFirmware 0x1000 1 fun c u v => r c (by omega), shippedFirmware, Memory.readBytes_writeBytes_other _ _ _ _ _ (by rw [k]; omega),
      Memory.readBytes_writeBytes_other _ _ _ _ _ (by rw [d]; omega)]
    decide
  have len : Memory.readLE m 0x10 8 = 1 := by rw [le _ _ (by omega)]; decide
  simp only [Hw.slotOk, len, key, dig, body, le 0 4 (by omega), le 0x778 2 (by omega), le 4 4 (by omega), e, fwAnchor]
  exact ⟨by simp; decide, by simp⟩

/-- The bytes of a slot that reads like the shipped firmware. -/
def fwBytes : List Byte := Memory.readBytes shippedFirmware 0 0x1001

theorem fwBytes_length : fwBytes.length = 0x1001 := by unfold fwBytes Memory.readBytes; rw [List.length_map, List.length_range]

theorem fwBytes_read (c : Nat) (h : c < 0x1001) : Memory.read (Memory.writeBytes [] 0 fwBytes) c = Memory.read shippedFirmware c := by
  rw [Memory.read_writeBytes, if_pos (by rw [fwBytes_length]; omega)]
  unfold fwBytes Memory.readBytes
  rw [List.getD_eq_getElem?_getD, List.getElem?_map, List.getElem?_range (by omega)]
  simp

theorem witness_ColdStart :
    ((phased .off).mode.phase = .off ∧ (phased .off).goodStart (phased .off).preferred goodInputs ∧ (phased .off).mode.perst = false) ∧
    ({ phased .off with mode := { phase := .off, perst := true } } : Hw).mode.perst = true ∧
    ((phased .recovery).mode.phase = .recovery ∧ fwBytes.length ≤ 2 ^ 26 ∧ (phased .recovery).slotOk (Memory.writeBytes [] 0 fwBytes) true = true ∧
      (phased .recovery).slotOk (Memory.writeBytes [] 0 fwBytes) false = false) := by
  have a := shipped_ok (phased .off) ((phased .off).slotMem (phased .off).preferred) rfl fun _ _ => rfl
  have b := shipped_ok (phased .recovery) (Memory.writeBytes [] 0 fwBytes) rfl fwBytes_read
  exact ⟨⟨by decide +kernel, ⟨by decide, by decide, a.1⟩, by decide +kernel⟩, by decide +kernel, by decide +kernel, by rw [fwBytes_length]; decide, b⟩

theorem witness_WarmStarts :
    ((live []).released = true ∧ (live []).goodWarm goodInputs ∧ (live []).mode.perst = false ∧ (live []).mode.linkDisabled = false) ∧
    ((live []).slotOk (live []).flash.slotA false = false ∧ (live []).slotOk (live []).flash.slotB false = false ∧
      (live []).slotOk (live []).flash.slotA goodInputs.sigA = true ∧ ({ goodInputs with pllOk := false } : StartInputs).pllOk = false) ∧
    ((phased .recovery).mode.phase ≠ .released ∧ (phased .recovery).mode.phase ≠ .linkWait) := by
  have a := shipped_ok (live []) (live []).flash.slotA rfl fun _ _ => rfl
  exact ⟨⟨by decide +kernel, ⟨rfl, Or.inl a.1⟩, by decide +kernel, by decide +kernel⟩, ⟨a.2, by simp [Hw.slotOk], a.1, rfl⟩, by decide +kernel⟩

theorem witness_PortAndCoreResets :
    ((phased .linkWait).mode.phase = .linkWait ∧ (phased .linkWait).mode.erase = none ∧ (phased .linkWait).mode.linkDisabled = false ∧ (phased .linkWait).mode.perst = false) ∧
    ((live []).mode.phase ≠ .linkWait ∧ ({ mode := { phase := .linkWait, linkDisabled := true, perst := true } } : Hw).mode.linkDisabled = true ∧
      ({ mode := { phase := .linkWait, erase := some .cxlReset } } : Hw).mode.erase.isSome = true) ∧
    ((live []).win 15 = {} ∧ (∀ n ∈ [0, 3, 4, 5], (live [(IMG_STAT.STATE, n)]).get IMG_STAT.STATE = n)) ∧ (live []).groupSize 63 = 1 ∧
    (let h := live [(CORE_STAT.FUSE 28, 1), (CORE_STAT.FUSE 29, 1)]
     h.members 28 = [28, 29] ∧ h.leader 28 = 28 ∧ h.leader 29 = 28) := by decide +kernel

/-! ## Trust -/

/-- A released module whose trust mailbox runs opcode `op`. -/
def asking (op : Nat) (l : List (Loc × Nat)) : Hw := { live ([(TRU_MBOX.BUSY, 1), (TRU_MBOX.GO, 1)] ++ l) with trust := { op := op, challenge := [9] } }

theorem witness_Attestation :
    ((asking 1 []).asked 1 ∧ (asking 2 []).asked 2 ∧ (asking 3 []).asked 3) ∧ (asking 2 [(TRU_STAT.ID_FAULT, 1)]).flag TRU_STAT.ID_FAULT = true ∧
    (asking 2 []).flag TRU_STAT.ID_FAULT = false ∧ (asking 2 []).get TRU_MBOX.LEN ≠ 32 ∧ (asking 2 [(TRU_MBOX.LEN, 32)]).get TRU_MBOX.LEN = 32 := by
  unfold Hw.asked; decide +kernel

/-- A well-formed owner record. -/
def rec0 : OwnerRec := ⟨1, 4, List.replicate 9000 0, 1⟩

/-- The same module with that owner. -/
def owned (op : Nat) : Hw := { asking op [(TRU_STAT.POLICY, 4)] with trust := { op := op, challenge := [9], sel := some rec0 } }

theorem witness_Ownership :
    recOk rec0 = true ∧ ((asking 0x10 []).asked 0x10 ∧ (asking 0x11 []).asked 0x11 ∧ (asking 0x20 []).asked 0x20) ∧
    ((owned 0x10).asked 0x10 ∧ (owned 0x11).asked 0x11 ∧ (owned 0x12).asked 0x12 ∧ (owned 0x20).asked 0x20) ∧
    ((asking 0x10 []).get IMG_STAT.STATE = 0 ∧ (owned 0x10).get IMG_STAT.STATE = 0 ∧ (owned 0x10).fuses.epoch < 32 ∧ (asking 0x10 []).trust.sel = none ∧
      (owned 0x10).trust.sel.isSome = true ∧ (9 : BitVec 256).toNat ∈ (owned 0x10).trust.challenge ∧ (8 : BitVec 256).toNat ∉ (owned 0x10).trust.challenge ∧
      bitAt ((owned 0x20).get TRU_STAT.POLICY) 2 = true) ∧ (owned 0x12).trust.sel = some rec0 ∧
    ((owned 0x12).trust.challenge = [9] ∧ (asking 0x20 []).trust.challenge = [9] ∧ (asking 0x11 []).trust.sel = none ∧ (asking 0x11 []).fuses.epoch < 32) :=
  ⟨by have h : rec0.body.length = 9000 := List.length_replicate; unfold recOk; rw [h]; decide, by unfold Hw.asked; decide +kernel, by unfold Hw.asked; decide +kernel, by decide +kernel, rfl, by decide +kernel⟩

theorem witness_FirmwareSlots :
    ((asking 0x30 []).asked 0x30 ∧ (asking 0x31 []).asked 0x31 ∧ (asking 0x32 []).asked 0x32) ∧
    (let h := { asking 0x31 [] with flash := { slotB := shippedFirmware } }
     h.running = false ∧ h.slotOk (h.slotMem !h.running) true = true ∧ h.slotOk (h.slotMem !h.running) false = false) ∧
    ((asking 0x32 []).fuses.svn ≤ 64 ∧ (asking 0x32 []).running = (asking 0x32 []).preferred ∧
      (let h := { asking 0x32 [] with flash := { bootPref := some true } }
       h.running ≠ h.preferred)) ∧ (asking 0 []).powered = true ∧ ([7] : List Byte).length ≤ 16384 ∧ 2 ^ 26 - 1 + ([7] : List Byte).length ≤ 2 ^ 26 ∧ fwBytes.length ≤ 2 ^ 26 := by
  have a := shipped_ok { asking 0x31 [] with flash := { slotB := shippedFirmware } } shippedFirmware rfl fun _ _ => rfl
  exact ⟨by unfold Hw.asked; decide +kernel, ⟨by decide +kernel, a⟩, by decide +kernel, by decide +kernel, by decide, by decide, by rw [fwBytes_length]; decide⟩

/-! ## Ports, links and enumeration -/

/-- A module with port 2 in state `n`, and a port's state. -/
def ported (n : Nat) (l : List (Loc × Nat)) (q : Port) : Hw := (live ([(FAB_PSTAT.STATE 2, n)] ++ l)).modPort 2 fun _ => q

theorem witness_PortStates :
    ((ported 1 [] {}).get (FAB_PSTAT.STATE 2) = 1 ∧ legalLanes ((7 : BitVec 4).toNat - ((7 : BitVec 4).toNat &&& ((ported 1 [] {}).port 2).lanesOut)) = 7 ∧
      ((ported 1 [] {}).port 2).auth = false ∧ ((ported 1 [] { auth := true }).port 2).auth = true ∧
      legalLanes ((15 : BitVec 4).toNat - ((15 : BitVec 4).toNat &&& ((ported 1 [] { lanesOut := 10 }).port 2).lanesOut)) = 0 ∧ (ported 2 [] {}).get (FAB_PSTAT.STATE 2) ≠ 1) ∧
    ((ported 3 [(FAB_PSTAT.LANES 2, 15)] {}).portUp 2 = true ∧ bitAt ((ported 3 [(FAB_PSTAT.LANES 2, 15)] {}).get (FAB_PSTAT.LANES 2)) 3 = true ∧ legalLanes (15 - 8) ≠ 0 ∧
      bitAt ((ported 3 [(FAB_PSTAT.LANES 2, 3)] {}).get (FAB_PSTAT.LANES 2)) 0 = true ∧ legalLanes (3 - 1) = 0 ∧
      bitAt ((ported 3 [(FAB_PSTAT.LANES 2, 3)] {}).get (FAB_PSTAT.LANES 2)) 3 = false ∧ (ported 1 [] {}).portUp 2 = false) ∧
    (∀ n ∈ [4, 6], (ported n [(FAB_PCTRL.ENABLE 2, 1)] {}).portMay 2 = true ∧ (ported n [(FAB_PCTRL.ENABLE 2, 1)] {}).get (FAB_PSTAT.STATE 2) = n) ∧
    ((ported 5 [] {}).get (FAB_PSTAT.STATE 2) ≠ 4 ∧ (ported 5 [] {}).get (FAB_PSTAT.STATE 2) ≠ 6 ∧ (ported 0 [(TRU_STAT.ID_FAULT, 1)] {}).flag TRU_STAT.ID_FAULT = true ∧
      (ported 0 [(FAB_PCTRL.ENABLE 2, 0)] {}).portMay 2 = false ∧ ({ ported 0 [] {} with fuses := { variantS := true } } : Hw).fuses.variantS = true) ∧
    ((ported 0 [(FAB_PCTRL.ENABLE 2, 0)] {}).fuses.variantS = false ∧ (ported 0 [(FAB_PCTRL.ENABLE 2, 0)] {}).flag (FAB_PCTRL.ENABLE 2) = false ∧
      (ported 0 [(FAB_PCTRL.ENABLE 2, 0)] {}).portUp 2 = false ∧ ((ported 0 [] { cageOff := true }).port 2).cageOff = true ∧
      ((ported 0 [] {}).port 2).cageOff = false ∧ (ported 0 [] {}).flag TRU_STAT.ID_FAULT = false ∧ (ported 5 [(FAB_PCTRL.ENABLE 2, 1)] {}).flag (FAB_PCTRL.ENABLE 2) = true) := by
  decide +kernel

/-- Coordinates 0 of rings of sizes 2, 1, 1. -/
def coords : List (Loc × Nat) := [(GID_COORD.VALID, 1), (GID_COORD.SX, 2), (GID_COORD.SY, 1), (GID_COORD.SZ, 1)]

/-- A port in service whose neighbour encrypts. -/
def linked (q : Port) : Hw := ported 3 ([(FAB_PSTAT.ENC 2, 1)] ++ coords) q

/-- A GET_REQ for this node. -/
def req0 : Flit := mkFlit 1 0 1 64 1 5 0 0 0 0 0

/-- The same with its CRC, and a flit of another type on its way out. -/
def req1 : Flit := Flit.withCrc req0 (Flit.span req0)
def out0 : Flit := mkFlit 7 1 0 0 0 5 0 0 0 0 0

theorem witness_Links :
    ((ported 2 [] {}).get (FAB_PSTAT.STATE 2) = 2 ∧ bitAt ((ported 2 [] {}).get TRU_STAT.POLICY) 3 = false ∧ ∃ n ∈ [1, 2], (BitVec.ofNat 64 n).toNat ≠ subjectId) ∧
    ((linked { rx := [req0] }).portUp 2 = true ∧ (linked { rx := [req0] }).flag (FAB_PSTAT.ENC 2) = true ∧ ((linked { rx := [req0] }).port 2).q = [] ∧
      ((linked { rx := [req0] }).port 2).rx = [req0] ∧ (linked { rx := [req0] }).ours req0 ∧ ((linked { rx := [req0] }).port 2).rxFail = 0) ∧
    ((linked { rxFail := 1 }).port 2).rxFail = 1 ∧ ((linked { open' := [out0] }).port 2).open' ≠ [] ∧ ((linked {}).port 2).open' = [] ∧
    (Flit.seq req0 = ((linked {}).port 2).got ∧ Flit.type req0 ≠ 11 ∧ bitAt req0.trl.toNat 24 = false) ∧
    (let h := ported 3 coords {}
     h.portUp 2 = true ∧ h.flag (FAB_PSTAT.ENC 2) = false ∧ (h.port 2).q = [] ∧ Flit.seq req1 = (h.port 2).got ∧ Flit.crcGood req1 = true ∧ bitAt req1.trl.toNat 24 = false ∧
       h.ours req1 ∧ Flit.crcGood req0 = false) ∧
    (2 ^ 40 ≤ ((linked { sent := 2 ^ 40 }).port 2).sent ∧ ((linked { sent := 2 ^ 40 - 1 }).port 2).sent < 2 ^ 40) ∧
    (Flit.seq req1 ≠ ((ported 3 coords { got := 1 }).port 2).got ∧ Flit.seq req0 ≠ ((linked { got := 1 }).port 2).got ∧ (ported 4 [] {}).portUp 2 = false) ∧
    (let h := linked { q := [(6, [out0])], used := [(6, 8)] }
     h.fuses.variantS = false ∧ tget (fun _ => []) (h.port 2).q 6 = [out0] ∧ requestType (Flit.type out0) = false ∧ vcRoom 6 ≤ tget (fun _ => 0) (h.port 2).used 6 ∧
       tget (fun _ => []) (h.port 2).q 0 = [] ∧ ¬ vcRoom 0 ≤ tget (fun _ => 0) (h.port 2).used 0) ∧
    (let h := linked { q := [(0, [req0])], used := [(0, 64)] }
     tget (fun _ => []) (h.port 2).q 0 = [req0] ∧ requestType (Flit.type req0) = true ∧ vcRoom 0 ≤ tget (fun _ => 0) (h.port 2).used 0 ∧ req0.buf = none) ∧
    (let h := (linked { q := [(0, [mkFlit 1 1 0 64 1 5 0 0 0 0 0])], used := [(0, 64)] })
     tget (fun _ => []) (h.port 2).q 0 = [mkFlit 1 1 0 64 1 5 0 0 0 0 0] ∧ Flit.src (mkFlit 1 1 0 64 1 5 0 0 0 0 0) = h.node) :=
  ⟨⟨by decide +kernel, by decide +kernel, by
      by_cases h : 1 = subjectId
      · exact ⟨2, by simp, by rw [← h]; decide⟩
      · exact ⟨1, by simp, fun k => h (by rw [← k]; decide)⟩⟩, by unfold Hw.ours; decide +kernel⟩

/-- A management flit of kind `k` for axis `a` with NEXT `n` and ORIGIN `o`. -/
def mgmt (k a n o : Nat) : Flit := mkFlit 10 0 1 0 255 0 0 0 0 (BitVec.ofNat 2048 (k + a * 2 ^ 8 + 7 * 2 ^ 16 + n * 2 ^ 32 + 3 * 2 ^ 48 + o * 2 ^ 96)) 0

/-- A module to which that flit has been delivered by port 1. -/
def told (k a n o : Nat) (l : List (Loc × Nat)) : Hw := (live l).modFab fun x => { x with inbox := [(1, mgmt k a n o)] }

theorem witness_Enumeration :
    (∃ o ∈ [1, 2], o ≠ subjectId % 2 ^ 64) ∧
    (∀ o ∈ [1, 2], ((told 1 0 63 o []).mgmtIn 1 1 (mgmt 1 0 63 o) ∧ Flit.axis (mgmt 1 0 63 o) = 0 ∧ Flit.next (mgmt 1 0 63 o) = 63 ∧ (told 1 0 63 o []).loaded = false ∧
        (told 1 0 63 o []).hasCoord = false ∧ Flit.origin (mgmt 1 0 63 o) = o) ∧
      ((told 2 2 64 o coords).mgmtIn 2 1 (mgmt 2 2 64 o) ∧ Flit.axis (mgmt 2 2 64 o) = 2 ∧ Flit.origin (mgmt 2 2 64 o) = o ∧ (told 2 2 64 o coords).hasCoord = true)) ∧
    (let h := (told 3 0 0 1 coords).modFab fun x => { x with enum := { origin := true } }
     h.mgmtIn 3 1 (mgmt 3 0 0 1) ∧ h.fab.enum.origin = true ∧ h.fab.enum.reports = [] ∧ 1 < h.ring 0 * Flit.byte (mgmt 3 0 0 1) 6) ∧
    (∀ k ∈ [4, 5], (told k 0 0 1 []).mgmtIn k 1 (mgmt k 0 0 1)) ∧
    (∀ k ∈ [1, 2, 3, 4, 5], let f := { mgmt k 0 0 1 with par := some ⟨true, 0⟩ }
      ((live []).modFab fun x => { x with inbox := [(1, f)] }).mgmtAt k 1 f) ∧
    (let h := (Hrun (live []) (ent 0x12 1 [9])).modFab fun x => { x with enum := { cmd := some 2, origin := true, tokens := [0] } }
     h.fab.enum.origin = true ∧ h.fab.enum.cmd = some 2 ∧ (h.win 2).run = some (ent 0x12 1 [9])) ∧
    ((live [(FAB_ENUM.ESTAT, 1)]).get FAB_ENUM.ESTAT = 1 ∧ (live [(FAB_ENUM.ESTAT, 1)]).fab.enum.origin = false) ∧
    ((live []).fuses.variantS = false ∧ (live []).loaded = false ∧ (live []).get FAB_ENUM.ESTAT ≠ 1 ∧ ((imaged 2 []).loaded = true ∧ (imaged 2 []).fuses.variantS = false)) :=
  ⟨by
      by_cases h : 1 = subjectId % 2 ^ 64
      · exact ⟨2, by simp, by omega⟩
      · exact ⟨1, by simp, h⟩, by unfold Hw.mgmtIn Hw.mgmtAt; decide +kernel⟩

/-! ## The fabric endpoint -/

/-- The module of `mapped`, to whose endpoint port 1 has delivered `f`. -/
def got (f : Flit) (l : List (Loc × Nat)) : Hw := (mapped l).modFab fun x => { x with inbox := [(1, f)] }

/-- Dispatch tables with one expert, number 5, here. -/
def disp0 : DispConf :=
  { routes := [(5, 0, 0)], experts := [{ entry := 0, cap := 1, clusters := [0], ibuf := 0, sreg := 5, preg := 5, done := 1, ready := 2, consumers := 1 }], producers := 1, peers := [], limit := 2 }

/-- A module whose derailleur is active, in that state. -/
def derailing (d : DrlSt) (l : List (Loc × Nat)) : Hw :=
  { (live ([(DRL_STAT.ACTIVE 0, 1)] ++ l)).modImg fun x => { x with conf := some { conf0 with disp := some disp0 } } with drl := d }

/-- A DRL flit of node 1 with one record, for expert 5, in epoch 0; and one with a second record two epochs ahead. -/
def drl0 : Flit := mkFlit 6 0 1 1 1 5 0 0 0 (BitVec.ofNat 2048 (7 + 5 * 2 ^ 32)) 0
def drl2 : Flit := mkFlit 6 0 1 2 1 5 0 0 0 (BitVec.ofNat 2048 (7 + 5 * 2 ^ 32 + 2 ^ 128 * (8 + 5 * 2 ^ 32 + 2 * 2 ^ 54))) 0

/-- A request for one word of device memory, and for the last block of hub SRAM. -/
def word0 (k : Nat) : Flit := mkFlit k 0 1 64 1 5 0 0 3 0 0
def hub0 (k : Nat) : Flit := mkFlit k 0 1 (2 ^ 39 + 0x8000000 - 256) 255 5 0 0 3 0 0

theorem witness_RemoteRequests :
    (∀ k ∈ [1, 3, 5], (got (hub0 k) []).serves k 1 (hub0 k) ∧ Flit.inHub (hub0 k) ∧ (got (hub0 k) []).flag PWR_FW.FW = false ∧ (got (hub0 k) []).kick = false ∧ Flit.etype (hub0 k) ≤ 3) ∧
    (∀ x ∈ [(1, Perm.fr), (3, Perm.fw), (5, Perm.fw)], (got (word0 x.1) []).serves x.1 1 (word0 x.1) ∧ (got (word0 x.1) []).oneAt (word0 x.1) x.2 5 64 ∧
      (got (word0 x.1) []).col 5 = {} ∧ (word0 x.1).rchk = none ∧ (got (word0 x.1) []).readWord 5 2 0 = (.clean, 0) ∧ Flit.etype (word0 x.1) ≤ 3 ∧
      bitAt (Flit.poison (word0 x.1)) 0 = false) ∧
    (∀ n ∈ [0, 1], let f := { word0 1 with rchk := some n }
      (got f []).serves 1 1 f ∧ (got f []).oneAt f .fr 5 64 ∧ (got f []).regionOf (Flit.addr f) = some 0) ∧
    (let f := mkFlit 1 0 1 (2 ^ 29) 1 5 0 0 0 0 0
     (got f []).serves 1 1 f ∧ Flit.words f = [0] ∧ Flit.addr f % 32 = 0 ∧ hubAddr (Flit.addr f) = false ∧ (got f []).mapAccess (Flit.addr f) .fr false = .hole) ∧
    (∀ x ∈ [(2, 0), (64, 4)], let f := mkFlit 5 0 1 x.1 1 5 0 0 x.2 0 0
      (got f []).serves 5 1 f ∧ (3 < Flit.etype f ∨ Flit.addr f % etypeBytes (Flit.etype f) ≠ 0)) := by
  unfold Hw.serves Hw.oldestFlit Flit.inHub Hw.oneAt
  refine ⟨?_, ?_, ?_, ?_, ?_⟩ <;> decide +kernel

/-- Requests of objects and derailleurs, and those that are turned away. -/
theorem witness_RemoteOthers :
    (let f := mkFlit 4 0 1 0 1 5 3 2 0 0 0
     ∀ v ∈ [0, 1], let h := got f [(SYNC_VAL.VOID 3 2, v)]
      h.serves 4 1 f ∧ h.snapping = false ∧ h.kick = false ∧ h.leader (Flit.core f) = 3 ∧ Flit.obj f = 2 ∧ h.flag (SYNC_VAL.VOID 3 2) = (v == 1) ∧ h.get (SYNC_VAL.VALUE 3 2) + 1 < 2 ^ 32 ∧
        (h.modImg fun x => { x with quiesce := some (.snap 0 none false []) }).snapping = true) ∧
    (let h := fun (f : Flit) (d : DrlSt) => (derailing d []).modFab fun x => { x with inbox := [(1, f)] }
     (h drl0 {}).serves 6 1 drl0 ∧ (h drl0 {}).disp = some disp0 ∧ (h drl2 {}).serves 6 1 drl2 ∧ (h drl2 {}).drlMay drl2 = true ∧
       ((Flit.records drl2).any fun r => !(h drl2 {}).mayTake disp0 (64 + 1) r) = true ∧ Flit.src drl2 = 1 ∧
       ((h drl0 { queue := [(65, 9)] }).drl.queue.any fun x => x.1 == 64 + Flit.src drl0) = true ∧ (got drl0 []).disp = none ∧ (got drl0 []).serves 6 1 drl0) ∧
    (∀ k ∈ [1, 3, 4, 5, 6], let f := { mkFlit k 0 1 0 1 5 3 2 0 0 0 with par := some ⟨true, 0⟩ }
      (got f []).oldestFlit k 1 f) ∧
    (∀ k ∈ [3, 4, 5], let f := mkFlit k 0 1 0 1 5 3 2 0 0 0
      (got f [(KICK_STAT.KICK, 1)]).serves k 1 f ∧ (got f [(KICK_STAT.KICK, 1)]).kick = true) ∧
    (∀ k ∈ [1, 3, 4, 5, 6], let f := mkFlit k 0 1 0 1 5 3 2 0 0 0
      (got f [(PWR_FW.FW, 1)]).serves k 1 f ∧ (got f [(PWR_FW.FW, 1)]).flag PWR_FW.FW = true) := by
  unfold Hw.serves Hw.oldestFlit
  refine ⟨?_, ?_, ?_, ?_, ?_⟩ <;> decide +kernel

/-- A derailleur has room for a record that stands alone. -/
theorem witness_RemoteRecords : (derailing {} []).drlRoom disp0 drl0 ∧ (Flit.records drl0).length = 1 := by
  refine ⟨⟨by decide +kernel, fun r hr => ?_⟩, by decide +kernel⟩
  have x := List.all_eq_true.1 (show ((Flit.records drl0).all fun r => (derailing {} []).inOpen r &&
    decide (((derailing {} []).epoch (recEpoch r)).count + (Flit.records drl0).length ≤ disp0.limit)) = true by decide +kernel) r hr
  simpa using x

/-- A descriptor of eight FP32 elements in core SRAM at byte `base`. -/
def line (base : Nat) : BitVec 512 := BitVec.ofNat 512 (1 + 2 + 2 ^ 15 + base * 2 ^ 32 + 2 ^ 128 + 8 * 2 ^ 164 + 2 ^ 320)

/-- A batch of one entry of kind `k`, which core 3 issued, from descriptor 1 to descriptor 2. -/
def batch0 (k : Nat) (done : List Nat) (sig : Nat) : Batch :=
  { core := 3, word := 0, entries := [BitVec.ofNat 128 (k + 2 ^ 8 + 2 * 2 ^ 16)], descs := [(1, line 0), (2, line 64)], done := [done], chunks := [0], sent := [[0]],
    sigs := [sig], got := [], poisoned := 0 }

/-- Channel 31 runs that batch, with transaction 5 under way, and the endpoint has flit `f`. -/
def batching (b : Batch) (x : Txn) (f : Flit) : Hw := ((got f []).modChan 31 fun _ => { run := some b, started := 1 }).modFab fun y => { y with txns := [(5, some x)] }

/-- A RESP with that status. -/
def resp (status : Nat) : Flit := mkFlit 7 0 1 status 0 5 0 0 0 0 0

theorem witness_RemoteAnswers :
    (let f := mkFlit 2 0 1 0 1 5 0 0 0 0 0
     let b := batch0 3 [] 0
     let h := batching b (.get 31 3 0 0 0 0 32) f
     Flit.txid f = 5 ∧ h.serves 2 1 f ∧ h.runsOne 31 b [] ∧ entKind (b.entry 0) = 3 ∧ h.fab.txns = [(5, some (.get 31 b.core b.word 0 0 0 32))] ∧
       (b.copy 0).pieces 0 32 = ([⟨0, 0, 64, 32⟩], none) ∧ 64 % 32 + 32 ≤ 32 ∧ Desc.space (b.copy 0).d = 1) ∧
    (∀ k ∈ [4, 6], (batching (batch0 k [] 0) (.put 31 3 0 0 0) (resp 0)).serves 7 1 (resp 0) ∧ Flit.addr (resp 0) % 256 = 0 ∧
      (batching (batch0 k [] 0) (.put 31 3 0 0 0) (resp 0)).runsOne 31 (batch0 k [] 0) [] ∧ entKind ((batch0 k [] 0).entry 0) = k) ∧
    ((batching (batch0 5 [0] 1) (.sig 31 3 0 0) (resp 0)).serves 7 1 (resp 0) ∧ (batching (batch0 5 [0] 1) (.sig 31 3 0 0) (resp 0)).runsOne 31 (batch0 5 [0] 1) [0] ∧
      (batch0 5 [0] 1).sigs = [1]) ∧
    ((batching (batch0 4 [] 0) (.put 31 3 0 0 0) (resp 6)).serves 7 1 (resp 6) ∧ respCode (Flit.addr (resp 6) % 256) = some 6) ∧
    (∀ n ∈ [0, 0x24, 1], (batching (batch0 4 [] 0) (.drl 7 [9]) (resp n)).serves 7 1 (resp n) ∧ Flit.addr (resp n) % 256 = n) ∧ respCode (Flit.addr (resp 1) % 256) = none ∧
    ((got (resp 0) []).batch 31 = none) := by
  unfold Hw.serves Hw.oldestFlit Hw.runsOne
  refine ⟨?_, ?_, ?_, ?_, ?_, ?_⟩ <;> decide +kernel

/-- A window word without GO: FP32, axis X, contribution at byte 0 of hub SRAM and result at byte 1024, object 2 of core 3, `n` bytes. -/
def collWord (n : Nat) : Nat := 1 + 2 ^ 8 + 2 ^ 9 + n * 2 ^ 32 + 1024 * 2 ^ 104 + 3 * 2 ^ 144 + 2 * 2 ^ 150

/-- A member of a ring of `s` with window 15 so set. -/
def ringMember (s n : Nat) : Hw :=
  let h := live [(GID_COORD.VALID, 1), (GID_COORD.SX, s), (GID_COORD.SY, 1), (GID_COORD.SZ, 1), (SYNC_VAL.VOID 3 2, 0)]
  { h with sram := Memory.writeLE h.sram (winAddr 15) 64 (collWord n) }

/-- A REDUCE flit of window 15 in pass `pass`, of the ring that starts at member `src`. -/
def reduce (src pass : Nat) : Flit := mkFlit 8 0 src 0 255 0 pass 15 0 0 0

/-- The member of a ring of 2, whose window runs, with that flit. -/
def reducing (f : Flit) : Hw :=
  ((ringMember 2 512).setColl 15 (some ⟨(ringMember 2 512).goWord 15, [0, 1], false⟩)).modFab fun x => { x with inbox := [(1, f)] }

theorem witness_Collectives :
    ((live []).coll 15 = none ∧ (live []).hasCoord = false ∧ (ringMember 2 256).coll 15 = none ∧ CollWord.bad ((ringMember 2 256).goWord 15) 2 = true) ∧
    (∀ x ∈ [(1, 256), (2, 512)],
      let h := ringMember x.1 x.2
      let w := h.goWord 15
      h.coll 15 = none ∧ h.hasCoord = true ∧ CollWord.bad w (h.ring (CollWord.axis w)) = false ∧ h.ring (CollWord.axis w) = x.1 ∧ CollWord.len w = x.2 ∧
        (∀ blk, blk < CollWord.len w / 256 → blockInHub 15 (CollWord.cbase w) blk) ∧ blockInHub 15 (CollWord.rbase w) 0 ∧ h.leader (bitsOf w.toNat 144 6) = 3 ∧
        h.flag (SYNC_VAL.VOID 3 (bitsOf w.toNat 150 6)) = false ∧ h.get (SYNC_VAL.VALUE 3 (bitsOf w.toNat 150 6)) + 1 < 2 ^ 32 ∧ h.fuses.variantS = false) ∧
    (∀ x ∈ [(0, 0), (1, 0), (0, 1)], let f := reduce x.1 x.2
      let h := reducing f
      h.nextReduce [] h.fab.inbox = some (1, f) ∧ Flit.obj f = 15 ∧ h.coll 15 = some ⟨(ringMember 2 512).goWord 15, [0, 1], false⟩ ∧ h.filt = {} ∧ f.par = none ∧ Flit.core f = x.2 ∧
        blockInHub 15 (CollWord.cbase ((ringMember 2 512).goWord 15)) 0 ∧ blockInHub 15 (CollWord.rbase ((ringMember 2 512).goWord 15)) 0 ∧
        CollWord.axis ((ringMember 2 512).goWord 15) = 0 ∧ h.ring 0 = 2 ∧ nodeAxis h.node 0 = 0 ∧ nodeAxis (Flit.src f) 0 = x.1 ∧ Flit.addr f = 0) ∧
    (let f := { reduce 0 0 with par := some ⟨true, 0⟩ }
     (reducing f).nextReduce [] (reducing f).fab.inbox = some (1, f) ∧ (reducing f).filt = {}) ∧
    (let h := reducing (reduce 0 0)
     (h.coll 15).isSome = true ∧ bitAt (({ h with sram := Memory.writeLE [] (winAddr 15) 64 (collWord 512 + 2) } : Hw).sread (winAddr 15) 1) 1 = true) := by
  unfold blockInHub
  refine ⟨?_, ?_, ?_, ?_, ?_⟩ <;> decide +kernel

/-! ## Sync objects and barriers -/

/-- Core 3 runs with object 2 at 5, and a state of its own. -/
def syncing (x : CoreSt) (l : List (Loc × Nat)) : Hw := (live ([(CORE_STAT.RUN 3, 1), (SYNC_VAL.VALUE 3 2, 5), (SYNC_VAL.VOID 3 2, 0)] ++ l)).setCore 3 x

theorem witness_SyncObjects :
    ((live []).leader 3 = 3 ∧ (syncing {} []).flag (SYNC_VAL.VOID 3 2) = false ∧ (live []).get (SYNC_VAL.VALUE 3 2) + (0xFFFFFFFF#32).toNat < 2 ^ 32 ∧
      2 ^ 32 ≤ (syncing {} []).get (SYNC_VAL.VALUE 3 2) + (0xFFFFFFFF#32).toNat ∧ (live [(SYNC_VAL.VOID 3 47, 1)]).flag (SYNC_VAL.VOID 3 47) = true) ∧
    ((live [(SYNC_VAL.VOID 3 2, 0)]).flag (CORE_STAT.RUN 3) = false ∧ (live [(SYNC_VAL.VOID 3 2, 0)]).flag (SYNC_VAL.VOID 3 2) = false ∧ (syncing {} []).flag (CORE_STAT.RUN 3) = true) ∧
    (∀ k ∈ [1, 2], ∀ n ∈ [5, 6], let h := syncing { xwait := some ⟨k, 2, n, 0, false, false⟩ } []
      h.groupSize 3 = 1 ∧ h.flag (CORE_STAT.RUN 3) = true ∧ h.flag (CORE_STAT.HOLD 3) = false ∧ h.flag (CORE_STAT.BROKEN 3) = false ∧ h.pllOff = false ∧ (h.core 3).await = none ∧ (h.core 3).swait = none ∧
        h.get (SYNC_VAL.VALUE 3 2) = 5) ∧
    (let h := syncing { xwait := some ⟨2, 2, 3, 0, false, false⟩, swait := some ⟨2, 2, 3, 0, false, false⟩ } []
     (h.core 3).swait = some ⟨2, 2, 3, 0, false, false⟩ ∧ h.get (SYNC_VAL.VALUE 3 2) - 3 < 3) ∧
    (∀ k ∈ [1, 2], ∀ n ∈ [0, 1], let h := (syncing { await := some ⟨k, 2, 5, 0, false, false⟩, ast := .running, apc := 2048, q := [(0, List.replicate n { id := 0, slots := [], word := none, seen := 0 })] }
        [(CORE_IMEM.ACC_BASE 3, 32)]).swrite (sramImem 3 + 2048) 16 2
      h.groupSize 3 = 1 ∧ h.decides 3 = true ∧ (h.core 3).xwait = none ∧ (h.core 3).swait = none ∧ (h.core 3).await = some ⟨k, 2, 5, 0, false, false⟩ ∧
        h.accStops 3 (h.accWord 3 (h.core 3).apc) = (n == 0) ∧ 5 ≤ h.get (SYNC_VAL.VALUE 3 2)) ∧
    (∀ n ∈ [0, 9], let h := syncing { xdef := [⟨1, 2, 1, 0, .atCycle n, none⟩] } []
      (h.core 3).deferred (0 : Fin 2) = [⟨1, 2, 1, 0, .atCycle n, none⟩] ∧ h.flag (CORE_STAT.BROKEN 3) = false ∧ h.flag (CORE_STAT.HOLD 3) = false ∧ h.condMet 3 (.atCycle n) = (n == 0) ∧
        h.flag (SYNC_VAL.VOID 3 2) = false ∧ h.get (SYNC_VAL.VALUE 3 2) + 1 < 2 ^ 32) := by
  refine ⟨?_, ?_, ?_, ?_, ?_, ?_⟩ <;> decide +kernel

/-- Barrier 63 with two participants here, in generation 65535, whose parent is node 1. -/
def barred (l : List (Loc × Nat)) : Hw :=
  mapped ([(BAR_CFG.VALID 63, 1), (BAR_CFG.PARTS 63, 2), (BAR_CFG.PARENT 63, 1), (BAR_STAT.GEN 63, 65535), (CORE_STAT.RUN 3, 1)] ++ l)

/-- A barrier message of node 1 for generation `gen`, a release where `rel` is 1. -/
def barFlit (gen rel : Nat) : Flit := mkFlit 9 0 1 (gen + rel * 2 ^ 16) 0 0 0 63 0 0 0

/-- A module that has that message. -/
def barGot (f : Flit) (l : List (Loc × Nat)) : Hw := (barred l).modFab fun y => { y with inbox := [(1, f)] }

theorem witness_Barriers :
    ((barred []).flag (BAR_CFG.VALID 63) = true ∧ (barred []).get (BAR_STAT.ARRIVED 63) + 1 < (barred []).get (BAR_CFG.PARTS 63) ∧
      (let h := barred [(BAR_STAT.ARRIVED 63, 1), (BAR_CFG.HOME 63, 1)]
       h.flag (BAR_CFG.VALID 63) = true ∧ h.get (BAR_STAT.ARRIVED 63) + 1 = h.get (BAR_CFG.PARTS 63) ∧ h.flag (BAR_CFG.HOME 63) = true ∧
      h.get (BAR_CFG.CHILDREN 63) = 0 ∧ h.get (BAR_TREE.CHILD 63) = 0 ∧ h.get (BAR_TREE.NEXT_CHILD 63) = 0 ∧ h.get (BAR_STAT.NEXT 63) = 0) ∧
      (live []).flag (BAR_CFG.VALID 63) = false) ∧
    (∀ x ∈ [(65535, 0), (0, 0), (1, 0), (65535, 1), (1, 1)], let f := barFlit x.1 x.2
      let h := barGot f [(BAR_CFG.CHILDREN 63, 2)]
      h.serves 9 1 f ∧ Flit.obj f = 63 ∧ Flit.addr f % 2 ^ 16 = x.1 ∧ bitAt (Flit.addr f) 16 = (x.2 == 1) ∧ h.snapping = false ∧ h.flag (BAR_CFG.VALID 63) = true ∧
        h.get (BAR_TREE.CHILD 63) + 1 < h.get (BAR_CFG.CHILDREN 63) ∧ h.get (BAR_TREE.NEXT_CHILD 63) < 255 ∧ h.flag (BAR_CFG.HOME 63) = false ∧
        Flit.src f = h.get (BAR_CFG.PARENT 63) ∧ 0 < h.get (BAR_CFG.PARTS 63) ∧ h.get (BAR_STAT.NEXT 63) = 0 ∧ h.get (BAR_STAT.GEN 63) = 65535 ∧ ∀ k ∈ List.range 64, h.groupSize k = 1) ∧
    (let f := barFlit 65535 1
     (barGot f [(BAR_CFG.HOME 63, 1)]).flag (BAR_CFG.HOME 63) = true ∧ Flit.src f ≠ (barGot f [(BAR_CFG.PARENT 63, 2)]).get (BAR_CFG.PARENT 63) ∧
       (barGot f [(BAR_CFG.VALID 63, 0)]).flag (BAR_CFG.VALID 63) = false ∧
       ((barGot f []).modImg fun x => { x with quiesce := some (.snap 0 none false []) }).snapping = true ∧
       (let h := (barGot f []).modCore 3 fun x => { x with xwait := some ⟨3, 63, 0, 0, false, false⟩, gens := [(63, some 65535)] }
        h.serves 9 1 f ∧ (h.core 3).xwait = some ⟨3, 63, 0, 0, false, false⟩ ∧ tget (fun _ => none) (h.core 3).gens 63 = some 65535 ∧ h.decides 3 = true)) ∧
    (let h := (ringMember 2 256).modBar 63 fun b => { b with held := [(true, 3, 1)] }
     (h.bar 63).held = [(true, 3, 1)] ∧ h.reachable 1 = false ∧ (h.put (FAB_PSTAT.STATE 0) 3).reachable 1 = true) ∧
    (let h := syncing { xwait := some ⟨1, 2, 9, 0, false, false⟩ } [(SYNC_CTRL.WD_EN 3, 1)]
     h.streamOn 3 = true ∧ h.flag (SYNC_CTRL.WD_EN 3) = true ∧ h.timedWait 3 0 = some 0 ∧ h.leader 3 = 3 ∧ h.flag (CORE_STAT.BROKEN 3) = false ∧ (h.core 3).hold = none ∧ (h.core 3).imgHold = false ∧
       (h.core 3).portWait = false ∧ h.flag (CORE_STAT.RUN 3) = true) ∧
    (let h := syncing { portWait := true } []
     h.flag (CORE_STAT.RUN (h.leader 3)) = true ∧ h.flag (CORE_STAT.BROKEN (h.leader 3)) = false ∧ (h.core 3).portWait = true) ∧
    (∀ x ∈ [(some ⟨.arrival, []⟩, false), (none, true)], let h := syncing { hold := x.1, imgHold := x.2 } []
     (h.core 3).portWait = false ∧ ((h.core (h.leader 3)).hold.isSome = true ∨ (h.core (h.leader 3)).imgHold = true) ∧ h.flag (CORE_STAT.RUN (h.leader 3)) = true) ∧
    ((batching (batch0 4 [] 0) (.put 31 3 0 0 0) (resp 0)).batch 31 = some (batch0 4 [] 0) ∧ (batch0 4 [] 0).core = 3) := by
  unfold Hw.serves Hw.oldestFlit
  refine ⟨?_, ?_, ?_, ?_, ?_, ?_, ?_, ?_⟩ <;> decide +kernel

/-! ## The derailleur, channels and host memory -/

/-- A record with that token and expert, in epoch 0. -/
def rcd (token expert : Nat) : DRec := BitVec.ofNat 129 (token + expert * 2 ^ 32)

/-- The expert of `disp0`. -/
def exp0 : ExpConf := { entry := 0, cap := 1, clusters := [0], ibuf := 0, sreg := 5, preg := 5, done := 1, ready := 2, consumers := 1 }

/-- Objects 1 and 2 of cluster 0's cores are not void. -/
def objects : List (Loc × Nat) := (List.range 4).flatMap fun c => [(SYNC_VAL.VOID c 1, 0), (SYNC_VAL.VOID c 2, 0)]

/-- A derailleur whose epoch 0 has one record of core 3 for its expert, and the end marker of core 3 waiting. -/
def ending : Hw := derailing { queue := [(3, rcd 1 0xFFFF)], epochs := [(0, { exps := [(0, { recs := [rcd 7 5] })], srcs := [(3, { got := 1 })], count := 1 })] } objects

/-- A derailleur whose epoch 0 is closed with three rounds, of which two are filled. -/
def refilling : Hw := derailing { epochs := [(0, { closed := true, exps := [(0, { recs := [rcd 7 5, rcd 8 5, rcd 9 5], total := 3, rounds := 2, consumed := 1 })] })] } objects

/-- A table whose entries are all `v` reads `v` at each of its keys. -/
theorem tget_all {α : Type} (d : Nat → α) (v : α) (l : Tab α) (k : Nat) (h : ∀ p ∈ l, p.2 = v) (m : k ∈ l.map (·.1)) : tget d l k = v := by
  induction l with
  | nil => simp at m
  | cons x l ih =>
    obtain ⟨j, w⟩ := x
    by_cases e : j = k
    · have hw : w = v := h (j, w) List.mem_cons_self
      simp [tget, e, hw]
    · have n : k ∈ l.map (·.1) := by
        rcases List.mem_cons.1 m with m | m
        · exact absurd m.symm e
        · exact m
      simp only [tget]
      rw [if_neg fun z => e z.symm]
      exact ih (fun p q => h p (List.mem_cons_of_mem _ q)) n

/-- The first `n` numbers of hub 0's tracker, in use. -/
@[irreducible] def tracker (n : Nat) : Tab (Option Txn) := (List.range n).map fun i => (i, some (.drl 1 []))

/-- A ring member whose hub 0 tracker is full, with a record held for node 1. -/
def crowded : Hw :=
  { (ringMember 2 256).put (FAB_PSTAT.STATE 0) 3 with drl := { held := [(1, [rcd 7 5])] } }.modFab fun x => { x with txns := tracker 2048 }

/-- A tracker all of whose numbers are in use has no free entry. -/
theorem freeTx_none (h : Hw) (x : Txn) (v : ∀ p ∈ h.fab.txns, p.2 = some x) (k : ∀ i, i < 2048 → i ∈ h.fab.txns.map (·.1)) : h.freeTx 0 = none := by
  rw [Hw.freeTx, List.find?_eq_none]
  intro t m
  obtain ⟨i, _, rfl⟩ := List.mem_map.1 m
  rw [tget_all (fun _ => none) (some x) _ _ v (k _ (by omega))]
  simp

theorem tracker_all (n : Nat) : ∀ p ∈ tracker n, p.2 = some (.drl 1 []) := by
  intro p q
  rw [tracker] at q
  obtain ⟨_, _, rfl⟩ := List.mem_map.1 q
  rfl

theorem tracker_keys (n i : Nat) (hi : i < n) : i ∈ (tracker n).map (·.1) := by
  rw [tracker, List.map_map]
  exact List.mem_map.2 ⟨i, List.mem_range.2 hi, rfl⟩

theorem crowded_full : crowded.freeTx 0 = none :=
  freeTx_none crowded (.drl 1 []) (tracker_all 2048) (tracker_keys 2048)

theorem witness_Derailleur :
    (∀ e ∈ [5, 6], (derailing { queue := [(3, rcd 7 e)] } []).loneRecord disp0 3 (rcd 7 e) ∧ recExpert (rcd 7 e) = e ∧
      (∀ k n, (((derailing { queue := [(3, rcd 7 e)] } []).epoch k).src n).marker = none) ∧
      ((derailing { queue := [(3, rcd 7 e)] } []).epoch 0).closed = false) ∧
    (0 < disp0.producers ∧ (derailing {} []).node = 0 ∧ disp0.routes.find? (fun y => y.1 == 5) = some (5, 0, 0) ∧ expertOf disp0 0 = some exp0 ∧
      disp0.routes.find? (fun y => y.1 == 6) = none ∧
      (let h := derailing { queue := [(3, rcd 7 5)], epochs := [(0, { count := 2 })] } []
       h.loneRecord disp0 3 (rcd 7 5) ∧ disp0.limit ≤ (h.epoch 0).count)) ∧
    (ending.loneRecord disp0 3 (rcd 1 0xFFFF) ∧ recExpert (rcd 1 0xFFFF) = 0xFFFF ∧ recEpoch (rcd 1 0xFFFF) = ending.oldest ∧
      ((ending.epoch ending.oldest).src 3).marker = none ∧ ((ending.epoch ending.oldest).src 3).got = recToken (rcd 1 0xFFFF) ∧ disp0.experts = [exp0] ∧
      (∀ c ∈ List.range 64, ending.groupSize c = 1) ∧ ((ending.epoch ending.oldest).exp 0).recs.length = 1 ∧
      ∀ c ∈ clusterCores 0, ending.room c 2 1 ∧ ending.room c 1 1) ∧
    (refilling.disp = some disp0 ∧ (refilling.epoch refilling.oldest).closed = true ∧
      (let y := (refilling.epoch refilling.oldest).exp 0
       y.consumed < y.total * exp0.consumers ∧ (y.consumed + 1) / exp0.consumers < y.total ∧ y.rounds < y.total ∧ y.rounds < y.doneRounds exp0 + 2) ∧
      (∀ c ∈ List.range 64, refilling.groupSize c = 1) ∧ ∀ c ∈ clusterCores 0, refilling.room c 2 1) ∧
    (let h := { ringMember 2 256 with drl := { held := [(1, [rcd 7 5])] } }
     (tget (fun _ => []) h.drl.held 1).length = 1 ∧ h.reachable 1 = false ∧ (h.put (FAB_PSTAT.STATE 0) 3).reachable 1 = true ∧ (h.put (FAB_PSTAT.STATE 0) 3).freeTx 0 = some 0) ∧
    (∀ x ∈ [(rcd 1 0xFFFF, 2), (BitVec.ofNat 129 (1 + 0xFFFF * 2 ^ 32 + 3 * 2 ^ 54), 0)],
      let h := derailing { queue := [(3, x.1)], epochs := [(0, { closed := true, srcs := [(3, { marker := some x.2 })] })] } []
      h.disp = some disp0 ∧ recExpert x.1 = 0xFFFF ∧ (recEpoch x.1 = (h.oldest + 3) % 4 ∨
        (recEpoch x.1 = h.oldest ∧ (h.epoch h.oldest).closed = true ∧ ((h.epoch h.oldest).src 3).marker.isSome = true))) ∧
    ((tget (fun _ => []) crowded.drl.held 1).length = 1 ∧ crowded.reachable 1 = true ∧ crowded.freeTx 0 = none) := by
  refine ⟨?_, ?_, ?_, ?_, ?_, ?_, ⟨by decide +kernel, by decide +kernel, crowded_full⟩⟩
  · intro e he
    simp only [List.mem_cons, List.not_mem_nil, or_false] at he
    rcases he with rfl | rfl <;> exact ⟨by unfold Hw.loneRecord; decide +kernel, by decide +kernel, fun _ _ => rfl, rfl⟩
  all_goals (try unfold Hw.loneRecord); (try unfold Hw.room); decide +kernel

/-- Core 3's SRAM holds a COPY entry from descriptor 1 to descriptor 2, and channel 31 has the batch waiting. -/
def batched : Hw :=
  (((mapped []).swrite (sramCore 3) 16 (1 + 2 ^ 8 + 2 * 2 ^ 16)).swrite (sramScalar 3 + 0xC040) 64 (line 0).toNat |>.swrite (sramScalar 3 + 0xC080) 64 (line 64).toNat).modChan 31
    fun x => { x with next := [(3, 0, 1, 0)] }

theorem witness_DmaBatches :
    (let e := BitVec.ofNat 128 (batched.sread (sramCore 3) 16)
     batched.batch 31 = none ∧ (batched.chan 31).next = [(3, 0, 1, 0)] ∧ entBad e = false ∧ batched.flag (CORE_STAT.COMPAT 3) = false ∧
       batched.descOf 3 (entSrc e) = line 0 ∧ batched.descOf 3 (entDst e) = line 64 ∧ entKind e = 1) ∧
    (Desc.check (line 0) (fun _ => true) false = 0 ∧ Desc.check (line 64) (fun _ => true) true = 0 ∧
      (let x : Copy := ⟨line 0, line 64, false, entTh (batch0 1 [] 0 |>.entry 0), entTw (batch0 1 [] 0 |>.entry 0)⟩
       x.refuse = none ∧ Desc.space x.s ≠ 0 ∧ Desc.space x.d ≠ 0 ∧ x.overlap = false ∧ 0 < x.bytes)) ∧
    ([0#128].any entBad = true) ∧
    (let b := batch0 1 [] 0
     let h := batching b (.put 31 3 0 0 0) (resp 0)
     h.runsOne 31 b [] ∧ b.olds = [] ∧ entKind (b.entry 0) = 1 ∧ Desc.space (b.copy 0).s = 1 ∧ Desc.space (b.copy 0).d = 1 ∧
       b.blockPieces 0 0 = ([⟨0, 0, 64, 32⟩], none)) := by
  unfold Hw.runsOne
  refine ⟨?_, ?_, ?_, ?_⟩ <;> decide +kernel

/-- A module with one host-memory request, in flight or waiting for a translation or a page of page 9. -/
def hostIo (d : IoDest) (write : Bool) (x : HostSt) : Hw :=
  (live []).modHost fun _ => { x with link := true, io := x.io.map fun r => { r with dest := d, write := write }, ioWait := x.ioWait.map fun r => { r with dest := d, write := write } }

/-- A read of 32 bytes of page 9. -/
def io0 : IoReq := ⟨7, 9 * 4096, 32, false, [], .drain 3 0, false⟩

theorem witness_HostIo :
    (∀ x ∈ [(IoDest.fetch 3 0 0 [⟨0, 0, 256⟩], false), (IoDest.index 3 0, false), (IoDest.drain 3 0, true), (IoDest.gone, true)],
      ((hostIo x.1 x.2 { io := [io0] }).host.io.find? fun y => y.id == 7) = some ⟨7, 9 * 4096, 32, x.2, [], x.1, false⟩ ∧ ((hostIo x.1 x.2 { io := [io0] }).core 3).armed = [] ∧ (hostIo x.1 x.2 { io := [io0] }).host.inv = [] ∧
        (List.replicate 32 (0 : Byte)).length = io0.n) ∧
    (∀ wr ∈ [true, false], let h := hostIo (.drain 3 0) wr { asked := [9], ioWait := [io0] }
      9 ∈ h.host.asked ∧ h.host.ioWait = [⟨7, 9 * 4096, 32, wr, [], .drain 3 0, false⟩] ∧ io0.addr / 4096 = 9 ∧ h.host.paging.length < min 512 h.host.prg ∧ 9 ∉ h.host.paging ∧
        ∀ k ∈ List.range 32, h.batch k = none) ∧
    (let h := hostIo (.drain 3 0) true { paging := [9], ioWait := [io0] }
     9 ∈ h.host.paging ∧ h.host.asked = [] ∧ h.host.ioWait = [io0 |> fun r => { r with write := true }] ∧ ∀ k ∈ List.range 32, h.batch k = none) ∧
    (live []).host.inv = [] ∧
    ((hostIo (.drain 3 0) true { io := [io0] }).host.io.any fun r => decide (9 ≤ r.addr / 4096) && decide (r.addr / 4096 < 9 + 1)) = true := by decide +kernel

/-! ## The access stream -/

/-- Core 3 runs its access stream at word `w`, with descriptors 1 and 2 and record 1 in place, and a state of its own. -/
def access (w : Nat) (rec : Nat) (x : CoreSt) : Hw :=
  ((((live [(CORE_STAT.RUN 3, 1), (CORE_IMEM.ACC_BASE 3, 32), (SYNC_VAL.VALUE 3 2, 5), (SYNC_VAL.VOID 3 2, 0), (CORE_PARAM.VALUE 3 6, 64), (CORE_PARAM.VALUE 3 7, 65)]).swrite
    (sramImem 3 + 2048) 16 w).swrite (sramScalar 3 + 0xC040) 64 (line 0).toNat).swrite (sramScalar 3 + 0x7E40) 64 rec).setCore 3 { x with ast := .running, apc := 2048 }

/-- A record that walks dimension 0 of eight elements in steps of one. -/
def walk8 : Nat := 1 + 2 ^ 28 + 8 * 2 ^ 32 + 2 ^ 61

/-- FETCH or DRAIN (`op`) of queue `q` with descriptor 1 and record 1. -/
def armWord (op q : Nat) : Nat := op + q * 2 ^ 64 + 2 ^ 67 + 2 ^ 83

/-- An entry of a queue, complete but for a late first word where `late`. -/
def qent (late : Bool) : QEnt := { id := 0, slots := (List.range 8).map fun j => { late := bnat (late && j == 0), data := 9 }, word := none, seen := 0 }

/-- The armed word of queue 4 of core 3. -/
def armed0 (drain : Bool) (rec : Nat) : Armed :=
  { id := 0, pc := 2048, tag := 0, drain := drain, queue := 4, handle := 1, ihandle := 0, desc := line 0, rcd := BitVec.ofNat 512 rec, idesc := 0, i2desc := 0, sdesc := 0, base := 0,
    start := [0, 0, 0, 0, 0, 0], cnt := [0, 0, 0, 0, 0, 0], xpose := false, th := 1, tw := 1, carry := none, mask := none, done := false, acks := 0, paged := false }

/-- The word that stands, as Bools. -/
def standsB (h : Hw) (op w : Nat) : Bool :=
  h.streamOn 3 && (h.core 3).ast == .running && !h.flag (CORE_BRK.ACNT_EN 3) && decide (accBase h 3 ≤ (h.core 3).apc) && decide ((h.core 3).apc + 16 ≤ 0x20000) &&
    h.accWord 3 (h.core 3).apc == w && w % 256 == op && !accBad w && (h.core 3).await == none

/-- And nothing stops it. -/
def atB (h : Hw) (op w : Nat) : Bool := standsB h op w && !h.accStops 3 w && lendOf (h.core 3).aloops (h.core 3).apc == 0 && wLend w == 0

theorem stands_of {h : Hw} {op w : Nat} (x : standsB h op w = true) : h.accessStands 3 op w := by
  simp only [standsB, Bool.and_eq_true, beq_iff_eq, decide_eq_true_eq, Bool.not_eq_true'] at x
  obtain ⟨⟨⟨⟨⟨⟨⟨⟨a, b⟩, c⟩, d⟩, e⟩, f⟩, g⟩, i⟩, k⟩ := x
  exact ⟨a, b, c, d, e, f, g, i, k⟩

theorem at_of {h : Hw} {op w : Nat} (x : atB h op w = true) : h.accessAt 3 op w := by
  simp only [atB, Bool.and_eq_true, beq_iff_eq, Bool.not_eq_true'] at x
  exact ⟨stands_of x.1.1.1, x.1.1.2, x.1.2, x.2⟩

theorem ready_of {h : Hw} {op w : Nat} (x : (atB h op w && wKind w == 0) = true) : h.accessReady 3 op w := by
  simp only [Bool.and_eq_true, beq_iff_eq] at x
  exact ⟨at_of x.1, x.2⟩

/-- A check that decides `Hw.onlyTurn`. -/
def onlyTurnB (h : Hw) (c q : Nat) (a : Armed) : Bool :=
  h.streamOn c && !(h.core c).portWait && (h.core c).port == [] && (h.core c).turn q == [a] && a.queue == q && (h.core c).armedOf a.id == some a &&
    ((h.core c).armed.filter fun b => ((h.core c).turn b.queue).any fun x => x.id == b.id) == [a]

theorem onlyTurn_of {h : Hw} {c q : Nat} {a : Armed} (x : onlyTurnB h c q a = true) : h.onlyTurn c q a := by
  simp only [onlyTurnB, Bool.and_eq_true, beq_iff_eq, Bool.not_eq_true'] at x
  exact ⟨x.1.1.1.1.1.1, x.1.1.1.1.1.2, x.1.1.1.1.2, x.1.1.1.2, x.1.1.2, x.1.2, x.2⟩

/-- Core 3 drains a tile of 16 records to a derailleur that `d` stands for. -/
def dispatching (e : QEnt) (d : DrlSt) : Hw :=
  let h := access 8 0 { armed := [armed0 true (walk8 + 2 ^ 9)], q := [(4, [e])] }
  { (h.put (DRL_STAT.ACTIVE 0) 1).modImg fun x => { x with conf := some { conf0 with disp := some { disp0 with limit := 16 } } } with drl := d }

/-- The records of the tile that `qent` holds. -/
def recs0 : List DRec :=
  let tile := (List.range 8).foldl (fun v j => v + ((qent false).slots.getD j {}).data.toNat * 2 ^ (256 * j)) 0
  (List.range 16).map fun i => recAt tile i (((qent false).slots.map (·.mark)).getD (i / 2) false)

/-- Core 3 drains or fetches the tile of eight elements at byte 0 of its SRAM; no firmware, so that states can be compared. -/
def tiling (drain : Bool) : Hw := { access 8 0 { armed := [armed0 drain walk8], q := [(4, [qent false])], entId := 1 } with flash := { slotA := [] } }

theorem witness_Tiles :
    (∀ drain ∈ [true, false], ((tiling drain).sramFaults []).onlyTurn 3 4 (armed0 drain walk8)) ∧
    (∀ drain ∈ [true, false], let h := ((tiling drain).sramFaults []).portGo 3
      let g := h.nextTile 3 (armed0 drain walk8)
      g.stat = .closed ∧ 0 < g.bits ∧ g.h = h ∧ g.a.id = 0 ∧ (∀ b ∈ g.a :: (h.core 3).armed, b.kept = []) ∧
        (groupParts g.parts).map (fun x => (x.word, x.loc, x.places, x.share)) = [(0, .sram (sramCore 3), (List.range 8).map (fun i => ⟨32 * i, 32 * i, 32⟩), false)] ∧
        ((h.core 3).queue 4) = [qent false] ∧ (qent false).complete = true ∧ (qent false).late = false ∧ (qent false).seen = 0 ∧ (h.core 3).entId = 1 ∧ Rcd.dest (BitVec.ofNat 512 walk8) ≠ 1 ∧
        Desc.space (line 0) ≠ 4) := by
  refine ⟨?_, by decide +kernel⟩
  intro d hd; simp only [List.mem_cons, List.not_mem_nil, or_false] at hd
  rcases hd with rfl | rfl <;> exact onlyTurn_of (by decide +kernel)

theorem witness_Dispatch :
    (∀ d ∈ [({} : DrlSt), { queue := [(3, 9)] }, { epochs := [(0, { count := 16 })] }], ((dispatching (qent false) d).sramFaults []).onlyTurn 3 4 (armed0 true (walk8 + 2 ^ 9)) ∧
      ((((dispatching (qent false) d).sramFaults []).portGo 3).core 3).queue 4 = [qent false]) ∧
    (let h := fun d => ((dispatching (qent false) d).sramFaults []).portGo 3
     (h {}).disp = some { disp0 with limit := 16 } ∧ Rcd.dest (BitVec.ofNat 512 (walk8 + 2 ^ 9)) = 1 ∧ (qent false).late = false ∧
      (qent false).complete = true ∧ (qent false).seen = 0 ∧ (recs0.any fun r => (h {}).mayTake { disp0 with limit := 16 } 3 r) = true ∧
      (recs0.all fun r => !(h { epochs := [(0, { full := true }), (1, { full := true })] }).mayTake { disp0 with limit := 16 } 3 r) = true) ∧
    (((dispatching (qent true) {}).sramFaults []).onlyTurn 3 4 (armed0 true (walk8 + 2 ^ 9)) ∧ (qent true).late = true ∧ (qent true).seen = 0) := by
  refine ⟨?_, by decide +kernel, onlyTurn_of (by decide +kernel), by decide +kernel⟩
  intro d hd; simp only [List.mem_cons, List.not_mem_nil, or_false] at hd
  rcases hd with rfl | rfl | rfl <;> exact ⟨onlyTurn_of (by decide +kernel), by decide +kernel⟩

theorem witness_AccessStream :
    (∀ d ∈ [(1, walk8, 0), (2, walk8, 0), (1, 0, 3), (2, 0, 3)], let h := access (armWord d.1 4) d.2.1 { q := [(4, [qent false])] }
      h.accessReady 3 d.1 (armWord d.1 4) ∧ sKind (armWord d.1 4) = 0 ∧ (h.arm 3 2048 (armWord d.1 4)).1 = d.2.2) ∧
    (∀ r ∈ [6, 7], let w := 4 + 31 * 2 ^ 64 + r * 2 ^ 75
      (access w 0 {}).accessReady 3 4 w ∧ (access w 0 {}).leader 3 = 3 ∧ (access w 0 {}).pLatch 3 (bitsOf w 75 5) % 64 = r - 6 ∧ bitsOf w 69 6 = 0) ∧
    ((access 6 0 {}).accessReady 3 6 6 ∧ (access 8 0 {}).accessReady 3 8 8 ∧ sKind 8 = 0 ∧ (access 8 0 {}).groupSize 3 = 1 ∧ ((access 8 0 {}).core 3).sst = .stopped ∧
      ({ (access 8 0 {}).core 3 with ast := .ended } : CoreSt).spent = true ∧ ((access 8 0 { sst := .waiting }).core ((access 8 0 { sst := .waiting }).leader 3)).sst ≠ .stopped) ∧
    (∀ r ∈ [0, 6], let w := 7 + 130 * 2 ^ 64 + r * 2 ^ 77
      (access w 0 {}).accessReady 3 7 w ∧ (access w 0 {}).pLatch 3 (bitsOf w 77 5) < 2 ^ 24 ∧ 2048 < bitsOf w 64 13 * 16 ∧ bitsOf w 64 13 * 16 < 0x20000) ∧
    (∀ f ∈ [0, 1], let w := 6 + 2 ^ 37 + 2 * 2 ^ 39 + f * 2 ^ 53
      let h := access w 0 { wordId := 1, armed := [armed0 true walk8] }
      h.accessReady 3 6 w ∧ sKind w = 1 ∧ wFence w = (f == 1) ∧ (h.core 3).adef = [] ∧ h.room 3 (sIdx w) (sAmt w) ∧ (h.core 3).beforeDone (h.core 3).wordId false = false) ∧
    (∀ n ∈ [5, 6], let w := 6 + 2 ^ 18 + 2 * 2 ^ 20 + n * 2 ^ 27
      (access w 0 {}).accessAt 3 6 w ∧ sKind w = 0 ∧ wKind w = 1 ∧ wSrc w = false ∧ wAmt w = n ∧ wIdx w = 2 ∧ (access w 0 {}).groupSize 3 = 1 ∧
        (access w 0 {}).flag (SYNC_VAL.VOID 3 2) = false ∧ (access w 0 {}).flag (SYNC_VAL.ABORTED 3 2) = false ∧ (access w 0 {}).get (SYNC_VAL.VALUE 3 2) = 5) ∧
    (∀ x ∈ [(1, 1, { q := [(0, List.replicate 64 (qent false))] }), (2, 2 + 4 * 2 ^ 64, {}), (4, 4 + 31 * 2 ^ 64, {}),
        (6, 6 + 2 ^ 37 + 2 * 2 ^ 39, ({ adef := List.replicate 16 ⟨1, 2, 1, 0, .atCycle 9, none⟩ } : CoreSt))], let w := x.2.1 + 2 * 2 ^ 18 + 2 * 2 ^ 20 + 2 ^ 27
      let h := (access w 0 x.2.2).modChan 31 fun y => { y with next := [(3, 0, 1, 0), (3, 1, 1, 0)] }
      h.accessStands 3 x.1 w ∧ h.accStops 3 w = true ∧ wKind w = 2 ∧ wSrc w = false ∧ h.groupSize 3 = 1 ∧ wIdx w = 2 ∧ h.flag (SYNC_VAL.VOID 3 2) = false ∧
        h.flag (SYNC_VAL.ABORTED 3 2) = false ∧ (h.core 3).xwait = none ∧ (h.core 3).swait = none) ∧
    (let h := ((live [(MAP_PTROOT.PTV, 1), (MAP_PTROOT.ROOT, (dpaEnd - 2 ^ 21) / 4096)]).rsvWrite (dpaEnd - 2 ^ 21) (natLE 8 (1 + dpaEnd - 2 ^ 20))).rsvWrite (dpaEnd - 2 ^ 20) (natLE 8 (1 + 3 * 2 ^ 21))
     tget (fun _ => none) (h.core 3).tlb 0 = none ∧ h.flag MAP_PTROOT.PTV = true ∧ (h.walk 0 (reqArg 2 3 0)).1 ≠ 0) := by
  refine ⟨?_, ?_, ⟨ready_of (by decide +kernel), ready_of (by decide +kernel), by decide +kernel⟩, ?_, ?_, ?_, ?_, by decide +kernel⟩
  · intro d hd; simp only [List.mem_cons, List.not_mem_nil, or_false] at hd
    rcases hd with rfl | rfl | rfl | rfl <;> exact ⟨ready_of (by decide +kernel), by decide +kernel⟩
  · intro d hd; simp only [List.mem_cons, List.not_mem_nil, or_false] at hd
    rcases hd with rfl | rfl <;> exact ⟨ready_of (by decide +kernel), by decide +kernel⟩
  · intro d hd; simp only [List.mem_cons, List.not_mem_nil, or_false] at hd
    rcases hd with rfl | rfl <;> exact ⟨ready_of (by decide +kernel), by decide +kernel⟩
  · intro d hd; simp only [List.mem_cons, List.not_mem_nil, or_false] at hd
    rcases hd with rfl | rfl <;> exact ⟨ready_of (by decide +kernel), by unfold Hw.room; decide +kernel⟩
  · intro d hd; simp only [List.mem_cons, List.not_mem_nil, or_false] at hd
    rcases hd with rfl | rfl <;> exact ⟨at_of (by decide +kernel), by decide +kernel⟩
  · intro d hd; simp only [List.mem_cons, List.not_mem_nil, or_false] at hd
    rcases hd with rfl | rfl | rfl | rfl <;> exact ⟨stands_of (by decide +kernel), by decide +kernel⟩


/-! ## The execute stream -/

/-- MXFP4 activations of 32 tokens of 32 elements in the engine buffer, and weights of that shape. -/
def mxfp4 : BitVec 512 := BitVec.ofNat 512 (1 + 2 * 2 + 10 * 2 ^ 4 + 2 ^ 11 + 4 * 2 ^ 15 + 16 * 2 ^ 128 + 32 * 2 ^ 164 + 32 * 2 ^ 190 + 2 ^ 320 + 32 * 2 ^ 332)

/-- Core 3 stands at the long word with header `hdr` and those slot words, with descriptors 1 and 2 in place, and a state of its own. -/
def exec3 (hdr : Nat) (slots : List Nat) (x : CoreSt) (l : List (Loc × Nat)) : Hw :=
  let h := live ([(CORE_STAT.RUN 3, 1), (CORE_IMEM.EXEC_BASE 3, 16), (CORE_IMEM.ACC_BASE 3, 32), (SYNC_VAL.VALUE 3 2, 5), (SYNC_VAL.VOID 3 2, 0), (CORE_PARAM.VALUE 3 6, 64)] ++ l)
  let h := ((h.swrite (sramImem 3 + 1024) 8 hdr).swrite (sramScalar 3 + 0xC040) 64 (line 0).toNat).swrite (sramScalar 3 + 0xC080) 64 mxfp4.toNat
  let h := (List.range slots.length).foldl (fun h i => h.swrite (sramImem 3 + 1032 + 4 * i) 4 (slots.getD i 0)) h
  (h.setCore 3 { x with xst := .running, xpc := 1024 }).setEng 24 { tcfg := some ⟨mxfp4, mxfp4, 32, 0, 2⟩ }

/-- The long word at core 3's pc. -/
def word3 (h : Hw) : XWord := h.longWord 3 (h.core 3).xpc

def execAtB (h : Hw) (w : XWord) : Bool :=
  h.groupSize 3 == 1 && h.clocked 3 && (h.core 3).xst == .running && !h.flag (CORE_BRK.XCNT_EN 3) && !h.flag (CORE_BRK.TAG_EN 3) && (h.core 3).lands == [] &&
    !(h.core 3).stepping && (h.core 3).legacy == none && (h.core 3).xpc % 4 == 0 && decide (execBase h 3 ≤ (h.core 3).xpc) && decide ((h.core 3).xpc + w.len ≤ execEnd h 3) &&
    h.longWord 3 (h.core 3).xpc == w && (h.encodingFault 3 w).isNone

def execReadyB (h : Hw) (w : XWord) : Bool :=
  execAtB h w && (h.core 3).xwait == none && wKind w.hdr == 0 && sKind w.hdr == 0 && (h.core 3).xloops == [] && (h.wordFault 3 (h.core 3).xpc w).isNone &&
    (h.holdOf 3 w).isNone && (h.packetFault 3 w).isNone

theorem execAt_of {h : Hw} {w : XWord} (x : execAtB h w = true) : h.execAt 3 w := by
  simp only [execAtB, Bool.and_eq_true, beq_iff_eq, decide_eq_true_eq, Bool.not_eq_true', Option.isNone_iff_eq_none] at x
  obtain ⟨⟨⟨⟨⟨⟨⟨⟨⟨⟨⟨⟨a, b⟩, c⟩, d⟩, e⟩, f⟩, g⟩, i⟩, j⟩, k⟩, l⟩, m⟩, n⟩ := x
  exact ⟨a, b, c, d, e, f, g, i, j, k, l, m, n⟩

theorem execReady_of {h : Hw} {w : XWord} (x : execReadyB h w = true) : h.execReady 3 w := by
  simp only [execReadyB, Bool.and_eq_true, beq_iff_eq, Option.isNone_iff_eq_none] at x
  obtain ⟨⟨⟨⟨⟨⟨⟨a, b⟩, c⟩, d⟩, e⟩, f⟩, g⟩, i⟩ := x
  exact ⟨⟨execAt_of a, b, c, d⟩, e, f, g, i⟩

/-- Queue 0 of core 3 with two complete entries. -/
def two : CoreSt := { q := [(0, [qent false, { qent false with id := 1 }])] }

/-- The slots that O55 names, each with the check that its clause asks: slot, word, state. -/
def slotWords : List (Nat × Nat × CoreSt) :=
  [(2, 3 * 2 ^ 5 + 2 ^ 11, two), (1, 1 + 2 ^ 6, {}), (1, 0x17 + 2 ^ 6, {}), (0, 1 + 2 * 2 ^ 2 + 2 * 2 ^ 10 + 5 * 2 ^ 18, {}), (4, 4 + 2 ^ 5, {}), (4, 6, {}),
   (6, 5 * 2 ^ 3 + 7 * 2 ^ 21, {}), (6, 1 + 5 * 2 ^ 3, {}), (6, 2 + 5 * 2 ^ 3, {}), (7, 2, {}), (7, 1 + 6 * 2 ^ 4 + 300 * 2 ^ 9, {})]

theorem witness_slots : ∀ x ∈ slotWords, execReadyB (exec3 (2 ^ x.1) [x.2.1] x.2.2 []) (word3 (exec3 (2 ^ x.1) [x.2.1] x.2.2 [])) = true ∧
    (word3 (exec3 (2 ^ x.1) [x.2.1] x.2.2 [])).present = [(x.1, x.2.1)] ∧ wFmt (2 ^ x.1) = 0 := by decide +kernel

/-- Where no SRAM word and no register of an engine is marked, an MMA meets no mark. -/
theorem no_marks {h : Hw} {e : Nat} (x : TCfg) (s : Nat) (hm : h.marks = []) (hb : (h.eng e).bMark = []) (hs : (h.eng e).scaleMark = []) : h.mmaMarks e x s = [] := by
  simp only [Hw.mmaMarks, hb, hs, Hw.smark, hm, tget]
  simp [List.filter_eq_nil_iff]
  all_goals exact fun _ _ _ _ h => h.symm

/-- An MMA of row 3 stands ready. -/
theorem witness_mma : (exec3 1 [28] {} []).execReady 3 (word3 (exec3 1 [28] {} [])) := by
  have slots : (word3 (exec3 1 [28] {} [])).slot 0 = some 28 ∧ (word3 (exec3 1 [28] {} [])).slot 1 = none ∧ (word3 (exec3 1 [28] {} [])).slot 6 = none := by decide +kernel
  have marks : ∀ e ∈ (exec3 1 [28] {} []).engsOf 3, ((exec3 1 [28] {} []).eng e).bMark = [] ∧ ((exec3 1 [28] {} []).eng e).scaleMark = [] := by decide +kernel
  have poison : (exec3 1 [28] {} []).poisonFault 3 (word3 (exec3 1 [28] {} [])) = none := by
    have m0 : (exec3 1 [28] {} []).marks = [] := by decide +kernel
    generalize exec3 1 [28] {} [] = h at *
    simp only [Hw.poisonFault, slots.1, slots.2.1, slots.2.2, firstFault, List.findSome?_cons, List.findSome?_nil, id]
    cases (h.eng (8 * 3)).tcfg with
    | none => rfl
    | some x =>
      have f : ((h.engsOf 3).findSome? fun e => if (h.mmaMarks e x 28).contains false then
          some ({ code := 0x0D, who := e / 8, slot := some 0 } : XFault) else none) = none := by
        rw [List.findSome?_eq_none_iff]
        intro e he
        simp [no_marks x 28 m0 (marks e he).1 (marks e he).2]
      simp only [f, ite_self]
  refine ⟨⟨execAt_of (by decide +kernel), by decide +kernel, by decide +kernel, by decide +kernel⟩, by decide +kernel, ?_, by decide +kernel, by decide +kernel⟩
  unfold Hw.wordFault
  rw [poison]
  decide +kernel

/-- Every core runs, or every core has broken. -/
def all64 (f : Nat → Loc) : Hw := live ((List.range 64).map fun c => (f c, 1))

theorem witness_ExecuteStream :
    ((exec3 0 [] {} []).execReady 3 (word3 (exec3 0 [] {} [])) ∧ (word3 (exec3 0 [] {} [])).present = [] ∧ (exec3 0 [] {} []).sramFaults [] = exec3 0 [] {} []) ∧
    (two.queue (pQueue (3 * 2 ^ 5 + 2 ^ 11)) = [qent false, { qent false with id := 1 }] ∧ pMode (3 * 2 ^ 5 + 2 ^ 11) = 0 ∧ vOp 0x57 = 0x17 ∧ tOp 0x1C = 0 ∧ (exec3 0 [] {} []).eng 24 ≠ {} ∧
      oQueue (4 + 2 ^ 5) ≠ 6 ∧ Desc.type ((exec3 0 [] {} []).descOf 3 (oHandle (4 + 2 ^ 5))) = 0 ∧ oQueue 6 = 6 ∧ sOp 42 < 3 ∧ lOp 2 = 2 ∧
      (exec3 0 [] {} []).pLatch 3 (lReg (1 + 6 * 2 ^ 4 + 300 * 2 ^ 9)) = 64) ∧
    (let h := exec3 (2 ^ 7 + 2 ^ 16) [0xF + 5 * 2 ^ 4 + 300 * 2 ^ 9] {} [(CORE_STAT.COMPAT 3, 1)]
     h.execReady 3 (word3 h) ∧ wFmt (word3 h).hdr = 1 ∧ h.flag (CORE_STAT.COMPAT 3) = true ∧ (word3 h).present = [(7, 0xF + 5 * 2 ^ 4 + 300 * 2 ^ 9)]) ∧
    (∀ d ∈ [Dest.sreg 31, .row 24 63 32 false, .acc 24 63 true [] false], let h := exec3 0 [] { lands := [⟨0, d, 9⟩] } []
      h.groupSize 3 = 1 ∧ h.flag (CORE_STAT.HOLD 3) = false ∧ h.flag (CORE_STAT.BROKEN 3) = false ∧ h.pllOff = false ∧ (h.core 3).lands = [⟨0, d, 9⟩] ∧ 0 ≤ h.get (CORE_CYCLE.CYCLE 3)) ∧
    (let h := exec3 0 [] { two with hold := some ⟨.arrival, [(24, 1)]⟩ } []
     (h.core 3).hold = some ⟨.arrival, [(24, 1)]⟩ ∧ h.groupSize 3 = 1 ∧ h.pllOff = false ∧ (h.core 3).haltReq = false ∧ (h.core 3).gearHold = false ∧ (h.core 3).imgHold = false ∧
       ((((h.core 3).queue 0).find? fun (z : QEnt) => z.id == 1).map (·.complete)) = some true) ∧
    ((exec3 0 [] {} []).groupSize 3 = 1 ∧ (exec3 0 [] {} []).pllOff = false ∧ (exec3 0 [] {} []).flag (CORE_STAT.HOLD 3) = false ∧
      (exec3 0 [] {} []).flag (CORE_STAT.BROKEN 3) = false ∧ (exec3 0 [] {} []).flag (CORE_STAT.RUN 3) = true ∧ (exec3 0 [] {} []).get (CORE_HALT_INFO.CODE 3) = 0 ∧ (exec3 0 [] {} [(CORE_STAT.HOLD 3, 1)]).flag (CORE_STAT.HOLD 3) = true ∧
      (exec3 0 [] {} [(CORE_STAT.BROKEN 3, 1)]).flag (CORE_STAT.BROKEN 3) = true) ∧
    (all64 CORE_STAT.RUN).pllOff = false ∧
    (∀ c ∈ List.range 64, (all64 CORE_STAT.RUN).groupSize c = 1 ∧ (all64 CORE_STAT.BROKEN).groupSize c = 1 ∧ (all64 CORE_STAT.RUN).flag (CORE_STAT.RUN c) = true ∧ (all64 CORE_STAT.RUN).flag (CORE_STAT.BROKEN c) = false ∧
      (all64 CORE_STAT.RUN).flag (CORE_STAT.HOLD c) = false ∧ (all64 CORE_STAT.BROKEN).flag (CORE_STAT.BROKEN c) = true) :=
  ⟨⟨execReady_of (by decide +kernel), by decide +kernel, rfl⟩, by decide +kernel, ⟨execReady_of (by decide +kernel), by decide +kernel⟩, by decide +kernel,
    by decide +kernel, by decide +kernel, by decide +kernel, by decide +kernel⟩

/-! ## Rules of both streams -/

/-- LEND 1 in a word's header. -/
def lend1 : Nat := 2 ^ 54

theorem witness_LoopEnds :
    (∀ x ∈ [(1, armWord 1 4), (2, armWord 2 4), (4, 4), (6, 6), (7, 7), (8, 8)], (access (x.2 + lend1) 0 { q := [(4, [qent false])] }).accessStands 3 x.1 (x.2 + lend1) ∧
      wKind (x.2 + lend1) = 0 ∧ (access (x.2 + lend1) 0 { q := [(4, [qent false])] }).accStops 3 (x.2 + lend1) = false ∧ lendOf ((access (x.2 + lend1) 0 { q := [(4, [qent false])] }).core 3).aloops 2048 ≠ wLend (x.2 + lend1)) ∧
    (let h := access (6 + lend1) 0 { aloops := [⟨2032, 2048, 2⟩] }
     h.accessStands 3 6 (6 + lend1) ∧ wKind (6 + lend1) = 0 ∧ sKind (6 + lend1) = 0 ∧ h.accStops 3 (6 + lend1) = false ∧ lendOf (h.core 3).aloops (h.core 3).apc = wLend (6 + lend1)) ∧
    (∀ n ∈ [0, 1], let h := exec3 (n * lend1) [] { xloops := [⟨1016, 1024, 2⟩] } []
      h.execStands 3 (word3 h) ∧ wFmt (word3 h).hdr = 0 ∧ (word3 h).present = [] ∧ (decide (lendOf (h.core 3).xloops (h.core 3).xpc = wLend (word3 h).hdr)) = (n == 1)) := by
  refine ⟨?_, ⟨stands_of (by decide +kernel), by decide +kernel⟩, ?_⟩
  · intro d hd; simp only [List.mem_cons, List.not_mem_nil, or_false] at hd
    rcases hd with rfl | rfl | rfl | rfl | rfl | rfl <;> exact ⟨stands_of (by decide +kernel), by decide +kernel⟩
  · intro d hd; simp only [List.mem_cons, List.not_mem_nil, or_false] at hd
    rcases hd with rfl | rfl <;> exact ⟨⟨execAt_of (by decide +kernel), by decide +kernel⟩, by decide +kernel⟩

theorem witness_IssueIntervals :
    (∀ x ∈ [(0, 2 ^ 2 + 3 * 2 ^ 3), (1, 1 + 2 ^ 6)], let h := exec3 (2 ^ x.1) [x.2] { tFree := 1, vFree := 1 } []
      h.execStands 3 (word3 h) ∧ wFmt (word3 h).hdr = 0 ∧ (h.loopOutcome 3 (h.core 3).xpc (word3 h)).1 = 0 ∧ (word3 h).present = [x] ∧ (h.descFault 3 x.1 x.2).isNone = true ∧
        (h.popFault 3 (word3 h)).isNone = true ∧ h.get (CORE_CYCLE.CYCLE 3) < (h.core 3).tFree ∧ h.get (CORE_CYCLE.CYCLE 3) < (h.core 3).vFree) ∧
    (let h := exec3 12 [2 ^ 11, 3 * 2 ^ 5 + 2 ^ 11] two []
     h.execReady 3 (word3 h) ∧ (word3 h).present = [(2, 2 ^ 11), (3, 3 * 2 ^ 5 + 2 ^ 11)] ∧ pMode (2 ^ 11) = 0 ∧ pQueue (2 ^ 11) = pQueue (3 * 2 ^ 5 + 2 ^ 11) ∧
       (h.core 3).queue 0 = [qent false, { qent false with id := 1 }] ∧ ({ qent false with id := 1 } : QEnt).id ≠ (qent false).id ∧
       wFmt (word3 h).hdr = 0) := by
  refine ⟨?_, ⟨execReady_of (by decide +kernel), by decide +kernel⟩⟩
  intro d hd; simp only [List.mem_cons, List.not_mem_nil, or_false] at hd
  rcases hd with rfl | rfl <;> exact ⟨⟨execAt_of (by decide +kernel), by decide +kernel⟩, by decide +kernel⟩

/-- Wait for object 2 with the amount in parameter register `p`. -/
def waitReg (p : Nat) : Nat := 2 ^ 18 + 2 * 2 ^ 20 + 2 ^ 26 + p * 2 ^ 27

theorem witness_WaitAmounts :
    (∀ p ∈ [0, 6], (access (6 + waitReg p) 0 {}).accessStands 3 6 (6 + waitReg p) ∧ wKind (6 + waitReg p) = 1 ∧ wSrc (6 + waitReg p) = true ∧
      (access (6 + waitReg p) 0 {}).pLatch 3 (wAmt (6 + waitReg p)) = (if p = 6 then 64 else 0) ∧ wIdx (6 + waitReg p) = 2 ∧ sKind (6 + waitReg p) = 0 ∧
      wLend (6 + waitReg p) = 0 ∧ (access (6 + waitReg p) 0 {}).flag (SYNC_VAL.ABORTED 3 2) = false ∧
      (access (6 + waitReg p) 0 {}).groupSize 3 = 1 ∧ (access (6 + waitReg p) 0 {}).flag (SYNC_VAL.VOID 3 2) = false ∧
      (access (6 + waitReg p) 0 {}).get (SYNC_VAL.VALUE 3 2) = 5 ∧ (access (6 + waitReg p) 0 {}).accStops 3 (6 + waitReg p) = false ∧
      lendOf ((access (6 + waitReg p) 0 {}).core 3).aloops ((access (6 + waitReg p) 0 {}).core 3).apc = 0) ∧
    (∀ n ∈ [5, 6], let h := access (6 + waitReg 6) 0 { await := some ⟨1, 2, n, 0, false, false⟩ }
      (h.core 3).await = some ⟨1, 2, n, 0, false, false⟩ ∧ (h.core 3).xwait = none ∧ (h.core 3).swait = none ∧ h.groupSize 3 = 1 ∧
        h.accStops 3 (h.accWord 3 (h.core 3).apc) = false ∧ wKind (6 + waitReg 6) = 1 ∧ wSrc (6 + waitReg 6) = true ∧ wIdx (6 + waitReg 6) = 2 ∧ (6 + waitReg 6) % 256 = 6 ∧ h.accWord 3 (h.core 3).apc = 6 + waitReg 6 ∧ accBad (6 + waitReg 6) = false ∧ h.flag (CORE_BRK.ACNT_EN 3) = false ∧
        accBase h 3 ≤ (h.core 3).apc ∧ (h.core 3).apc + 16 ≤ 0x20000 ∧ h.streamOn 3 = true ∧ h.get (SYNC_VAL.VALUE 3 2) = 5) ∧
    (∀ x ∈ [none, some ⟨1, 2, 64, 0, false, false⟩], let h := exec3 (waitReg 6) [] { xwait := x } []
      h.execAt 3 (word3 h) ∧ wFmt (word3 h).hdr = 0 ∧ wKind (word3 h).hdr = 1 ∧ wSrc (word3 h).hdr = true ∧ h.get (SYNC_VAL.VALUE 3 (wIdx (word3 h).hdr)) = 5 ∧
        h.pLatch 3 (wAmt (word3 h).hdr) = 64 ∧ h.groupSize 3 = 1 ∧ wIdx (word3 h).hdr = 2 ∧ (h.core 3).xwait = x ∧
        h.flag (SYNC_VAL.VOID 3 2) = false ∧ h.flag (SYNC_VAL.ABORTED 3 2) = false) ∧
    ((live []).pFresh 3 6 ∧ ((live [(CORE_CYCLE.CYCLE 3, 1)]).modCore 3 fun x => { x with pLast := [(6, (0, 0, 1, 9))] }).pFresh 3 6 ∧
      ((live []).modCore 3 fun x => { x with lands := [⟨5, .preg 6, 9⟩] }).pFresh 3 6 ∧
      ¬ ((live []).modCore 3 fun x => { x with lands := [⟨0, .preg 6, 9⟩] }).pFresh 3 6 ∧
      ¬ ((live []).modCore 3 fun x => { x with pLast := [(6, (0, 0, 1, 9))] }).pFresh 3 6) := by
  refine ⟨?_, by decide +kernel, ?_, by unfold Hw.pFresh; decide +kernel⟩
  · intro d hd; simp only [List.mem_cons, List.not_mem_nil, or_false] at hd
    rcases hd with rfl | rfl <;> exact ⟨stands_of (by decide +kernel), by decide +kernel⟩
  · intro d hd; simp only [List.mem_cons, List.not_mem_nil, or_false] at hd
    rcases hd with rfl | rfl <;> exact ⟨execAt_of (by decide +kernel), by decide +kernel⟩

theorem witness_RegistersAndPaths :
    ((live []).released = true ∧ (live []).host.link = true ∧ (live [(PWR_DOM.ON 7, 1)]).flag (PWR_DOM.ON (63 / 8)) = true ∧ (live [(PWR_DOM.ON 7, 0)]).flag (PWR_DOM.ON (63 / 8)) = false) ∧
    ((live [(EVT_TAIL.TAIL, 1)]).evtUsed = 1 ∧ ((1 : BitVec 10).toNat + 1024 - (live [(EVT_TAIL.TAIL, 1)]).get EVT_HEAD.HEAD) % 1024 = 1 ∧
      ((2 : BitVec 10).toNat + 1024 - (live [(EVT_TAIL.TAIL, 1)]).get EVT_HEAD.HEAD) % 1024 = 2 ∧ (live [(EVT_TAIL.TAIL, 1023)]).evtUsed = 1023) ∧
    (({ live [] with evt := { wins := [ev0] } } : Hw).evt.wins[0]? = some ev0 ∧ (live []).evt.wins[0]? = none ∧ (live []).evt.now = []) ∧
    (let x := { ev0 with code := 0x102 }
     let h : Hw := { live [(EVT_TAIL.TAIL, 1)] with evt := { wins := [ev0], now := [x] } }
     h.evt.wins[0]? = some ev0 ∧ h.evt.now = [x] ∧ ev0.code < x.code ∧ 0 < h.evtUsed ∧ h.evtUsed < 1023 ∧ 0 < h.get EVT_TAIL.TAIL) ∧
    (∀ x ∈ [[], [(PWR_CAP.off, 10), (CORE_STAT.off 63, 8)]], ({ live [] with setNow := x } : Hw).setNow = x) ∧
    (∀ p ∈ [Phase.off, .heldOff, .locked], (phased p).mode.phase = p) ∧ 0x18 ∉ [GID_ID.off, GID_CAP0.off, GID_COORD.off, GID_NODE.off] ∧ ((live []).mode.phase = .released ∧ (live [(TRU_STAT.DEBUG, 0)]).get TRU_STAT.DEBUG = 0 ∧ (live [(TRU_STAT.DEBUG, 2)]).get TRU_STAT.DEBUG = 2 ∧
      0xFFF8 % 8 = 0 ∧ sramEnd - 8 + 8 ≤ sramEnd) := by decide +kernel

/-! ## Worked values of the spec -/

/-- The examples of R28 and R38: regions 3 and 5, a word of each. -/
theorem test_places :
    (let r := Region.ofWords (1 + 256 * 2 ^ 4 + 128 * 2 ^ 16 + 128 * 2 ^ 36 + 64 * 2 ^ 45) 512 0
     r.lo = 0x1000000000 ∧ r.place (0x10000482C0 - r.lo) = (130, 268440256) ∧ 268440256 / 1024 = 262148) ∧
    (let r := Region.ofWords (1 + 1024 * 2 ^ 4 + 192 * 2 ^ 16 + 13 * 2 ^ 28 + 512 * 2 ^ 45) 0 0
     r.place (0x4004745A40 - r.lo) = (35, 1333824) ∧ wordLevel (1333824 / 32) = 0 ∧ wordRow (1333824 / 32) = 217 ∧ 1333824 / 32 % 32 = 18) := by decide

/-- The example after R133: an MXFP4 by an MXFP8 block, and the accumulator. -/
theorem test_block_product :
    accumulate false 0x4B800000 (blockProduct ⟨0xA, [3, 0xD, 7] ++ List.replicate 29 0, scaleVal 0x7E⟩ ⟨6, [0x39, 0x30, 0x42] ++ List.replicate 29 0, scaleVal 0x81⟩) =
      0x4B80000F := by decide +kernel

/-- The example of R139: a block whose largest magnitude is 10.0, to MXFP4. -/
theorem test_mx_conversion :
    mxScale 0xA (ofF32 0x41200000) = 0x80 ∧ mxElem 0xA 0x80 (ofF32 0x41200000) .rne = 6 ∧ mxElem 0xA 0x80 (ofF32 0xC02CCCCD) .rne = 0xB ∧
      mxElem 0xA 0x80 (ofF32 0x3E99999A) .rne = 0 ∧ mxElem 0xA 0x80 (ofF32 0x3E99999A) (.stoch 45876) = 1 ∧
      mxElem 0xA 0x80 (ofF32 0x3E99999A) (.stoch 45875) = 0 := by decide +kernel

/-- The example after R267: the fields of a long word. -/
theorem test_long_word :
    (let w := 0x000004A008782A05
     w % 256 = 5 ∧ wTag w = 0x2A ∧ wFmt w = 0 ∧ wKind w = 2 ∧ wIdx w = 7 ∧ wAmt w = 1 ∧ wSrc w = false ∧ sKind w = 1 ∧ sIdx w = 9 ∧ sAmt w = 1 ∧ wordLen w = 16) ∧
    (tOp 0x01821064 = 0 ∧ tClear 0x01821064 = true ∧ tAcc 0x01821064 = 12 ∧ tBreg 0x01821064 = 8 ∧ tSidx 0x01821064 = 4 ∧ tAblk 0x01821064 = 3) ∧
    (pQueue 0x2A00 = 0 ∧ pMode 0x2A00 = 0 ∧ pDst 0x2A00 = 16 ∧ pHandle 0x2A00 = 5) := by decide

/-- The example before R207: elements of a BF16 key cache, one in bounds and one not. -/
theorem test_descriptor :
    (let d : Desc := BitVec.ofNat 512 (1 + 3 * 2 + 2 ^ 4 + 2 ^ 22 + 5 * 2 ^ 18 + 0x100004000000 * 2 ^ 32 + 786432 * 2 ^ 128 + 128 * 2 ^ 164 + 64 * 2 ^ 190 + 1536 * 2 ^ 216 +
       2 ^ 320 + 128 * 2 ^ 332 + 8192 * 2 ^ 366)
     d.bitAddr d.vbase [5, 3, 700] = 0x100004AF030A * 8 ∧ d.bounds d.vbase [5, 3, 700] = none ∧ d.bounds d.vbase [5, 64, 699] = some 1 ∧ d.rchk = true ∧ d.region = 5) := by
  decide +kernel

/-- The example of R295: the pair 28 and 29 with object 20 at value `v`, and what stands. -/
def pair28 (v : Nat) (a x : Option Wait) : Hw :=
  ((live [(CORE_STAT.FUSE 28, 1), (CORE_STAT.FUSE 29, 1), (CORE_STAT.RUN 28, 1), (CORE_STAT.RUN 29, 1), (SYNC_VAL.VALUE 28 20, v), (SYNC_VAL.VOID 28 20, 0)]).setCore 28
    { sst := .waiting, swait := some ⟨2, 20, 2, 1002, false, false⟩, await := a, xwait := some ⟨2, 20, 1, 1004, false, false⟩ }).setCore 29 { await := x }

theorem test_wait_order :
    (match exec (.waitRelease 28 20) (st (pair28 1 (some ⟨2, 20, 1, 1000, false, false⟩) (some ⟨1, 20, 1, 1003, false, false⟩))) with
      | .next t => t.hw.get (SYNC_VAL.VALUE 28 20) == 0 && ((t.hw.core 28).await.map (·.released)) == some true && ((t.hw.core 29).await.map (·.released)) == some true &&
          ((t.hw.core 28).swait.map (·.released)) == some false && ((t.hw.core 28).xwait.map (·.released)) == some false
      | _ => false) = true ∧
    (match exec (.waitRelease 28 20) (st (pair28 3 none none)) with
      | .next t => t.hw.get (SYNC_VAL.VALUE 28 20) == 0 && ((t.hw.core 28).xwait.map (·.released)) == some true
      | _ => false) = true := by decide +kernel

/-- The example of R355: from (6,1,3) to (1,7,0) in a torus of 8 by 8 by 4 the first hop goes +X, over no dateline; from (7,1,3) it crosses. -/
theorem test_route :
    (let h := fun (x : Nat) => live [(GID_COORD.VALID, 1), (GID_COORD.X, x), (GID_COORD.Y, 1), (GID_COORD.Z, 3), (GID_COORD.SX, 8), (GID_COORD.SY, 8), (GID_COORD.SZ, 4)]
     (h 6).node = 12358 ∧ (h 6).nextDir 449 = some (0, false) ∧ (h 7).nextDir 449 = some (0, true)) := by decide +kernel

/-- The example of R323: 571 GiB of regions beside the default reserve fall short by 3,072 MiB. -/
theorem test_shortfall :
    (live []).shortfall { conf0 with snapSlots := 0 } [Region.ofWords (1 + 2284 * 2 ^ 16 + 512 * 2 ^ 45) 0 0] 2496 0 = 3072 := by decide +kernel

/-! ## The root PLL -/

/-- The same module while the root PLL relocks, with what waits for it. -/
def unlocked (h : Hw) (regs : List RegAccess) (flits : List (Nat × Flit × Bool)) : Hw :=
  (h.modMode fun m => { m with gear := some ⟨false, 3, 0⟩, regHeld := regs }).modFab fun f => { f with arrived := flits }

/-- Of the statements on what the root PLL clocks: the modules of the witnesses above have it locked and nothing waits; and modules that relock. -/
theorem witness_RootPll :
    (∀ h ∈ [live [], mapped [], ringed, ported 3 coords {}, linked {}, told 1 0 1 1 [], got req0 [], derailing {} []],
      h.pllOff = false ∧ h.mode.regHeld = [] ∧ h.fab.arrived = []) ∧
    (let h := unlocked (linked {}) [.fzForce 7] []
     h.mode.gear = some ⟨false, 3, 0⟩ ∧ h.pllOff = true ∧ h.portUp 2 = true ∧ h.mode.regHeld = [.fzForce 7] ∧ h.mode.regHeld ≠ [] ∧ h.fab.arrived = [] ∧ h.released = true ∧
       h.host.link = true ∧ accessOk 0x50 8 = true ∧ accessOk 0x1000000 8 = true ∧ pllBlock 0x1000000 = true ∧ pllBlock 0x50 = false) ∧
    (let h := unlocked (linked {}) [] [(2, req0, true)]
     h.mode.regHeld = [] ∧ h.fab.arrived = [(2, req0, true)] ∧ h.portUp 2 = true ∧ h.flag (FAB_PSTAT.ENC 2) = true ∧ (h.port 2).q = [] ∧
       Flit.seq req0 = (h.port 2).got ∧ Flit.type req0 ≠ 11 ∧ bitAt req0.trl.toNat 24 = false) := by
  decide +kernel

end Sys2Proof.Tests
end

section
/-!
SUPPORT. Laws of a register write (R7 to R9, R493 to R496): what each access type makes of a field, which register answers at an offset, what a
write leaves unchanged, and which accesses wait for the root PLL.
-/
namespace Sys2Proof.Machine

/-! ## Numbers given bit by bit -/

/-- The number below `2 ^ n` whose bit `i` is `p i`: the form in which `Hw.fieldWrite` gathers its masks. -/
def bitSum (n : Nat) (p : Nat → Bool) : Nat := (List.range n).foldl (fun a i => a + bnat (p i) * 2 ^ i) 0

theorem bitSum_succ (n : Nat) (p : Nat → Bool) : bitSum (n + 1) p = 2 ^ n * bnat (p n) + bitSum n p := by
  simp only [bitSum, List.range_succ, List.foldl_append, List.foldl_cons, List.foldl_nil]
  rw [Nat.add_comm, Nat.mul_comm]

theorem bitSum_lt (n : Nat) (p : Nat → Bool) : bitSum n p < 2 ^ n := by
  induction n with
  | zero => simp [bitSum]
  | succ n ih =>
    have : bnat (p n) ≤ 1 := by cases p n <;> decide
    have : 2 ^ n * bnat (p n) ≤ 2 ^ n * 1 := Nat.mul_le_mul_left _ this
    rw [bitSum_succ]
    omega

theorem bitSum_testBit (n : Nat) (p : Nat → Bool) (j : Nat) : (bitSum n p).testBit j = (decide (j < n) && p j) := by
  induction n with
  | zero => simp [bitSum]
  | succ n ih =>
    rw [bitSum_succ, Nat.testBit_two_pow_mul_add _ (bitSum_lt n p), ih]
    rcases Nat.lt_trichotomy j n with h | rfl | h
    · simp [h, show j < n + 1 by omega]
    · cases p j <;> simp [bnat]
    · have e : (1 : Nat).testBit (j - n) = false := Nat.testBit_lt_two_pow (Nat.one_lt_two_pow (by omega))
      cases p n <;> simp [bnat, e, show ¬ j < n by omega, show ¬ j < n + 1 by omega]

/-- A sum of two numbers without a common bit carries nothing. -/
theorem add_eq_or_of_disjoint (a b : Nat) (h : a &&& b = 0) : a + b = a ||| b := by
  induction a using Nat.strongRecOn generalizing b with
  | ind a ih =>
    rcases Nat.eq_zero_or_pos a with rfl | pos
    · simp
    · have half : a / 2 + b / 2 = a / 2 ||| b / 2 := ih (a / 2) (by omega) (b / 2) (by rw [← Nat.and_div_two, h])
      have low : (a ||| b) % 2 = a % 2 + b % 2 := by
        have : ¬ (a % 2 = 1 ∧ b % 2 = 1) := by rw [← Nat.and_mod_two_eq_one, h]; decide
        have := @Nat.or_mod_two_eq_one a b
        omega
      have := Nat.or_div_two (a := a) (b := b)
      omega

/-! ## Fields and words -/

theorem Hw.get_lt (h : Hw) (l : Loc) : h.get l < 2 ^ l.width := Nat.mod_lt _ (Nat.two_pow_pos _)

theorem Hw.testBit_get (h : Hw) (l : Loc) (i : Nat) : (h.get l).testBit i = (decide (i < l.width) && (h.word l.off).toNat.testBit (l.lo + i)) :=
  bitsOf_testBit _ _ _ _

theorem Hw.word_put_other (h : Hw) (l : Loc) (v o : Nat) (n : o ≠ l.off) : (h.put l v).word o = h.word o := Hw.word_setWord_other _ _ _ _ n

theorem Hw.word_of_csr {a b : Hw} (e : a.csr = b.csr) (o : Nat) : a.word o = b.word o := by simp only [Hw.word, e]

/-- A field written with its own value leaves its register as it is. -/
theorem Hw.word_put_get (h : Hw) (l : Loc) (f : l.fits) : (h.put l (h.get l)).word l.off = h.word l.off := by
  apply BitVec.eq_of_toNat_eq
  apply Nat.eq_of_testBit_eq
  intro i
  rw [Hw.put, Hw.word_setWord_same, setBits_testBit _ _ _ _ _ f]
  split
  · next r =>
    rw [Hw.testBit_get, Nat.add_sub_cancel' r.1]
    simp [show i - l.lo < l.width by omega]
  · rfl

/-- A one-bit field cleared: its bit of the register is 0, the others stand. -/
theorem Hw.word_put_zero (h : Hw) (l : Loc) (f : l.fits) (w : l.width = 1) :
    (h.put l 0).word l.off = h.word l.off &&& ~~~ BitVec.twoPow 64 l.lo := by
  apply BitVec.eq_of_getLsbD_eq
  intro i hi
  have e := setBits_testBit (h.word l.off) l.lo l.width 0 i f
  rw [Hw.put, Hw.word_setWord_same]
  change (setBits _ _ _ _).getLsbD i = _ at e
  rw [e]
  simp only [BitVec.getLsbD_and, BitVec.getLsbD_not, BitVec.getLsbD_twoPow, hi, decide_true, Bool.true_and, w, Nat.zero_testBit]
  split
  · next r => simp [show l.lo = i by omega, hi]
  · next r =>
    change (h.word l.off).getLsbD i = _
    simp [show l.lo ≠ i by omega]

/-! ## One field written by its access type -/

section
variable (h : Hw) (off size v : Nat) (l : Loc)

theorem Hw.fieldWrite_rw (a : l.acc = .rw) : h.fieldWrite off size v l =
    h.put l ((h.get l &&& (2 ^ l.width - 1 - bitSum l.width fun i => inWrite off size (l.lo + i))) +
      (bitsOf v l.lo l.width &&& bitSum l.width fun i => inWrite off size (l.lo + i))) := by
  simp only [Hw.fieldWrite, a]
  rfl

theorem Hw.fieldWrite_w1c (a : l.acc = .w1c) : h.fieldWrite off size v l =
    h.put l (h.get l &&& ((2 ^ l.width - 1 - (bitsOf v l.lo l.width &&& bitSum l.width fun i => inWrite off size (l.lo + i))) |||
      bitSum l.width fun i => h.setNow.contains (l.off, l.lo + i))) := by
  simp only [Hw.fieldWrite, a]
  rfl

theorem Hw.fieldWrite_ro (a : l.acc = .ro) : h.fieldWrite off size v l = h := by simp only [Hw.fieldWrite, a]

/-- A field write is at most a write of that field. -/
theorem Hw.fieldWrite_eq_put : h.fieldWrite off size v l = h ∨ ∃ x, h.fieldWrite off size v l = h.put l x := by
  unfold Hw.fieldWrite
  cases l.acc with
  | rw | w1c | w1s => exact .inr ⟨_, rfl⟩
  | ro | wo => exact .inl rfl

theorem Hw.get_fieldWrite_other (m : Loc) (f : l.fits) (n : l.apart m) : (h.fieldWrite off size v l).get m = h.get m := by
  obtain e | ⟨x, e⟩ := h.fieldWrite_eq_put off size v l <;> rw [e]
  exact Hw.get_put_other _ _ _ _ f n

/-- An RW field holds, bit by bit, what the write covers of it, and otherwise what it held (R7, R493). -/
theorem Hw.testBit_get_fieldWrite_rw (f : l.fits) (a : l.acc = .rw) (j : Nat) : ((h.fieldWrite off size v l).get l).testBit j =
    (decide (j < l.width) && if inWrite off size (l.lo + j) then v.testBit (l.lo + j) else (h.get l).testBit j) := by
  have rest (i : Nat) : (2 ^ l.width - 1 - bitSum l.width fun i => inWrite off size (l.lo + i)).testBit i =
      (decide (i < l.width) && !(decide (i < l.width) && inWrite off size (l.lo + i))) := by
    rw [Nat.sub_sub, Nat.add_comm 1, Nat.testBit_two_pow_sub_succ (bitSum_lt _ _), bitSum_testBit]
  rw [Hw.fieldWrite_rw _ _ _ _ _ a, Hw.get_put_same _ _ _ f, Nat.testBit_mod_two_pow, add_eq_or_of_disjoint]
  · simp only [Nat.testBit_or, Nat.testBit_and, rest, bitSum_testBit, bitsOf_testBit]
    cases inWrite off size (l.lo + j) <;> cases decide (j < l.width) <;> simp
  · apply Nat.eq_of_testBit_eq
    intro i
    simp only [Nat.testBit_and, rest, bitSum_testBit, bitsOf_testBit, Nat.zero_testBit]
    cases inWrite off size (l.lo + i) <;> simp

/-- An RW field that the write covers holds what is written. -/
theorem Hw.get_fieldWrite_rw_covered (f : l.fits) (a : l.acc = .rw) (c : ∀ j < l.width, inWrite off size (l.lo + j) = true) :
    (h.fieldWrite off size v l).get l = bitsOf v l.lo l.width := by
  apply Nat.eq_of_testBit_eq
  intro j
  rw [Hw.testBit_get_fieldWrite_rw _ _ _ _ _ f a, bitsOf_testBit]
  by_cases j_lt : j < l.width
  · simp [j_lt, c j j_lt]
  · simp [j_lt]

/-- A one-bit W1C field is cleared where 1 is written, unless an event of the same cycle has set it (R7, R9). -/
theorem Hw.fieldWrite_w1c_bit (a : l.acc = .w1c) (w : l.width = 1) (c : inWrite off size l.lo = true) : h.fieldWrite off size v l =
    h.put l (if v.testBit l.lo ∧ (l.off, l.lo) ∉ h.setNow then 0 else h.get l) := by
  have lt : h.get l < 2 := by simpa [w] using h.get_lt l
  have one (x : Nat) (x_lt : x < 2) : x &&& 1 = x := by rw [Nat.and_one_is_mod]; omega
  have bit : bitsOf v l.lo 1 = bnat (v.testBit l.lo) := by
    rw [bitsOf, Nat.pow_one, Nat.shiftRight_eq_div_pow, ← Nat.toNat_testBit]
    cases v.testBit l.lo <;> rfl
  rw [Hw.fieldWrite_w1c _ _ _ _ _ a]
  by_cases s : (l.off, l.lo) ∈ h.setNow <;> cases t : v.testBit l.lo <;> simp [w, bitSum, bit, c, s, t, bnat, one _ lt]

end

/-! ## Outcomes -/

theorem State.becomes_of_done {s : State} {i : Instr} {h : Hw} {P : Hw → Prop} (e : exec i s = done s h) (p : P h) : s.becomes i P :=
  ⟨_, e, rfl, p⟩

theorem State.stays_of_done {s : State} {i : Instr} (e : exec i s = done s s.hw) : s.stays i := e

/-! ## Accesses and the root PLL -/

theorem Hw.atPll_waits (h : Hw) (block : Bool) (i : RegAccess) (f : Hw → Hw) (p : h.pllOff = true) (w : block = true ∨ h.mode.regHeld ≠ []) :
    h.atPll block i f = { h with mode := { h.mode with regHeld := h.mode.regHeld ++ [i] } } := by
  have c : h.pllOff ∧ (block ∨ ¬ h.mode.regHeld.isEmpty) := ⟨p, by simpa using w⟩
  rw [Hw.atPll, if_pos c]
  rfl

theorem Hw.atPll_serves (h : Hw) (i : RegAccess) (f : Hw → Hw) (e : h.mode.regHeld = []) : h.atPll false i f = f h := by
  have c : ¬ (h.pllOff ∧ (false ∨ ¬ h.mode.regHeld.isEmpty)) := by simp [e]
  exact if_neg c

/-! ## The host's register write -/

section
variable (off : BitVec 25) (size : Nat) (v : BitVec 64) (s : State)

theorem exec_registerWrite : exec (.registerWrite off size v) s =
    done s (if s.hw.released && s.hw.host.link && accessOk off.toNat size then
      s.hw.atPll (pllBlock off.toNat) (.write off.toNat size v.toNat) fun h => h.regWrite off.toNat size v.toNat else s.hw) := rfl

/-- An accepted write of a block that does not need the root PLL is served at once where nothing waits. -/
theorem exec_registerWrite_serves (r : s.hw.released = true) (k : s.hw.host.link = true) (q : s.hw.mode.regHeld = [])
    (b : pllBlock off.toNat = false) (a : accessOk off.toNat size = true) :
    exec (.registerWrite off size v) s = done s (s.hw.regWrite off.toNat size v.toNat) := by
  simp only [exec_registerWrite, r, k, a, b, Bool.and_self, if_true, Hw.atPll_serves _ _ _ q]

theorem registerWrite_forbidden_stays
    (n : (size ≠ 4 ∧ size ≠ 8) ∨ off.toNat % size ≠ 0 ∨ s.hw.released = false ∨ s.hw.host.link = false) :
    s.stays (.registerWrite off size v) := by
  have c : (s.hw.released && s.hw.host.link && accessOk off.toNat size) = false := by
    rcases n with ⟨n4, n8⟩ | n | n | n <;> simp [accessOk, *]
  apply State.stays_of_done
  rw [exec_registerWrite, c]
  rfl

theorem registerWrite_unlocked_waits (r : s.hw.released = true) (k : s.hw.host.link = true) (p : s.hw.pllOff = true)
    (a : accessOk off.toNat size = true) (w : pllBlock off.toNat = true ∨ s.hw.mode.regHeld ≠ []) :
    s.becomes (.registerWrite off size v) fun t =>
      t = { s.hw with mode := { s.hw.mode with regHeld := s.hw.mode.regHeld ++ [.write off.toNat size v.toNat] } } := by
  apply State.becomes_of_done (exec_registerWrite off size v s)
  simp only [r, k, a, Bool.and_self, if_true]
  exact Hw.atPll_waits _ _ _ _ p w

end

/-! ## Which register answers -/

section
variable (h : Hw) (off size v : Nat)

theorem Hw.regWrite_reaches (a : accessOk off size = true) (b : h.blockOff off = false) :
    h.regWrite off size v = h.wrAt ⟨off, size, regData off size v⟩ (off / 8 * 8) := by
  simp only [Hw.regWrite, a, b, not_true, Bool.false_eq_true, or_self, if_false]

theorem Hw.blockOff_low (n : off < 0x80000) : h.blockOff off = false := if_pos n

theorem Hw.wrAll_fields {fs : List Loc} (w : RegW) (e : Bar0.regAt (w.off / 8 * 8) = fs) :
    h.wrAll w = fs.foldl (fun h l => h.fieldWrite w.off w.size w.v l) h := by
  rw [← e]
  rfl

theorem Hw.wrAt_scratch (w : RegW) : h.wrAt w GID_SCRATCH.off = h.wrAll w := rfl

theorem Hw.wrAt_powerCap (w : RegW) : h.wrAt w PWR_CAP.off = (h.wrAll w).clamp PWR_CAP.CAP_W 300 650 := rfl

/-- A write of GID_SCRATCH is one of its only field. -/
theorem Hw.regWrite_scratch (a : accessOk off size = true) (e : off / 8 * 8 = GID_SCRATCH.off) :
    h.regWrite off size v = h.fieldWrite off size (regData off size v) GID_SCRATCH.VALUE := by
  have low : off < 0x80000 := by have : off / 8 * 8 = 0x50 := e; omega
  rw [Hw.regWrite_reaches _ _ _ _ a (Hw.blockOff_low _ _ low), e, Hw.wrAt_scratch, Hw.wrAll_fields h (fs := GID_SCRATCH.fields)]
  · rfl
  · dsimp only; rw [e]; rfl

/-- A write of PWR_CAP is one of its two fields, the cap then brought within its bounds. -/
theorem Hw.regWrite_powerCap : h.regWrite 0x30008 4 v =
    ((h.fieldWrite 0x30008 4 (v % 2 ^ 32) PWR_CAP.CAP_W).fieldWrite 0x30008 4 (v % 2 ^ 32) PWR_CAP.CAP_UNMET).clamp PWR_CAP.CAP_W 300 650 := by
  rw [Hw.regWrite_reaches _ _ _ _ (by decide) (Hw.blockOff_low _ _ (by decide)), show 0x30008 / 8 * 8 = PWR_CAP.off from rfl, Hw.wrAt_powerCap,
    Hw.wrAll_fields h (fs := PWR_CAP.fields) _ (by dsimp only; decide)]
  simp [PWR_CAP.fields, regData]

end

section
variable (h : Hw) (c : Fin 64)

theorem regAt_coreStat : Bar0.regAt (CORE_STAT.off c) = CORE_STAT.fields c := by
  revert c
  decide +kernel

theorem coreStat_off (c : Nat) : CORE_STAT.off c = 0x1100008 + c / 8 * 0x200000 + c % 8 * 0x10000 := by
  rw [CORE_STAT.off, coreBase]
  omega

/-- CORE_STAT stands in the half of a tower's blocks that its vector domain powers (R496). -/
theorem Hw.blockOff_coreStat : h.blockOff (CORE_STAT.off c) = !h.flag (PWR_DOM.ON (c / 8)) := by
  have := c.isLt
  have t : (CORE_STAT.off c - 0x1000000) / 0x200000 = c / 8 := by rw [coreStat_off]; omega
  have r : ¬ (CORE_STAT.off c - 0x1000000) % 0x200000 < 0x100000 := by rw [coreStat_off]; omega
  have hi : 0x1000000 ≤ CORE_STAT.off c := by rw [coreStat_off]; omega
  rw [Hw.blockOff, if_neg (by omega), if_neg (by omega), if_neg (by omega), if_neg (by omega)]
  simp only [if_neg r, t]

theorem Hw.wrAt_coreStat (w : RegW) : h.wrAt w (CORE_STAT.off c) = h.wrAll w := by
  have := c.isLt
  have e := coreStat_off c
  have t : (CORE_STAT.off c - 0x1000000) / 0x200000 = c / 8 := by omega
  have r : (CORE_STAT.off c - 0x1000000) % 0x200000 = 0x100008 + c % 8 * 0x10000 := by omega
  have k : (⟨8 * (c.val / 8 % 8) + (0x100008 + c.val % 8 * 0x10000 - 0x100000) / 0x10000 % 8, by omega⟩ : Fin 64) = c := by
    apply Fin.ext
    dsimp only
    omega
  rw [Hw.wrAt, if_neg (by omega), if_neg (by omega), if_neg (by omega), dif_neg (by omega), if_neg (by omega)]
  simp only [t, r, k]
  rw [if_neg (by omega), if_pos (by omega), Hw.wrCore,
    if_neg (by unfold CORE_STAT.off CORE_CTRL.off; omega), if_neg (by unfold CORE_STAT.off CORE_BRK.off CORE_BRK_XCNT.off CORE_BRK_ACNT.off; omega),
    if_neg (by unfold CORE_STAT.off SYNC_CTRL.off; omega), dif_neg (by unfold CORE_STAT.off SYNC_VAL.off; omega)]

end

/-! ## What a write leaves unchanged -/

/-- From `a` to `b` nothing but registers at `offs` changed. -/
def Hw.onlyRegs (a b : Hw) (offs : List Nat) : Prop := a.regsBut b offs ∧ b = { a with csr := b.csr }

theorem Hw.onlyRegs_refl (h : Hw) (offs : List Nat) : h.onlyRegs h offs := ⟨fun _ _ => rfl, rfl⟩

theorem Hw.onlyRegs.trans {a b c : Hw} {offs : List Nat} (x : a.onlyRegs b offs) (y : b.onlyRegs c offs) : a.onlyRegs c offs := by
  obtain ⟨wordsX, frameX⟩ := x
  obtain ⟨wordsY, frameY⟩ := y
  refine ⟨fun o n => (wordsY o n).trans (wordsX o n), ?_⟩
  rw [frameY, frameX]

theorem Hw.onlyRegs.evt {a b : Hw} {offs : List Nat} (x : a.onlyRegs b offs) : b.evt = a.evt := by
  obtain ⟨-, frame⟩ := x
  rw [frame]

theorem Hw.onlyRegs_setWord (h : Hw) (o : Nat) (v : W64) {offs : List Nat} (m : o ∈ offs) : h.onlyRegs (h.setWord o v) offs :=
  ⟨fun _ n => Hw.word_setWord_other _ _ _ _ (ne_of_mem_of_not_mem m n).symm, rfl⟩

theorem Hw.onlyRegs_put (h : Hw) (l : Loc) (v : Nat) {offs : List Nat} (m : l.off ∈ offs) : h.onlyRegs (h.put l v) offs := h.onlyRegs_setWord _ _ m

theorem Hw.onlyRegs_fieldWrite (h : Hw) (off size v : Nat) (l : Loc) {offs : List Nat} (m : l.off ∈ offs) :
    h.onlyRegs (h.fieldWrite off size v l) offs := by
  obtain e | ⟨x, e⟩ := h.fieldWrite_eq_put off size v l <;> rw [e]
  · exact h.onlyRegs_refl _
  · exact h.onlyRegs_put _ _ m

theorem Hw.fieldWrite_setNow (h : Hw) (off size v : Nat) (l : Loc) : (h.fieldWrite off size v l).setNow = h.setNow := by
  obtain e | ⟨x, e⟩ := h.fieldWrite_eq_put off size v l <;> rw [e]
  rfl

theorem Hw.onlyRegs_clamp (h : Hw) (l : Loc) (lo hi : Nat) {offs : List Nat} (m : l.off ∈ offs) : h.onlyRegs (h.clamp l lo hi) offs :=
  h.onlyRegs_put _ _ m

theorem Hw.get_clamp_same (h : Hw) (l : Loc) (lo hi : Nat) (f : l.fits) (o : lo ≤ hi) (w : hi < 2 ^ l.width) :
    (h.clamp l lo hi).get l = max lo (min hi (h.get l)) := by
  rw [Hw.clamp, Hw.get_put_same _ _ _ f, Nat.mod_eq_of_lt (by omega)]

/-! ## GID_SCRATCH, PWR_CAP and CORE_STAT written by the host -/

theorem scratch_fits : GID_SCRATCH.VALUE.fits := by unfold Loc.fits; decide

theorem capW_fits : PWR_CAP.CAP_W.fits := by unfold Loc.fits; decide

theorem capUnmet_fits : PWR_CAP.CAP_UNMET.fits := by unfold Loc.fits; decide

theorem collide_fits (c : Nat) : (CORE_STAT.P_COLLIDE c).fits := show 8 + 1 ≤ 64 by decide

/-- Four bytes at 0x54 replace the high half of GID_SCRATCH and keep the low one. -/
theorem Hw.get_scratch_high (h : Hw) (x : Nat) (x_lt : x < 2 ^ 32) :
    (h.fieldWrite 0x54 4 (x * 2 ^ 32) GID_SCRATCH.VALUE).get GID_SCRATCH.VALUE = h.get GID_SCRATCH.VALUE % 2 ^ 32 + x * 2 ^ 32 := by
  apply Nat.eq_of_testBit_eq
  intro j
  have covered : inWrite 0x54 4 (0 + j) = (j / 32 == 1) := by rw [Nat.zero_add]; rfl
  have high : ¬ j < 64 → x.testBit (j - 32) = false := fun n =>
    Nat.testBit_lt_two_pow (Nat.lt_of_lt_of_le x_lt (Nat.pow_le_pow_right (by decide) (by omega)))
  rw [Hw.testBit_get_fieldWrite_rw _ _ _ _ _ scratch_fits rfl, Nat.add_comm (_ % _), Nat.mul_comm x,
    Nat.testBit_two_pow_mul_add _ (Nat.mod_lt _ (by decide)), Nat.testBit_mod_two_pow, Nat.mul_comm _ x, Nat.testBit_mul_two_pow]
  change (decide (j < 64) && if inWrite 0x54 4 (0 + j) then _ else _) = _
  rw [covered]
  by_cases lo : j < 32
  · simp [lo, show j / 32 = 0 by omega, show j < 64 by omega]
  · by_cases hi : j < 64
    · simp [GID_SCRATCH.VALUE, lo, hi, show j / 32 = 1 by omega, show 32 ≤ j by omega]
    · simp [lo, hi, high hi]

section
variable (v : BitVec 64) (s : State)

theorem registerWrite_scratch (r : s.hw.released = true) (k : s.hw.host.link = true) (q : s.hw.mode.regHeld = []) :
    s.becomes (.registerWrite 0x50 8 v) fun t => t.get GID_SCRATCH.VALUE = v.toNat ∧ s.hw.onlyRegs t [0x50] := by
  apply State.becomes_of_done (exec_registerWrite_serves 0x50 8 v s r k q rfl rfl)
  rw [Hw.regWrite_scratch _ _ _ _ rfl rfl]
  refine ⟨?_, Hw.onlyRegs_fieldWrite _ _ _ _ _ (by decide)⟩
  rw [Hw.get_fieldWrite_rw_covered _ _ _ _ _ scratch_fits rfl fun _ _ => rfl]
  exact Nat.mod_eq_of_lt v.isLt

theorem registerWrite_scratch_high (r : s.hw.released = true) (k : s.hw.host.link = true) (q : s.hw.mode.regHeld = []) :
    s.becomes (.registerWrite 0x54 4 v) fun t =>
      t.get GID_SCRATCH.VALUE = s.hw.get GID_SCRATCH.VALUE % 2 ^ 32 + v.toNat % 2 ^ 32 * 2 ^ 32 ∧ s.hw.onlyRegs t [0x50] := by
  apply State.becomes_of_done (exec_registerWrite_serves 0x54 4 v s r k q rfl rfl)
  rw [Hw.regWrite_scratch _ _ _ _ rfl rfl]
  exact ⟨s.hw.get_scratch_high _ (Nat.mod_lt _ (by decide)), Hw.onlyRegs_fieldWrite _ _ _ _ _ (by decide)⟩

/-- The cap lies between its bounds, and CAP_UNMET is cleared by a 1 unless an event of the same cycle has set it (R9, R452). -/
theorem registerWrite_powerCap (r : s.hw.released = true) (k : s.hw.host.link = true) (q : s.hw.mode.regHeld = []) :
    s.becomes (.registerWrite 0x30008 4 v) fun t => t.get PWR_CAP.CAP_W = max 300 (min 650 (v.toNat % 1024)) ∧
      t.get PWR_CAP.CAP_UNMET = (if v.getLsbD 10 ∧ (PWR_CAP.off, 10) ∉ s.hw.setNow then 0 else s.hw.get PWR_CAP.CAP_UNMET) ∧
      s.hw.onlyRegs t [0x30008] := by
  have serves : exec (.registerWrite 0x30008 4 v) s = done s (s.hw.regWrite 0x30008 4 v.toNat) := exec_registerWrite_serves _ _ v s r k q rfl rfl
  rw [Hw.regWrite_powerCap] at serves
  have cap_unmet : PWR_CAP.CAP_W.apart PWR_CAP.CAP_UNMET := .inr (.inl (by decide))
  have unmet_cap : PWR_CAP.CAP_UNMET.apart PWR_CAP.CAP_W := .inr (.inr (by decide))
  apply State.becomes_of_done serves
  refine ⟨?_, ?_, ((Hw.onlyRegs_fieldWrite _ _ _ _ _ (by decide)).trans (Hw.onlyRegs_fieldWrite _ _ _ _ _ (by decide))).trans
    (Hw.onlyRegs_clamp _ _ _ _ (by decide))⟩
  · have data : bitsOf (v.toNat % 2 ^ 32) 0 10 = v.toNat % 1024 := by
      rw [bitsOf, Nat.shiftRight_zero]
      omega
    rw [Hw.get_clamp_same _ _ _ _ capW_fits (by decide) (by decide), Hw.get_fieldWrite_other _ _ _ _ _ _ capUnmet_fits unmet_cap,
      Hw.get_fieldWrite_rw_covered _ _ _ _ _ capW_fits rfl (by decide)]
    exact congrArg (fun x => max 300 (min 650 x)) data
  · have bit : (v.toNat % 2 ^ 32).testBit 10 = v.getLsbD 10 := by rw [Nat.testBit_mod_two_pow]; rfl
    have lt := s.hw.get_lt PWR_CAP.CAP_UNMET
    rw [Hw.clamp, Hw.get_put_other _ _ _ _ capW_fits cap_unmet, Hw.fieldWrite_w1c_bit _ _ _ _ _ rfl rfl rfl, Hw.get_put_same _ _ _ capUnmet_fits,
      Hw.get_fieldWrite_other _ _ _ _ _ _ capW_fits cap_unmet, Hw.fieldWrite_setNow, Nat.mod_eq_of_lt (by split <;> omega)]
    rw [← bit]
    rfl

/-- P_COLLIDE is the only field of CORE_STAT that a write can change: the others are RO (R238). -/
theorem Hw.wrAll_coreStat (h : Hw) (c : Fin 64) (w : RegW) (e : w.off / 8 * 8 = CORE_STAT.off c) :
    h.wrAll w = h.fieldWrite w.off w.size w.v (CORE_STAT.P_COLLIDE c) := by
  rw [Hw.wrAll_fields h w (e ▸ regAt_coreStat c)]
  simp [CORE_STAT.fields, Hw.fieldWrite_ro, CORE_STAT.RUN, CORE_STAT.HALTED, CORE_STAT.BROKEN, CORE_STAT.HOLD, CORE_STAT.COMPAT, CORE_STAT.FUSE,
    CORE_STAT.LEADER, CORE_STAT.RUNAHEAD]

section
variable (c : Fin 64)

theorem coreStat_offset : (BitVec.ofNat 25 (CORE_STAT.off c)).toNat = CORE_STAT.off c := by
  rw [BitVec.toNat_ofNat, Nat.mod_eq_of_lt]
  have := coreStat_off c
  omega

theorem coreStat_accessOk : accessOk (CORE_STAT.off c) 4 = true := by
  have e := coreStat_off c
  have aligned : CORE_STAT.off c % 4 = 0 := by omega
  have lt : CORE_STAT.off c < 0x2000000 := by omega
  simp [accessOk, aligned, lt]

theorem coreStat_notPll : pllBlock (CORE_STAT.off c) = false := by
  have e := coreStat_off c
  have above : ¬ CORE_STAT.off c < 0x200000 := by omega
  have inCores : ¬ (CORE_STAT.off c - 0x1000000) % 0x200000 < 0x100000 := by omega
  simp [pllBlock, above, inCores]

theorem exec_registerWrite_coreStat (r : s.hw.released = true) (k : s.hw.host.link = true) (q : s.hw.mode.regHeld = []) :
    exec (.registerWrite (BitVec.ofNat 25 (CORE_STAT.off c)) 4 v) s = done s (s.hw.regWrite (CORE_STAT.off c) 4 v.toNat) := by
  rw [exec_registerWrite_serves _ _ _ _ r k q, coreStat_offset]
  · rw [coreStat_offset, coreStat_notPll]
  · rw [coreStat_offset, coreStat_accessOk]

theorem registerWrite_coreStat (r : s.hw.released = true) (k : s.hw.host.link = true) (q : s.hw.mode.regHeld = [])
    (on : s.hw.flag (PWR_DOM.ON (c / 8)) = true) :
    s.becomes (.registerWrite (BitVec.ofNat 25 (CORE_STAT.off c)) 4 0x100) fun t =>
      t.word (CORE_STAT.off c) = (if (CORE_STAT.off c, 8) ∈ s.hw.setNow then s.hw.word (CORE_STAT.off c) else
        s.hw.word (CORE_STAT.off c) &&& ~~~ 0x100#64) ∧ s.hw.onlyRegs t [CORE_STAT.off c] := by
  have aligned : CORE_STAT.off c / 8 * 8 = CORE_STAT.off c := by have := coreStat_off c; omega
  have half : CORE_STAT.off c / 4 % 2 = 0 := by have := coreStat_off c; omega
  have low : inWrite (CORE_STAT.off c) 4 8 = true := by simp [inWrite, half]
  have data : regData (CORE_STAT.off c) 4 0x100 = 0x100 := by simp [regData, half]
  apply State.becomes_of_done (exec_registerWrite_coreStat _ s c r k q)
  rw [Hw.regWrite_reaches _ _ _ _ (coreStat_accessOk c) (by rw [Hw.blockOff_coreStat]; simpa using on), aligned, Hw.wrAt_coreStat,
    Hw.wrAll_coreStat _ c _ aligned]
  refine ⟨?_, Hw.onlyRegs_fieldWrite _ _ _ _ _ (List.mem_singleton_self _)⟩
  rw [Hw.fieldWrite_w1c_bit _ _ _ _ _ rfl rfl low]
  change Hw.word (s.hw.put _ (if (regData (CORE_STAT.off c) 4 0x100).testBit 8 = true ∧ (CORE_STAT.off c, 8) ∉ s.hw.setNow then _ else _)) _ = _
  rw [data]
  by_cases set : (CORE_STAT.off c, 8) ∈ s.hw.setNow
  · simp only [set, not_true, and_false, if_false, if_true]
    exact s.hw.word_put_get _ (collide_fits c)
  · rw [if_pos ⟨rfl, set⟩, if_neg set]
    exact s.hw.word_put_zero _ (collide_fits c) rfl

/-- A domain that is off discards the writes to its registers (R496). -/
theorem registerWrite_coreStat_off (r : s.hw.released = true) (k : s.hw.host.link = true) (q : s.hw.mode.regHeld = [])
    (off : s.hw.flag (PWR_DOM.ON (c / 8)) = false) : s.stays (.registerWrite (BitVec.ofNat 25 (CORE_STAT.off c)) 4 v) := by
  apply State.stays_of_done
  rw [exec_registerWrite_coreStat _ _ _ r k q, Hw.regWrite, Hw.blockOff_coreStat, off, if_pos (.inr rfl)]

end

end

end Sys2Proof.Machine
end

section
/-!
SUPPORT. Laws of the event queue (R501 to R504): what a record written changes, and what the host consumes.
-/
namespace Sys2Proof.Machine

/-! ## Rows that wait for the root PLL -/

/-- Each of these rows is an access that the root PLL can hold back. -/
theorem exec_heldRow (s : State) (x : Instr × RegAccess) (m : x ∈ heldRows) : ∃ f, exec x.1 s = done s (s.hw.atPll true x.2 f) := by
  simp only [heldRows, List.mem_append, List.mem_flatMap, List.mem_finRange, true_and, List.mem_cons, List.not_mem_nil, or_false] at m
  obtain ⟨t, rfl | rfl | rfl⟩ | ⟨t, v, -, rfl | rfl⟩ := m <;> exact ⟨_, rfl⟩

theorem heldRow_unlocked_waits (s : State) (p : s.hw.pllOff = true) (x : Instr × RegAccess) (m : x ∈ heldRows) : s.becomes x.1 fun t =>
    t = { s.hw with mode := { s.hw.mode with regHeld := s.hw.mode.regHeld ++ [x.2] } } := by
  obtain ⟨f, e⟩ := exec_heldRow s x m
  exact State.becomes_of_done e (Hw.atPll_waits _ _ _ _ p (.inl rfl))

/-! ## The host consumes records -/

theorem evtHead_fits : EVT_HEAD.HEAD.fits := by unfold Loc.fits; decide

section
variable (v : BitVec 10) (s : State)

theorem evtHeadWrite_consumes (le : (v.toNat + 1024 - s.hw.get EVT_HEAD.HEAD) % 1024 ≤ s.hw.evtUsed) :
    s.becomes (.evtHeadWrite v) fun t => t.get EVT_HEAD.HEAD = v.toNat ∧
      t.evtUsed = s.hw.evtUsed - (v.toNat + 1024 - s.hw.get EVT_HEAD.HEAD) % 1024 ∧ s.hw.onlyRegs t [EVT_HEAD.off] := by
  have e : exec (.evtHeadWrite v) s = done s (s.hw.put EVT_HEAD.HEAD v.toNat) := congrArg (done s) (if_pos le)
  have head : (s.hw.put EVT_HEAD.HEAD v.toNat).get EVT_HEAD.HEAD = v.toNat := by
    rw [Hw.get_put_same _ _ _ evtHead_fits]
    exact Nat.mod_eq_of_lt v.isLt
  refine State.becomes_of_done e ⟨head, ?_, Hw.onlyRegs_put _ _ _ (List.mem_singleton_self _)⟩
  have head_lt : s.hw.get EVT_HEAD.HEAD < 1024 := Hw.get_lt _ _
  have tail_lt : s.hw.get EVT_TAIL.TAIL < 1024 := Hw.get_lt _ _
  have v_lt : v.toNat < 1024 := v.isLt
  simp only [Hw.evtUsed, head, Hw.get_put_other _ _ EVT_TAIL.TAIL _ evtHead_fits (.inl (by decide))] at le ⊢
  omega

theorem evtHeadWrite_beyond_tail (gt : s.hw.evtUsed < (v.toNat + 1024 - s.hw.get EVT_HEAD.HEAD) % 1024) : s.stays (.evtHeadWrite v) :=
  State.stays_of_done (congrArg (done s) (if_neg (Nat.not_le.mpr gt)))

end

/-! ## One record written (R503) -/

theorem evtTail_fits : EVT_TAIL.TAIL.fits := by unfold Loc.fits; decide

theorem evtPhase_fits : EVT_TAIL.PHASE.fits := by unfold Loc.fits; decide

theorem evtRec_off (n : Nat) : EVT_REC.off n = 0x18000 + n * 8 := by unfold EVT_REC.off; omega

theorem evtRec_ne_tail (n : Nat) : EVT_REC.off n ≠ EVT_TAIL.off := by rw [evtRec_off]; unfold EVT_TAIL.off; omega

theorem evtRec_inj {n m : Nat} : EVT_REC.off n = EVT_REC.off m ↔ n = m := by simp only [evtRec_off]; omega

section
variable (h : Hw) (n phase : Nat) (e : Ev)

theorem Hw.evSlot_eq : h.evSlot n phase e =
    (((h.setWord (EVT_REC.off (4 * n + 3)) (BitVec.ofNat 64 ((e.words phase).getD 3 0))).setWord
      (EVT_REC.off (4 * n + 2)) (BitVec.ofNat 64 ((e.words phase).getD 2 0))).setWord
      (EVT_REC.off (4 * n + 1)) (BitVec.ofNat 64 ((e.words phase).getD 1 0))).setWord
      (EVT_REC.off (4 * n + 0)) (BitVec.ofNat 64 ((e.words phase).getD 0 0)) := rfl

theorem Hw.word_evSlot_other (k : Nat) (other : k < 4 * n) : (h.evSlot n phase e).word (EVT_REC.off k) = h.word (EVT_REC.off k) := by
  have ne (i : Nat) : EVT_REC.off k ≠ EVT_REC.off (4 * n + i) := fun x => by have := evtRec_inj.mp x; omega
  rw [Hw.evSlot_eq, Hw.word_setWord_other _ _ _ _ (ne 0), Hw.word_setWord_other _ _ _ _ (ne 1), Hw.word_setWord_other _ _ _ _ (ne 2),
    Hw.word_setWord_other _ _ _ _ (ne 3)]

theorem Hw.get_tailReg_evSlot (l : Loc) (t : l.off = EVT_TAIL.off) : (h.evSlot n phase e).get l = h.get l := by
  rw [Hw.evSlot_eq]
  simp only [Hw.get_setWord_other _ _ _ l (t ▸ (evtRec_ne_tail _).symm)]

/-- The slot holds the record's four words. -/
theorem Hw.word_evSlot (i : Nat) (lt : i < 4) :
    (h.evSlot n phase e).word (EVT_REC.off (4 * n + i)) = BitVec.ofNat 64 ((e.words phase).getD i 0) := by
  have other (i j : Nat) (d : i ≠ j) : EVT_REC.off (4 * n + i) ≠ EVT_REC.off (4 * n + j) := fun x => d (by have := evtRec_inj.mp x; omega)
  rw [Hw.evSlot_eq]
  obtain rfl | rfl | rfl | rfl : i = 0 ∨ i = 1 ∨ i = 2 ∨ i = 3 := by omega
  · exact Hw.word_setWord_same _ _ _
  · rw [Hw.word_setWord_other _ _ _ _ (other 1 0 (by decide)), Hw.word_setWord_same]
  · rw [Hw.word_setWord_other _ _ _ _ (other 2 0 (by decide)), Hw.word_setWord_other _ _ _ _ (other 2 1 (by decide)), Hw.word_setWord_same]
  · rw [Hw.word_setWord_other _ _ _ _ (other 3 0 (by decide)), Hw.word_setWord_other _ _ _ _ (other 3 1 (by decide)),
      Hw.word_setWord_other _ _ _ _ (other 3 2 (by decide)), Hw.word_setWord_same]

theorem Hw.onlyRegs_evSlot {offs : List Nat} (m : ∀ i < 4, EVT_REC.off (4 * n + i) ∈ offs) : h.onlyRegs (h.evSlot n phase e) offs := by
  rw [Hw.evSlot_eq]
  exact (((Hw.onlyRegs_setWord _ _ _ (m 3 (by decide))).trans (Hw.onlyRegs_setWord _ _ _ (m 2 (by decide)))).trans
    (Hw.onlyRegs_setWord _ _ _ (m 1 (by decide)))).trans (Hw.onlyRegs_setWord _ _ _ (m 0 (by decide)))

end

/-- EVT_TAIL one record behind slot `n` of the pass `phase`; the next pass begins behind slot 1023. -/
def Hw.evAdvance (h : Hw) (n phase : Nat) : Hw :=
  let g := h.put EVT_TAIL.TAIL (n + 1)
  if n = 1023 then g.put EVT_TAIL.PHASE (1 - phase) else g

section
variable (h : Hw) (n : Nat)

theorem tail_apart_phase : EVT_TAIL.TAIL.apart EVT_TAIL.PHASE := .inr (.inl (by decide))

theorem phase_apart_tail : EVT_TAIL.PHASE.apart EVT_TAIL.TAIL := .inr (.inr (by decide))

theorem Hw.get_tail_evAdvance (phase : Nat) : (h.evAdvance n phase).get EVT_TAIL.TAIL = (n + 1) % 1024 := by
  unfold Hw.evAdvance
  dsimp only
  split
  · rw [Hw.get_put_other _ _ _ _ evtPhase_fits phase_apart_tail, Hw.get_put_same _ _ _ evtTail_fits]
    rfl
  · rw [Hw.get_put_same _ _ _ evtTail_fits]
    rfl

theorem Hw.get_phase_evAdvance (phase : Nat) : (h.evAdvance n phase).get EVT_TAIL.PHASE = if n = 1023 then 1 - phase else h.get EVT_TAIL.PHASE := by
  unfold Hw.evAdvance
  dsimp only
  split
  · rw [Hw.get_put_same _ _ _ evtPhase_fits]
    exact Nat.mod_eq_of_lt (Nat.lt_of_le_of_lt (Nat.sub_le _ _) (by decide))
  · exact Hw.get_put_other _ _ _ _ evtTail_fits tail_apart_phase

theorem Hw.onlyRegs_evAdvance (phase : Nat) {offs : List Nat} (m : EVT_TAIL.off ∈ offs) : h.onlyRegs (h.evAdvance n phase) offs := by
  unfold Hw.evAdvance
  dsimp only
  split
  · exact (Hw.onlyRegs_put _ _ _ m).trans (Hw.onlyRegs_put _ _ _ m)
  · exact Hw.onlyRegs_put _ _ _ m

theorem Hw.word_rec_evAdvance (phase k : Nat) : (h.evAdvance n phase).word (EVT_REC.off k) = h.word (EVT_REC.off k) :=
  (h.onlyRegs_evAdvance n phase (List.mem_singleton_self _)).1 _ fun m => evtRec_ne_tail k (List.mem_singleton.mp m)

end

section
variable (h : Hw) (e : Ev)

/-- The records of this cycle that the host has not consumed, written again with the new one at its place by code. -/
def Hw.evFill : Hw :=
  let old := h.evt.now.drop (h.evt.now.length - h.evtUsed)
  foldUp (evPlace e old).length (fun i g =>
    let j := h.get EVT_TAIL.TAIL + 1024 - old.length + i
    g.evSlot (j % 1024) (if j < 1024 then 1 - h.get EVT_TAIL.PHASE else h.get EVT_TAIL.PHASE) ((evPlace e old).getD i e)) h

@[simp] theorem Hw.evLog_csr : (h.evLog e).csr = h.csr := by
  unfold Hw.evLog
  dsimp only
  split <;> rfl

@[simp] theorem Hw.evLog_now : (h.evLog e).evt.now = h.evt.now := by
  unfold Hw.evLog
  dsimp only
  split <;> rfl

@[simp] theorem Hw.evLog_wins : (h.evLog e).evt.wins = h.evt.wins := by
  unfold Hw.evLog
  dsimp only
  split <;> rfl

@[simp] theorem Hw.evLog_get (l : Loc) : (h.evLog e).get l = h.get l := Hw.get_of_csr _ _ _ (h.evLog_csr e)

@[simp] theorem Hw.evLog_evtUsed : (h.evLog e).evtUsed = h.evtUsed := by simp only [Hw.evtUsed, Hw.evLog_get]

/-- The records noted as those of this cycle. -/
def Hw.noteNow (l : List Ev) : Hw := { h with evt := { h.evt with now := l } }

/-- The vector that a record raises where the host asks for its severity. -/
def Hw.evRaise : Hw := if h.flag EVT_CTRL.IEN ∧ bitAt (h.get EVT_CTRL.IMASK) e.sev then h.raise 0 else h

/-- A record that has found room. -/
def Hw.evKeep : Hw :=
  let n := h.get EVT_TAIL.TAIL
  let g := ((h.evFill e).put EVT_TAIL.TAIL (n + 1)).noteNow (evPlace e (h.evt.now.drop (h.evt.now.length - h.evtUsed)))
  (if n = 1023 then g.put EVT_TAIL.PHASE (1 - h.get EVT_TAIL.PHASE) else g).evRaise e

/-- A record that has found none: EVT_STAT counts it as lost. -/
def Hw.evLose : Hw := ((if ¬ h.flag EVT_STAT.OVF ∧ h.flag EVT_CTRL.IEN then h.raise 0 else h).mark EVT_STAT.OVF).count EVT_STAT.LOST 1

theorem Hw.evWrite_eq : h.evWrite e = if (h.evLog e).evtUsed ≥ 1023 then (h.evLog e).evLose else (h.evLog e).evKeep e := rfl

@[simp] theorem Hw.evRaise_csr : (h.evRaise e).csr = h.csr := by
  unfold Hw.evRaise
  split <;> rfl

@[simp] theorem Hw.evRaise_evt : (h.evRaise e).evt = h.evt := by
  unfold Hw.evRaise
  split <;> rfl

@[simp] theorem Hw.evSlot_evt (n phase : Nat) : (h.evSlot n phase e).evt = h.evt :=
  (h.onlyRegs_evSlot n phase e (offs := (List.range 4).map fun i => EVT_REC.off (4 * n + i)) fun _ lt =>
    List.mem_map_of_mem (List.mem_range.mpr lt)).evt

@[simp] theorem Hw.evFill_evt : (h.evFill e).evt = h.evt := by
  unfold Hw.evFill
  exact foldUp_keeps (fun g : Hw => g.evt = h.evt) _ _ _ rfl fun _ g k => (g.evSlot_evt _ _ _).trans k

theorem Hw.evKeep_csr : (h.evKeep e).csr = ((h.evFill e).evAdvance (h.get EVT_TAIL.TAIL) (h.get EVT_TAIL.PHASE)).csr := by
  unfold Hw.evKeep Hw.evAdvance
  dsimp only
  rw [Hw.evRaise_csr]
  split <;> rfl

theorem Hw.evKeep_wins : (h.evKeep e).evt.wins = h.evt.wins := by
  have wins (g : Hw) (l : List Ev) : (g.noteNow l).evt.wins = g.evt.wins := rfl
  unfold Hw.evKeep
  dsimp only
  rw [Hw.evRaise_evt]
  split <;> simp [wins]

theorem Hw.evLose_csr : h.evLose.csr = ((h.mark EVT_STAT.OVF).count EVT_STAT.LOST 1).csr := by
  unfold Hw.evLose
  split <;> rfl

theorem Hw.evLose_wins : h.evLose.evt.wins = h.evt.wins := by
  unfold Hw.evLose
  split <;> rfl

/-- No record opens or ends a window. -/
theorem Hw.evWrite_wins : (h.evWrite e).evt.wins = h.evt.wins := by
  rw [Hw.evWrite_eq]
  split
  · rw [Hw.evLose_wins, Hw.evLog_wins]
  · rw [Hw.evKeep_wins, Hw.evLog_wins]

/-- With room in the queue the registers that change are those of the slots written and EVT_TAIL. -/
theorem Hw.evWrite_csr_of_room (u : h.evtUsed < 1023) :
    (h.evWrite e).csr = (((h.evLog e).evFill e).evAdvance (h.get EVT_TAIL.TAIL) (h.get EVT_TAIL.PHASE)).csr := by
  rw [Hw.evWrite_eq, if_neg (by rw [Hw.evLog_evtUsed]; omega), Hw.evKeep_csr, Hw.evLog_get, Hw.evLog_get]

theorem Hw.evWrite_csr_of_full (u : h.evtUsed = 1023) : (h.evWrite e).csr = (((h.evLog e).mark EVT_STAT.OVF).count EVT_STAT.LOST 1).csr := by
  rw [Hw.evWrite_eq, if_pos (by rw [Hw.evLog_evtUsed]; omega), Hw.evLose_csr]

/-- Not by `rfl`: `simp only` would then leave the kernel to unfold the folded function. -/
theorem foldUp_one {σ : Type} (f : Nat → σ → σ) (x : σ) : foldUp 1 f x = f 0 x := by
  simp only [foldUp, List.range_one, List.foldl_cons, List.foldl_nil]

theorem foldUp_two {σ : Type} (f : Nat → σ → σ) (x : σ) : foldUp 2 f x = f 1 (f 0 x) := by
  simp only [foldUp, List.range_succ, List.range_zero, List.nil_append, List.cons_append, List.foldl_cons, List.foldl_nil]

/-- The only record of its cycle fills the slot at TAIL. -/
theorem Hw.evFill_alone (now : h.evt.now = []) : h.evFill e = h.evSlot (h.get EVT_TAIL.TAIL) (h.get EVT_TAIL.PHASE) e := by
  have lt : h.get EVT_TAIL.TAIL < 1024 := h.get_lt _
  have slot : (h.get EVT_TAIL.TAIL + 1024) % 1024 = h.get EVT_TAIL.TAIL := by omega
  have pass : ¬ h.get EVT_TAIL.TAIL + 1024 < 1024 := by omega
  simp only [Hw.evFill, now, List.length_nil, List.drop_nil, evPlace, List.length_cons, Nat.zero_add, foldUp_one, Nat.sub_zero, Nat.add_zero, slot,
    if_neg pass, List.getD_cons_zero]

/-- A record of lower code than the one of this cycle takes its slot, and that one moves to the next. -/
theorem Hw.evFill_before (x : Ev) (now : h.evt.now = [x]) (code : e.code < x.code) (used : 0 < h.evtUsed) (tail : 0 < h.get EVT_TAIL.TAIL) :
    h.evFill e = (h.evSlot (h.get EVT_TAIL.TAIL - 1) (h.get EVT_TAIL.PHASE) e).evSlot (h.get EVT_TAIL.TAIL) (h.get EVT_TAIL.PHASE) x := by
  have lt : h.get EVT_TAIL.TAIL < 1024 := h.get_lt _
  have slot₀ : (h.get EVT_TAIL.TAIL + 1024 - 1) % 1024 = h.get EVT_TAIL.TAIL - 1 := by omega
  have slot₁ : (h.get EVT_TAIL.TAIL + 1024 - 1 + 1) % 1024 = h.get EVT_TAIL.TAIL := by omega
  have pass₀ : ¬ h.get EVT_TAIL.TAIL + 1024 - 1 < 1024 := by omega
  have pass₁ : ¬ h.get EVT_TAIL.TAIL + 1024 - 1 + 1 < 1024 := by omega
  have old : [x].drop (1 - h.evtUsed) = [x] := by rw [show 1 - h.evtUsed = 0 by omega]; rfl
  have place : evPlace e [x] = [e, x] := if_pos code
  simp only [Hw.evFill, now, List.length_cons, List.length_nil, Nat.zero_add, Nat.reduceAdd, old, place, foldUp_two, Nat.add_zero, slot₀, slot₁,
    if_neg pass₀, if_neg pass₁, List.getD_cons_zero, List.getD_cons_succ]

end

section
variable (h : Hw) (e : Ev)

/-- The only record of its cycle: it stands in the slot at TAIL, TAIL is one further, and no other register changes. -/
theorem Hw.evWrite_alone (room : h.evtUsed < 1023) (now : h.evt.now = []) :
    (h.evWrite e).get EVT_TAIL.TAIL = (h.get EVT_TAIL.TAIL + 1) % 1024 ∧
    (h.evWrite e).get EVT_TAIL.PHASE = (if h.get EVT_TAIL.TAIL = 1023 then 1 - h.get EVT_TAIL.PHASE else h.get EVT_TAIL.PHASE) ∧
    (∀ i, i < 4 → (h.evWrite e).word (EVT_REC.off (4 * h.get EVT_TAIL.TAIL + i)) = BitVec.ofNat 64 ((e.words (h.get EVT_TAIL.PHASE)).getD i 0)) ∧
    h.regsBut (h.evWrite e) (EVT_TAIL.off :: (List.range 4).map fun i => EVT_REC.off (4 * h.get EVT_TAIL.TAIL + i)) := by
  have csr := h.evWrite_csr_of_room e room
  rw [Hw.evFill_alone _ _ (by rw [Hw.evLog_now, now]), Hw.evLog_get, Hw.evLog_get] at csr
  refine ⟨?_, ?_, fun i lt => ?_, fun o n => ?_⟩
  · rw [Hw.get_of_csr _ _ _ csr, Hw.get_tail_evAdvance]
  · rw [Hw.get_of_csr _ _ _ csr, Hw.get_phase_evAdvance, Hw.get_tailReg_evSlot _ _ _ _ _ rfl, Hw.evLog_get]
  · rw [Hw.word_of_csr csr, Hw.word_rec_evAdvance, Hw.word_evSlot _ _ _ _ _ lt]
  · have slot := (h.evLog e).onlyRegs_evSlot (h.get EVT_TAIL.TAIL) (h.get EVT_TAIL.PHASE) e fun i lt =>
      List.mem_cons_of_mem EVT_TAIL.off (List.mem_map_of_mem (f := fun i => EVT_REC.off (4 * h.get EVT_TAIL.TAIL + i)) (List.mem_range.mpr lt))
    obtain ⟨words, -⟩ := slot.trans (Hw.onlyRegs_evAdvance _ (h.get EVT_TAIL.TAIL) (h.get EVT_TAIL.PHASE) List.mem_cons_self)
    rw [Hw.word_of_csr csr, words o n, Hw.word_of_csr (h.evLog_csr e)]

/-- A record of lower code than that of its cycle takes its slot, and that one stands behind it. -/
theorem Hw.evWrite_before (x : Ev) (now : h.evt.now = [x]) (code : e.code < x.code) (used : 0 < h.evtUsed) (room : h.evtUsed < 1023)
    (tail : 0 < h.get EVT_TAIL.TAIL) (i : Nat) (lt : i < 4) :
    (h.evWrite e).word (EVT_REC.off (4 * (h.get EVT_TAIL.TAIL - 1) + i)) = BitVec.ofNat 64 ((e.words (h.get EVT_TAIL.PHASE)).getD i 0) ∧
    (h.evWrite e).word (EVT_REC.off (4 * h.get EVT_TAIL.TAIL + i)) = BitVec.ofNat 64 ((x.words (h.get EVT_TAIL.PHASE)).getD i 0) := by
  have csr := h.evWrite_csr_of_room e room
  rw [Hw.evFill_before _ _ x (by rw [Hw.evLog_now, now]) code (by rwa [Hw.evLog_evtUsed]) (by rwa [Hw.evLog_get]), Hw.evLog_get, Hw.evLog_get] at csr
  rw [Hw.word_of_csr csr, Hw.word_of_csr csr, Hw.word_rec_evAdvance, Hw.word_rec_evAdvance, Hw.word_evSlot _ _ _ _ _ lt]
  refine ⟨?_, rfl⟩
  rw [Hw.word_evSlot_other _ _ _ _ _ (by omega), Hw.word_evSlot _ _ _ _ _ lt]

theorem evtOvf_fits : EVT_STAT.OVF.fits := by unfold Loc.fits; decide

theorem evtLost_fits : EVT_STAT.LOST.fits := by unfold Loc.fits; decide

/-- A record for which the queue has no room is counted as lost in EVT_STAT. -/
theorem Hw.evWrite_full (full : h.evtUsed = 1023) :
    (h.evWrite e).flag EVT_STAT.OVF = true ∧ (h.evWrite e).get EVT_STAT.LOST = satAdd EVT_STAT.LOST.width (h.get EVT_STAT.LOST) 1 ∧
      h.regsBut (h.evWrite e) [EVT_STAT.off] := by
  have csr := h.evWrite_csr_of_full e full
  have lost_ovf : EVT_STAT.LOST.apart EVT_STAT.OVF := .inr (.inr (by decide))
  have ovf_lost : EVT_STAT.OVF.apart EVT_STAT.LOST := .inr (.inl (by decide))
  have lost : ((h.evLog e).mark EVT_STAT.OVF).get EVT_STAT.LOST = h.get EVT_STAT.LOST := by
    rw [Hw.mark, Hw.markBit_get, Hw.get_put_other _ _ _ _ evtOvf_fits ovf_lost, Hw.evLog_get]
  have ovf : ((h.evLog e).mark EVT_STAT.OVF).get EVT_STAT.OVF = 1 := by
    have set : ∀ b < 2, (b ||| 2 ^ 0) % 2 ^ EVT_STAT.OVF.width = 1 := by decide
    rw [Hw.mark, Hw.markBit_get, Hw.get_put_same _ _ _ evtOvf_fits]
    exact set _ (Hw.get_lt _ _)
  refine ⟨?_, ?_, fun o n => ?_⟩
  · rw [Hw.flag, Hw.get_of_csr _ _ _ csr, Hw.count, Hw.get_put_other _ _ _ _ evtLost_fits lost_ovf, ovf]
    rfl
  · rw [Hw.get_of_csr _ _ _ csr, Hw.count, Hw.get_put_same _ _ _ evtLost_fits, lost, Nat.mod_eq_of_lt]
    exact Nat.lt_of_le_of_lt (Nat.min_le_right _ _) (by decide)
  · have ne : o ≠ EVT_STAT.off := fun x => n (x ▸ List.mem_singleton_self _)
    rw [Hw.word_of_csr csr, Hw.count, Hw.word_put_other _ _ _ _ ne]
    exact (Hw.word_put_other _ _ _ _ ne).trans (Hw.word_of_csr (h.evLog_csr e) o)

end

/-! ## The end of a window (R504) -/


section
variable (s : State) (n : Nat) (e : Ev)

/-- The module with its `n`-th coalescing window ended. -/
def Hw.endWindow (h : Hw) (n : Nat) : Hw := { h with evt := { h.evt with wins := h.evt.wins.eraseIdx n } }

theorem exec_eventCoalesceEnd (w : s.hw.evt.wins[n]? = some e) : exec (.eventCoalesceEnd n) s =
    done s ((s.hw.endWindow n).evWrite e) := by
  change execEventCoalesceEnd n s = _
  rw [execEventCoalesceEnd, w]
  rfl

theorem eventCoalesceEnd_alone (w : s.hw.evt.wins[n]? = some e) (room : s.hw.evtUsed < 1023) (now : s.hw.evt.now = []) :
    s.becomes (.eventCoalesceEnd n) fun t => t.evt.wins = s.hw.evt.wins.eraseIdx n ∧ t.get EVT_TAIL.TAIL = (s.hw.get EVT_TAIL.TAIL + 1) % 1024 ∧
      t.get EVT_TAIL.PHASE = (if s.hw.get EVT_TAIL.TAIL = 1023 then 1 - s.hw.get EVT_TAIL.PHASE else s.hw.get EVT_TAIL.PHASE) ∧
      (∀ i, i < 4 → t.word (EVT_REC.off (4 * s.hw.get EVT_TAIL.TAIL + i)) = BitVec.ofNat 64 ((e.words (s.hw.get EVT_TAIL.PHASE)).getD i 0)) ∧
      s.hw.regsBut t (EVT_TAIL.off :: (List.range 4).map fun i => EVT_REC.off (4 * s.hw.get EVT_TAIL.TAIL + i)) :=
  State.becomes_of_done (exec_eventCoalesceEnd s n e w) ⟨Hw.evWrite_wins _ e, (s.hw.endWindow n).evWrite_alone e room now⟩

theorem eventCoalesceEnd_before (x : Ev) (w : s.hw.evt.wins[n]? = some e) (now : s.hw.evt.now = [x]) (code : e.code < x.code)
    (used : 0 < s.hw.evtUsed) (room : s.hw.evtUsed < 1023) (tail : 0 < s.hw.get EVT_TAIL.TAIL) : s.becomes (.eventCoalesceEnd n) fun t =>
      ∀ i, i < 4 → t.word (EVT_REC.off (4 * (s.hw.get EVT_TAIL.TAIL - 1) + i)) = BitVec.ofNat 64 ((e.words (s.hw.get EVT_TAIL.PHASE)).getD i 0) ∧
        t.word (EVT_REC.off (4 * s.hw.get EVT_TAIL.TAIL + i)) = BitVec.ofNat 64 ((x.words (s.hw.get EVT_TAIL.PHASE)).getD i 0) :=
  State.becomes_of_done (exec_eventCoalesceEnd s n e w) ((s.hw.endWindow n).evWrite_before e x now code used room tail)

theorem eventCoalesceEnd_full (w : s.hw.evt.wins[n]? = some e) (full : s.hw.evtUsed = 1023) : s.becomes (.eventCoalesceEnd n) fun t =>
    t.evt.wins = s.hw.evt.wins.eraseIdx n ∧ t.flag EVT_STAT.OVF = true ∧
      t.get EVT_STAT.LOST = satAdd EVT_STAT.LOST.width (s.hw.get EVT_STAT.LOST) 1 ∧ s.hw.regsBut t [EVT_STAT.off] :=
  State.becomes_of_done (exec_eventCoalesceEnd s n e w) ⟨Hw.evWrite_wins _ e, (s.hw.endWindow n).evWrite_full e full⟩

theorem eventCoalesceEnd_none (w : s.hw.evt.wins[n]? = none) : s.stays (.eventCoalesceEnd n) := by
  apply State.stays_of_done
  change execEventCoalesceEnd n s = _
  rw [execEventCoalesceEnd, w]

end

end Sys2Proof.Machine
end

section
/-!
SUPPORT. The sideband, the test connector and the boundary scan (R488 to R491).
-/
namespace Sys2Proof.Machine

/-! ## A register access by the sideband or the test connector -/

section
variable (h : Hw) (path : Nat) (a : DebugAccess)

theorem Hw.debugReg_now (n : pllBlock a.addr = false ∨ h.pllOff = false) : h.debugReg path a = h.debugNow path a := by
  have c : ¬ (h.pllOff ∧ pllBlock a.addr) := by rcases n with n | n <;> simp [n]
  exact if_neg c

theorem Hw.debugNow_reads (k : accessOk a.addr a.size = true) (r : a.write = false) (v : debugReads a.addr = true) :
    h.debugNow path a = h.send (.reply path 0 (natLE a.size (h.regRead a.addr a.size (a.space.val == 1)))) := by
  simp [Hw.debugNow, Hw.debugReply, k, r, v]

/-- At debug level 0 both paths are refused every write. -/
theorem Hw.debugNow_write_refused (w : a.write = true) (d : h.get TRU_STAT.DEBUG = 0) : h.debugNow path a = h.send (.reply path 1 []) := by
  by_cases k : accessOk a.addr a.size <;> simp [Hw.debugNow, Hw.debugReply, k, w, d]

/-- At a higher level TEL_CTRL is written for its breaks alone. -/
theorem Hw.debugNow_telCtrl (k : accessOk a.addr a.size = true) (w : a.write = true) (d : h.get TRU_STAT.DEBUG ≠ 0)
    (t : a.addr / 8 * 8 = TEL_CTRL.off) :
    h.debugNow path a = (h.wrBreaks ⟨a.addr, a.size, regData a.addr a.size a.value.toNat⟩).send (.reply path 0 []) := by
  simp [Hw.debugNow, Hw.debugReply, k, w, d, t]

theorem Hw.wrBreaks_breakAll : h.wrBreaks ⟨TEL_CTRL.off, 8, regData TEL_CTRL.off 8 4⟩ = h.breakAll := by
  have brk : RegW.hit ⟨TEL_CTRL.off, 8, regData TEL_CTRL.off 8 4⟩ TEL_CTRL.BRK_ALL = true := by decide
  have resume : RegW.hit ⟨TEL_CTRL.off, 8, regData TEL_CTRL.off 8 4⟩ TEL_CTRL.RESUME_ALL = false := by decide
  have step : RegW.hit ⟨TEL_CTRL.off, 8, regData TEL_CTRL.off 8 4⟩ TEL_CTRL.STEP_ALL = false := by decide
  simp [Hw.wrBreaks, brk, resume, step]

/-- A read of eight bytes below 0x10000 finds the register with the fields that stand elsewhere. -/
theorem Hw.regRead_low (o : Nat) (lt : o < 0x10000) (al : o % 8 = 0) : h.regRead o 8 false = ((h.puts (h.shownFields o)).word o).toNat := by
  have small : o < 0x2000000 := by omega
  have k : accessOk o 8 = true := by simp [accessOk, al, small]
  simp [Hw.regRead, Hw.regRead64, k, h.blockOff_low o (by omega)]

theorem Hw.shownFields_low (o : Nat) (lt : o < 0x10000) (n : o ∉ [GID_ID.off, GID_CAP0.off, GID_COORD.off, GID_NODE.off]) : h.shownFields o = [] := by
  simp only [List.mem_cons, List.not_mem_nil, or_false, not_or] at n
  obtain ⟨id, cap, coord, node⟩ := n
  rw [Hw.shownFields, if_neg id, if_neg cap, if_neg coord, if_neg node, if_neg (by omega), if_neg (by omega)]

/-- GID_ID with the fields that a read shows of it. -/
def Hw.shownId : Hw := h.puts [(GID_ID.SUBSYS, h.pciId.subsystem), (GID_ID.VARIANT, if h.fuses.variantS then 2 else 1)]

theorem Hw.shownFields_id : h.puts (h.shownFields GID_ID.off) = h.shownId := rfl

theorem Hw.get_shownId : h.shownId.get GID_ID.SUBSYS = h.pciId.subsystem ∧ h.shownId.get GID_ID.VARIANT = (if h.fuses.variantS then 2 else 1) ∧
    h.shownId.get GID_ID.VENDOR = h.get GID_ID.VENDOR ∧ h.shownId.get GID_ID.DEVICE = h.get GID_ID.DEVICE := by
  have subsys_fits : GID_ID.SUBSYS.fits := by unfold Loc.fits; decide
  have variant_fits : GID_ID.VARIANT.fits := by unfold Loc.fits; decide
  have subsys : h.pciId.subsystem = if h.fuses.variantS then 2 else 1 := rfl
  simp only [Hw.shownId, Hw.puts_cons, Hw.puts_nil]
  refine ⟨?_, ?_, ?_, ?_⟩
  · rw [Hw.get_put_other _ _ _ _ variant_fits (.inr (.inl (by decide))), Hw.get_put_same _ _ _ subsys_fits, subsys]
    split <;> rfl
  · rw [Hw.get_put_same _ _ _ variant_fits]
    split <;> rfl
  · rw [Hw.get_put_other _ _ _ _ variant_fits (.inr (.inr (by decide))), Hw.get_put_other _ _ _ _ subsys_fits (.inr (.inr (by decide)))]
  · rw [Hw.get_put_other _ _ _ _ variant_fits (.inr (.inr (by decide))), Hw.get_put_other _ _ _ _ subsys_fits (.inr (.inr (by decide)))]

end

section
variable (a : DebugAccess) (s : State) (x : Instr × Nat) (m : x ∈ [(Instr.sidebandAccess a, 4), (Instr.testConnectorAccess a, 5)])
include m

/-- Neither path answers before step 2 of a start has ended (R455). -/
theorem debug_silent (p : s.hw.mode.phase = .off ∨ s.hw.mode.phase = .heldOff ∨ s.hw.mode.phase = .locked) : s.stays x.1 := by
  simp only [List.mem_cons, List.not_mem_nil, or_false] at m
  obtain rfl | rfl := m <;> exact State.stays_of_done (if_pos p)

theorem exec_debug_reg (p : s.hw.mode.phase = .released) (r : a.space.val ≤ 1) :
    exec x.1 s = done s (s.hw.debugReg x.2 a) := by
  have answers : ¬ (s.hw.mode.phase = .off ∨ s.hw.mode.phase = .heldOff ∨ s.hw.mode.phase = .locked) := by simp [p]
  simp only [List.mem_cons, List.not_mem_nil, or_false] at m
  obtain rfl | rfl := m
  · change execSidebandAccess a s = _
    simp only [execSidebandAccess, if_neg answers, if_pos r]
  · change execTestConnectorAccess a s = _
    simp only [execTestConnectorAccess, if_neg answers, if_pos r]

theorem exec_debug_read_low (p : s.hw.mode.phase = .released) (sp : a.space = 0) (r : a.write = false) (lt : a.addr < 0x10000)
    (al : a.addr % 8 = 0) (sz : a.size = 8) :
    exec x.1 s = done s (s.hw.send (.reply x.2 0 (natLE 8 ((s.hw.puts (s.hw.shownFields a.addr)).word a.addr).toNat))) := by
  have small : a.addr < 0x2000000 := by omega
  have k : accessOk a.addr a.size = true := by simp [accessOk, al, sz, small]
  have v : debugReads a.addr = true := by simp [debugReads, show a.addr / 8 * 8 < 0x10000 by omega]
  have live : (a.space.val == 1) = false := by rw [sp]; rfl
  have free : pllBlock a.addr = false := by simp [pllBlock, show ¬ 0x80000 ≤ a.addr by omega, show ¬ 0x1000000 ≤ a.addr by omega]
  rw [exec_debug_reg a s x m p (by rw [sp]; decide), Hw.debugReg_now _ _ _ (.inl free), Hw.debugNow_reads _ _ _ k r v, live, sz,
    Hw.regRead_low _ _ lt al]

/-- A read of a register below 0x10000: what stands in it, and of GID_ID what its fields show. -/
theorem debug_read_answers (p : s.hw.mode.phase = .released) (sp : a.space = 0) (r : a.write = false) (lt : a.addr < 0x10000) (al : a.addr % 8 = 0)
    (sz : a.size = 8) :
    (a.addr ∉ [GID_ID.off, GID_CAP0.off, GID_COORD.off, GID_NODE.off] → s.becomes x.1 fun t =>
      t = s.hw.send (.reply x.2 0 (natLE 8 (s.hw.word a.addr).toNat))) ∧
    (a.addr = GID_ID.off → s.becomes x.1 fun t => ∃ g : Hw, t = s.hw.send (.reply x.2 0 (natLE 8 (g.word GID_ID.off).toNat)) ∧
      g.get GID_ID.SUBSYS = s.hw.pciId.subsystem ∧ g.get GID_ID.VARIANT = (if s.hw.fuses.variantS then 2 else 1) ∧
      g.get GID_ID.VENDOR = s.hw.get GID_ID.VENDOR ∧ g.get GID_ID.DEVICE = s.hw.get GID_ID.DEVICE) := by
  have read := exec_debug_read_low a s x m p sp r lt al sz
  constructor
  · intro n
    rw [s.hw.shownFields_low _ lt n, Hw.puts_nil] at read
    exact State.becomes_of_done read rfl
  · intro id
    rw [id, Hw.shownFields_id] at read
    exact State.becomes_of_done read ⟨s.hw.shownId, rfl, s.hw.get_shownId⟩

theorem debug_write_refused (p : s.hw.mode.phase = .released) (r : a.space.val ≤ 1) (w : a.write = true)
    (l : s.hw.pllOff = false) (d : s.hw.get TRU_STAT.DEBUG = 0) : s.becomes x.1 fun t => t = s.hw.send (.reply x.2 1 []) := by
  apply State.becomes_of_done (exec_debug_reg a s x m p r)
  rw [Hw.debugReg_now _ _ _ (.inr l), Hw.debugNow_write_refused _ _ _ w d]

/-- TEL_CTRL.BRK_ALL written by a debug path breaks every running core (R489). -/
theorem debug_breakAll (p : s.hw.mode.phase = .released)
    (e : a = { write := true, space := 0, addr := TEL_CTRL.off, size := 8, value := 4 }) (d : s.hw.get TRU_STAT.DEBUG ≠ 0) :
    s.becomes x.1 fun t => t = s.hw.breakAll.send (.reply x.2 0 []) := by
  apply State.becomes_of_done (exec_debug_reg a s x m p (by rw [e]; decide))
  subst e
  rw [Hw.debugReg_now _ _ _ (.inl (by decide)), Hw.debugNow_telCtrl _ _ _ (by decide) rfl d (by decide)]
  dsimp only
  rw [show BitVec.toNat (4 : BitVec 64) = 4 from rfl, Hw.wrBreaks_breakAll]

end

/-! ## Memory by the test connector -/

section
variable (a : DebugAccess) (s : State)

theorem exec_sideband_mem (p : s.hw.mode.phase = .released) (r : 2 ≤ a.space.val) :
    exec (.sidebandAccess a) s = done s (s.hw.send (.reply 4 1 [])) := by
  change execSidebandAccess a s = _
  simp [execSidebandAccess, p, show ¬ a.space.val ≤ 1 by omega, Hw.debugReply]

theorem exec_testConnector_mem (p : s.hw.mode.phase = .released) (r : 2 ≤ a.space.val) :
    exec (.testConnectorAccess a) s = done s (s.hw.debugMem a) := by
  change execTestConnectorAccess a s = _
  simp [execTestConnectorAccess, p, show ¬ a.space.val ≤ 1 by omega]

end

section
variable (a : DebugAccess) (h : Hw)

theorem Hw.debugMem_refused (d : h.get TRU_STAT.DEBUG ≠ 2) : h.debugMem a = h.send (.reply 5 1 []) := if_pos (.inl d)

/-- At debug level 2 the test connector reaches the SRAMs. -/
theorem Hw.debugMem_sram (sp : a.space = 2) (d : h.get TRU_STAT.DEBUG = 2) (lo : 1 ≤ a.size) (hi : a.size ≤ 8) (e : a.addr + a.size ≤ sramEnd) :
    h.debugMem a = if a.write then Hw.send { h with sram := Memory.writeLE h.sram a.addr a.size a.value.toNat } (.reply 5 0 []) else
      h.send (.reply 5 0 (natLE a.size (h.sread a.addr a.size))) := by
  have sram : (a.space.val == 2) = true := by rw [sp]; rfl
  simp [Hw.debugMem, sram, d, Hw.debugReply, Hw.sread, show a.size ≠ 0 by omega, show ¬ 8 < a.size by omega,
    show ¬ sramEnd < a.addr + a.size by omega]

variable (s : State) (p : s.hw.mode.phase = .released) (sp : a.space = 2) (d : s.hw.get TRU_STAT.DEBUG = 2) (lo : 1 ≤ a.size) (hi : a.size ≤ 8)
  (e : a.addr + a.size ≤ sramEnd)
include p sp d lo hi e

theorem testConnector_writes_sram (w : a.write = true) : s.becomes (.testConnectorAccess a) fun t =>
    t.sread a.addr a.size = a.value.toNat % 2 ^ (8 * a.size) ∧
      (∀ b, b < a.addr ∨ a.addr + a.size ≤ b → Memory.read t.sram b = Memory.read s.hw.sram b) ∧ t.csr = s.hw.csr ∧ t.dram = s.hw.dram := by
  apply State.becomes_of_done (exec_testConnector_mem a s p (by rw [sp]; decide))
  rw [Hw.debugMem_sram a s.hw sp d lo hi e, if_pos w]
  refine ⟨?_, fun b out => Memory.read_writeLE_other _ _ _ _ _ out, rfl, rfl⟩
  rw [Nat.pow_mul]
  exact Memory.readLE_writeLE _ _ _ _

theorem testConnector_reads_sram (w : a.write = false) : s.becomes (.testConnectorAccess a) fun t =>
    t = s.hw.send (.reply 5 0 (natLE a.size (s.hw.sread a.addr a.size))) := by
  apply State.becomes_of_done (exec_testConnector_mem a s p (by rw [sp]; decide))
  rw [Hw.debugMem_sram a s.hw sp d lo hi e, w]
  rfl

end

/-! ## The boundary scan -/

section
variable (s : State)

theorem jtagBypass_selects (x : Instr) (m : x ∈ [Instr.jtagBypass, Instr.jtagIdcode]) :
    s.becomes x fun t => t = { s.hw with jtag := { s.hw.jtag with ir := 0, bypass := false } } := by
  simp only [List.mem_cons, List.not_mem_nil, or_false] at m
  obtain rfl | rfl := m <;> exact State.becomes_of_done (h := s.hw.jtagBypass) rfl rfl

theorem jtagSamplePreload_selects (pins load : BitVec 17) : s.becomes (.jtagSamplePreload pins load) fun t =>
    t = { s.hw with jtag := { s.hw.jtag with ir := 1, bsr := load }, out := .reply 6 0 (natLE 3 pins.toNat) :: s.hw.out } :=
  ⟨_, rfl, rfl, rfl⟩

theorem exec_jtagExtest : exec .jtagExtest s =
    done s (if s.hw.mode.phase = .released then s.hw.jtagBypass else { s.hw with jtag := { s.hw.jtag with ir := 2, pins := s.hw.jtag.bsr } }) := rfl

theorem jtagExtest_drives (p : s.hw.mode.phase ≠ .released) :
    s.becomes .jtagExtest fun t => t = { s.hw with jtag := { s.hw.jtag with ir := 2, pins := s.hw.jtag.bsr } } :=
  State.becomes_of_done (exec_jtagExtest s) (if_neg p)

/-- Once the module is released EXTEST no longer drives its pins (R491). -/
theorem jtagExtest_released (p : s.hw.mode.phase = .released) :
    s.becomes .jtagExtest fun t => t = { s.hw with jtag := { s.hw.jtag with ir := 0, bypass := false } } :=
  State.becomes_of_done (exec_jtagExtest s) (if_pos p)

end

end Sys2Proof.Machine
end

section
/-!
The statements of this family, each assembled from the laws above.
-/
namespace Sys2Proof.Machine

/-- Settles O4: the tables of the state at reset are empty, so every register reads as its Reset value and every byte as 0. -/
theorem resetState : Obligations.ResetState := by
  unfold Obligations.ResetState
  refine ⟨rfl, fun _ => rfl, rfl, fun _ => rfl, ?_, ?_, ?_, ?_⟩ <;> decide

/-- Settles O59, clause by clause from the rows' own rules. -/
theorem registersAndPaths : Obligations.RegistersAndPaths := by
  unfold Obligations.RegistersAndPaths
  refine ⟨?_, registerWrite_forbidden_stays, registerWrite_unlocked_waits, heldRow_unlocked_waits, ?_, ?_, ?_, ?_⟩
  · intro v s r k q
    exact ⟨registerWrite_scratch v s r k q, registerWrite_scratch_high v s r k q, registerWrite_powerCap v s r k q, fun c =>
      ⟨registerWrite_coreStat s c r k q, registerWrite_coreStat_off v s c r k q⟩⟩
  · exact fun v s => ⟨evtHeadWrite_consumes v s, evtHeadWrite_beyond_tail v s⟩
  · exact fun n s => ⟨fun e w => ⟨eventCoalesceEnd_alone s n e w, fun x now code used room => eventCoalesceEnd_before s n e x w now code used room,
      eventCoalesceEnd_full s n e w⟩, eventCoalesceEnd_none s n⟩
  · intro a s x m
    refine ⟨debug_silent a s x m, fun p => ⟨debug_read_answers a s x m p, debug_write_refused a s x m p, debug_breakAll a s x m p, fun r =>
      State.becomes_of_done (exec_sideband_mem a s p r) rfl, fun r d => ?_, fun sp d lo hi e =>
        ⟨testConnector_writes_sram a s p sp d lo hi e, testConnector_reads_sram a s p sp d lo hi e⟩⟩⟩
    exact State.becomes_of_done (exec_testConnector_mem a s p r) (s.hw.debugMem_refused a d)
  · exact fun s => ⟨jtagBypass_selects s, jtagSamplePreload_selects s, jtagExtest_drives s, jtagExtest_released s⟩

end Sys2Proof.Machine
end

section
/-!
SUPPORT. Laws of the region map (R41 to R45): the staging registers written as they stand, what a region entry is read from, the entries that
MAP_COMMIT rejects, and the install entry by entry.
-/
namespace Sys2Proof.Machine

/-! ## A register written whole, field by field -/

theorem Loc.apart.symm {a b : Loc} (x : a.apart b) : b.apart a := by
  unfold Loc.apart at *
  obtain n | below | above := x
  · exact .inl n.symm
  · exact .inr (.inr below)
  · exact .inr (.inl above)

section
variable (h : Hw) (off size v : Nat)

/-- A write of all 8 bytes of an RW or RO field's register stores an RW field and leaves an RO one. -/
theorem Hw.get_fieldWrite_whole (l : Loc) (f : l.fits) (a : l.acc = .rw ∨ l.acc = .ro) :
    (h.fieldWrite off 8 v l).get l = if l.acc = .rw then bitsOf v l.lo l.width else h.get l := by
  obtain a | a := a
  · rw [if_pos a]
    exact Hw.get_fieldWrite_rw_covered _ _ _ _ _ f a fun _ _ => rfl
  · rw [Hw.fieldWrite_ro _ _ _ _ _ a, if_neg (by rw [a]; decide)]

theorem Hw.get_foldl_fieldWrite_other (fs : List Loc) (m : Loc) (f : ∀ l ∈ fs, l.fits) (n : ∀ l ∈ fs, l.apart m) :
    (fs.foldl (fun h l => h.fieldWrite off size v l) h).get m = h.get m := by
  induction fs generalizing h with
  | nil => rfl
  | cons l fs ih =>
    rw [List.foldl_cons, ih _ (fun x k => f x (List.mem_cons_of_mem _ k)) fun x k => n x (List.mem_cons_of_mem _ k)]
    exact Hw.get_fieldWrite_other _ _ _ _ _ _ (f l List.mem_cons_self) (n l List.mem_cons_self)

theorem Hw.get_foldl_fieldWrite_whole (fs : List Loc) (d : fs.Pairwise Loc.apart) (f : ∀ l ∈ fs, l.fits) (a : ∀ l ∈ fs, l.acc = .rw ∨ l.acc = .ro)
    (m : Loc) (mem : m ∈ fs) :
    (fs.foldl (fun h l => h.fieldWrite off 8 v l) h).get m = if m.acc = .rw then bitsOf v m.lo m.width else h.get m := by
  induction fs generalizing h with
  | nil => nomatch mem
  | cons l fs ih =>
    obtain ⟨apart, d⟩ := List.pairwise_cons.mp d
    have fits : ∀ x ∈ fs, x.fits := fun x k => f x (List.mem_cons_of_mem _ k)
    rw [List.foldl_cons]
    obtain rfl | mem := List.mem_cons.mp mem
    · rw [Hw.get_foldl_fieldWrite_other _ _ _ _ fs m fits fun x k => (apart x k).symm]
      exact h.get_fieldWrite_whole off v m (f m List.mem_cons_self) (a m List.mem_cons_self)
    · rw [ih _ d fits (fun x k => a x (List.mem_cons_of_mem _ k)) mem, Hw.get_fieldWrite_other _ _ _ _ _ _ (f l List.mem_cons_self) (apart m mem)]

theorem Hw.onlyRegs_foldl_fieldWrite (fs : List Loc) {offs : List Nat} (m : ∀ l ∈ fs, l.off ∈ offs) :
    h.onlyRegs (fs.foldl (fun h l => h.fieldWrite off size v l) h) offs := by
  induction fs generalizing h with
  | nil => exact h.onlyRegs_refl _
  | cons l fs ih =>
    exact (h.onlyRegs_fieldWrite off size v l (m l List.mem_cons_self)).trans (ih _ fun x k => m x (List.mem_cons_of_mem _ k))

end

/-! ## The staging registers (R42, R45) -/

/-- Offset of MAP_RGN_A, MAP_RGN_B or MAP_RGN_C of entry `n`. -/
def rgnOff (n : Nat) (reg : Fin 3) : Nat := if reg.val = 0 then MAP_RGN_A.off n else if reg.val = 1 then MAP_RGN_B.off n else MAP_RGN_C.off n

/-- The fields of the register at `rgnOff n reg`. -/
def rgnFields (n : Nat) (reg : Fin 3) : List Loc :=
  if reg.val = 0 then MAP_RGN_A.fields n else if reg.val = 1 then MAP_RGN_B.fields n else MAP_RGN_C.fields n

section
variable (n : Fin 16) (reg : Fin 3)

theorem regAt_rgnOff : Bar0.regAt (rgnOff n reg / 8 * 8) = rgnFields n reg := by
  revert n reg
  decide +kernel

theorem rgnFields_off : ∀ l ∈ rgnFields n reg, l.off = rgnOff n reg := by
  revert n reg
  decide +kernel

theorem rgnFields_fits : ∀ l ∈ rgnFields n reg, l.fits := by
  unfold Loc.fits
  revert n reg
  decide +kernel

theorem rgnFields_acc : ∀ l ∈ rgnFields n reg, l.acc = .rw ∨ l.acc = .ro := by
  revert n reg
  decide +kernel

/-- The fields stand from the low bits to the high ones. -/
theorem rgnFields_ascending : (rgnFields n reg).Pairwise fun a b => a.lo + a.width ≤ b.lo := by
  revert n reg
  decide +kernel

variable (h : Hw) (v : Nat)

theorem Hw.get_regFields_rgn (l : Loc) (m : l ∈ rgnFields n reg) :
    (h.regFields (rgnOff n reg) 8 v).get l = if l.acc = .rw then bitsOf v l.lo l.width else h.get l := by
  rw [Hw.regFields, regAt_rgnOff]
  have apart : (rgnFields n reg).Pairwise Loc.apart := (rgnFields_ascending n reg).imp fun below => .inr (.inl below)
  exact h.get_foldl_fieldWrite_whole _ _ _ apart (rgnFields_fits n reg) (rgnFields_acc n reg) l m

theorem Hw.onlyRegs_regFields_rgn : h.onlyRegs (h.regFields (rgnOff n reg) 8 v) [rgnOff n reg] := by
  rw [Hw.regFields, regAt_rgnOff]
  exact h.onlyRegs_foldl_fieldWrite _ _ _ _ fun l m => List.mem_singleton.mpr (rgnFields_off n reg l m)

end

/-! ## What an entry is read from -/

/-- Offsets of the words of staging entry `n`. -/
def stagedOffs (n : Nat) : List Nat := [MAP_RGN_A.off n, MAP_RGN_B.off n, MAP_RGN_C.off n]

/-- Offsets of the words of installed entry `n`. -/
def regionOffs (n : Nat) : List Nat := [MAP_INST_A.off n, MAP_INST_B.off n, MAP_INST_C.off n]

theorem mem_stagedOffs {o n : Nat} : o ∈ stagedOffs n ↔ o = 0x70100 + n * 0x20 ∨ o = 0x70108 + n * 0x20 ∨ o = 0x70110 + n * 0x20 := by
  simp [stagedOffs, MAP_RGN_A.off, MAP_RGN_B.off, MAP_RGN_C.off]

theorem mem_regionOffs {o n : Nat} : o ∈ regionOffs n ↔ o = 0x70300 + n * 0x20 ∨ o = 0x70308 + n * 0x20 ∨ o = 0x70310 + n * 0x20 := by
  simp [regionOffs, MAP_INST_A.off, MAP_INST_B.off, MAP_INST_C.off]

section
variable {a b : Hw} {offs : List Nat} (x : a.regsBut b offs)
include x

theorem Hw.staged_of_regsBut (n : Nat) (d : ∀ o ∈ stagedOffs n, o ∉ offs) : b.staged n = a.staged n := by
  simp only [stagedOffs, List.forall_mem_cons] at d
  obtain ⟨d₁, d₂, d₃, -⟩ := d
  rw [Hw.staged, Hw.staged, x _ d₁, x _ d₂, x _ d₃]

theorem Hw.region_of_regsBut (n : Nat) (d : ∀ o ∈ regionOffs n, o ∉ offs) : b.region n = a.region n := by
  simp only [regionOffs, List.forall_mem_cons] at d
  obtain ⟨d₁, d₂, d₃, -⟩ := d
  rw [Hw.region, Hw.region, x _ d₁, x _ d₂, x _ d₃]

end

section
variable {a b : Hw} (x : a.regsBut b [MAP_CTRL.off])
include x

theorem Hw.staged_of_ctrl : b.staged = a.staged := by
  funext n
  refine Hw.staged_of_regsBut x n fun o m => ?_
  rw [mem_stagedOffs] at m
  simp only [List.mem_singleton, MAP_CTRL.off]
  omega

theorem Hw.region_of_ctrl : b.region = a.region := by
  funext n
  refine Hw.region_of_regsBut x n fun o m => ?_
  rw [mem_regionOffs] at m
  simp only [List.mem_singleton, MAP_CTRL.off]
  omega

/-- Which tracked lines a staged map changes does not hang on MAP_CTRL. -/
theorem Hw.changedLines_of_ctrl (f : b.filt = a.filt) : b.changedLines = a.changedLines := by
  simp only [Hw.changedLines, Hw.linesChanged, Hw.regionOf, Hw.staged_of_ctrl x, Hw.region_of_ctrl x, f]

end

/-! ## MAP_CTRL -/

theorem mapBusy_fits : MAP_CTRL.BUSY.fits := by unfold Loc.fits; decide

theorem mapStgLost_fits : MAP_CTRL.STG_LOST.fits := by unfold Loc.fits; decide

theorem mapErr_fits : MAP_CTRL.ERR.fits := by unfold Loc.fits; decide

theorem mapErrEntry_fits : MAP_CTRL.ERR_ENTRY.fits := by unfold Loc.fits; decide

/-- A W1C bit marked by an event reads 1. -/
theorem Hw.flag_mark_same (h : Hw) (l : Loc) (f : l.fits) (w : l.width = 1) : (h.mark l).flag l = true := by
  have set : ∀ b < 2, (b ||| 2 ^ 0) % 2 ^ 1 = 1 := by decide
  have lt : h.get l < 2 := by simpa [w] using h.get_lt l
  rw [Hw.flag, Hw.mark, Hw.markBit_get, Hw.get_put_same _ _ _ f, w, set _ lt]
  rfl

theorem Hw.regsBut_mark (h : Hw) (l : Loc) : h.regsBut (h.mark l) [l.off] := (h.onlyRegs_put l _ (List.mem_singleton_self _)).1

/-- The outcome of a validation: the code and the number of the entry that it names. -/
def Hw.putMapErr (h : Hw) (n k : Nat) : Hw := h.puts [(MAP_CTRL.ERR, k), (MAP_CTRL.ERR_ENTRY, n)]

section
variable (h : Hw) (n k : Nat)

theorem Hw.onlyRegs_putMapErr : h.onlyRegs (h.putMapErr n k) [MAP_CTRL.off] :=
  (h.onlyRegs_put MAP_CTRL.ERR k (List.mem_singleton_self _)).trans (Hw.onlyRegs_put _ MAP_CTRL.ERR_ENTRY n (List.mem_singleton_self _))

theorem Hw.get_putMapErr_code (lt : k < 256) : (h.putMapErr n k).get MAP_CTRL.ERR = k := by
  have entry_code : MAP_CTRL.ERR_ENTRY.apart MAP_CTRL.ERR := .inr (.inr (by decide))
  rw [Hw.putMapErr, Hw.puts_cons, Hw.puts_cons, Hw.puts_nil, Hw.get_put_other _ _ _ _ mapErrEntry_fits entry_code,
    Hw.get_put_same _ _ _ mapErr_fits]
  exact Nat.mod_eq_of_lt lt

theorem Hw.get_putMapErr_entry (lt : n < 16) : (h.putMapErr n k).get MAP_CTRL.ERR_ENTRY = n := by
  rw [Hw.putMapErr, Hw.puts_cons, Hw.puts_cons, Hw.puts_nil, Hw.get_put_same _ _ _ mapErrEntry_fits]
  exact Nat.mod_eq_of_lt lt

theorem Hw.flag_busy_putMapErr : (h.putMapErr n k).flag MAP_CTRL.BUSY = h.flag MAP_CTRL.BUSY := by
  have code_busy : MAP_CTRL.ERR.apart MAP_CTRL.BUSY := .inr (.inr (by decide))
  have entry_busy : MAP_CTRL.ERR_ENTRY.apart MAP_CTRL.BUSY := .inr (.inr (by decide))
  rw [Hw.flag, Hw.putMapErr, Hw.puts_cons, Hw.puts_cons, Hw.puts_nil, Hw.get_put_other _ _ _ _ mapErrEntry_fits entry_busy,
    Hw.get_put_other _ _ _ _ mapErr_fits code_busy, Hw.flag]

end

/-! ## Staging writes -/

section
variable (n : Fin 16) (reg : Fin 3) (v : BitVec 64) (s : State)

theorem mapStagingWrite_stores (b : s.hw.flag MAP_CTRL.BUSY = false) : s.becomes (.mapStagingWrite n reg v) fun t =>
    t = { s.hw with csr := t.csr } ∧
      (∀ l ∈ rgnFields n reg, t.get l = if l.acc = .rw then bitsOf v.toNat l.lo l.width else s.hw.get l) ∧ s.hw.regsBut t [rgnOff n reg] := by
  have e : exec (.mapStagingWrite n reg v) s = done s (s.hw.regFields (rgnOff n reg) 8 v.toNat) := if_neg (by rw [b]; decide)
  obtain ⟨words, frame⟩ := s.hw.onlyRegs_regFields_rgn n reg v.toNat
  exact State.becomes_of_done e ⟨frame, fun l m => s.hw.get_regFields_rgn n reg v.toNat l m, words⟩

/-- A staging write during an install is lost. -/
theorem mapStagingWrite_lost (b : s.hw.flag MAP_CTRL.BUSY = true) : s.becomes (.mapStagingWrite n reg v) fun t =>
    t.flag MAP_CTRL.STG_LOST = true ∧ ∀ m, t.staged m = s.hw.staged m := by
  have e : exec (.mapStagingWrite n reg v) s = done s (s.hw.mark MAP_CTRL.STG_LOST) := if_pos b
  refine State.becomes_of_done e ⟨s.hw.flag_mark_same _ mapStgLost_fits rfl, fun m => ?_⟩
  rw [Hw.staged_of_ctrl (s.hw.regsBut_mark MAP_CTRL.STG_LOST)]

end

/-! ## MAP_COMMIT -/

theorem regionCode_le (rs : List Region) (locked : Nat → Bool) (limit slice : Nat) (running : Bool) (n : Nat) :
    regionCode rs locked limit slice running n ≤ 9 := by
  unfold regionCode
  dsimp only
  repeat' split
  all_goals decide

/-- What a validation reports fits the fields that show it. -/
theorem mapErr_lt {rs : List Region} {locked : Nat → Bool} {limit slice : Nat} {running : Bool} {n k : Nat}
    (e : mapErr rs locked limit slice running = some (n, k)) : n < 16 ∧ k < 256 := by
  obtain ⟨m, mem, found⟩ := List.exists_of_findSome?_eq_some e
  dsimp only at found
  split at found
  · nomatch found
  · obtain ⟨rfl, rfl⟩ := Prod.mk.inj (Option.some.inj found)
    exact ⟨List.mem_range.mp mem, Nat.lt_of_le_of_lt (regionCode_le ..) (by decide)⟩

/-- The validation of the staging entries. -/
def Hw.stagedErr (h : Hw) : Option (Nat × Nat) :=
  mapErr ((List.range 16).map h.staged) (fun n => (h.region n).lock) h.rsvLo h.rsvSlice (h.get IMG_STAT.STATE == 3)

section
variable (h : Hw) (b : h.flag MAP_CTRL.BUSY = false)
include b

theorem Hw.mapCommit_failed {n k : Nat} (r : h.stagedErr = some (n, k)) : h.mapCommit = h.putMapErr n k := by
  rw [Hw.stagedErr] at r
  rw [Hw.mapCommit, if_neg (by rw [b]; decide), r]
  rfl

theorem Hw.mapCommit_passed (r : h.stagedErr = none) (c : h.changedLines = []) :
    h.mapCommit = (h.putMapErr 0 0).put MAP_CTRL.BUSY 1 := by
  obtain ⟨words, -⟩ := h.onlyRegs_putMapErr 0 0
  have lines : (h.puts [(MAP_CTRL.ERR, 0), (MAP_CTRL.ERR_ENTRY, 0)]).changedLines = [] := (Hw.changedLines_of_ctrl words rfl).trans c
  rw [Hw.stagedErr] at r
  rw [Hw.mapCommit, if_neg (by rw [b]; decide), r]
  dsimp only
  rw [lines]
  rfl

end

section
variable (s : State) (b : s.hw.flag MAP_CTRL.BUSY = false)
include b

/-- The first failing entry is reported, and no entry changes. -/
theorem mapCommit_reports {n k : Nat} (r : s.hw.stagedErr = some (n, k)) : s.becomes .mapCommit fun t =>
    t = { s.hw with csr := t.csr } ∧ t.get MAP_CTRL.ERR = k ∧ t.get MAP_CTRL.ERR_ENTRY = n ∧ t.flag MAP_CTRL.BUSY = false ∧
      s.hw.regsBut t [MAP_CTRL.off] := by
  obtain ⟨n_lt, k_lt⟩ := mapErr_lt r
  obtain ⟨words, frame⟩ := s.hw.onlyRegs_putMapErr n k
  refine State.becomes_of_done (congrArg (done s) (s.hw.mapCommit_failed b r)) ⟨frame, ?_, ?_, ?_, words⟩
  · exact s.hw.get_putMapErr_code n k k_lt
  · exact s.hw.get_putMapErr_entry n k n_lt
  · rw [Hw.flag_busy_putMapErr, b]

/-- Where every entry passes and no tracked line changes, the install begins at once. -/
theorem mapCommit_begins (r : s.hw.stagedErr = none) (c : s.hw.changedLines = []) : s.becomes .mapCommit fun t =>
    t = { s.hw with csr := t.csr } ∧ t.flag MAP_CTRL.BUSY = true ∧ t.get MAP_CTRL.ERR = 0 ∧ s.hw.regsBut t [MAP_CTRL.off] := by
  have busy_code : MAP_CTRL.BUSY.apart MAP_CTRL.ERR := .inr (.inl (by decide))
  obtain ⟨words, frame⟩ := (s.hw.onlyRegs_putMapErr 0 0).trans (Hw.onlyRegs_put _ MAP_CTRL.BUSY 1 (List.mem_singleton_self _))
  refine State.becomes_of_done (congrArg (done s) (s.hw.mapCommit_passed b r c)) ⟨frame, ?_, ?_, words⟩
  · exact Hw.flag_put_same _ MAP_CTRL.BUSY true mapBusy_fits rfl
  · rw [Hw.get_put_other _ _ _ _ mapBusy_fits busy_code, Hw.get_putMapErr_code _ _ _ (by decide)]

end

/-! ## MAP_INSTALL_DONE -/

/-- Bits of a word apart from those replaced. -/
theorem bitsOf_setBits_other (w : BitVec 64) (lo width v lo' width' : Nat) (f : lo + width ≤ 64) (n : lo + width ≤ lo' ∨ lo' + width' ≤ lo) :
    bitsOf (setBits w lo width v).toNat lo' width' = bitsOf w.toNat lo' width' := by
  apply Nat.eq_of_testBit_eq
  intro i
  rw [bitsOf_testBit, bitsOf_testBit, setBits_testBit _ _ _ _ _ f]
  by_cases lt : i < width'
  · rw [if_neg (by omega)]
  · simp [lt]

/-- LOCK is bit 1 of an entry's first word and of no other part of the entry. -/
theorem Region.ofWords_setLock (w : BitVec 64) (b c v : Nat) :
    Region.ofWords (setBits w 1 1 v).toNat b c = { Region.ofWords w.toNat b c with lock := v.testBit 0 } := by
  have bits (lo width : Nat) (n : 2 ≤ lo) : bitsOf (setBits w 1 1 v).toNat lo width = bitsOf w.toNat lo width :=
    bitsOf_setBits_other _ _ _ _ _ _ (by decide) (.inl n)
  have valid : bitAt (setBits w 1 1 v).toNat 0 = bitAt w.toNat 0 := setBits_testBit w 1 1 v 0 (by decide)
  have lock : bitAt (setBits w 1 1 v).toNat 1 = v.testBit 0 := setBits_testBit w 1 1 v 1 (by decide)
  simp [Region.ofWords, bits, valid, lock]

/-- The words of staging entry `n` made those of the installed one, its LOCK bit aside. -/
def Hw.installEntry (h : Hw) (n : Nat) : Hw :=
  (((h.setWord (MAP_INST_A.off n) (h.word (MAP_RGN_A.off n))).put (MAP_INST_A.LOCK n) (h.get (MAP_INST_A.LOCK n))).setWord
    (MAP_INST_B.off n) (h.word (MAP_RGN_B.off n))).setWord (MAP_INST_C.off n) (h.word (MAP_RGN_C.off n))

theorem Hw.mapInstall_eq (h : Hw) : h.mapInstall = foldUp 16 (fun n g => g.installEntry n) h := rfl

section
variable (h : Hw) (n : Nat)

theorem Hw.onlyRegs_installEntry : h.onlyRegs (h.installEntry n) (regionOffs n) :=
  have a : MAP_INST_A.off n ∈ regionOffs n := List.mem_cons_self
  have b : MAP_INST_B.off n ∈ regionOffs n := List.mem_cons_of_mem _ List.mem_cons_self
  have c : MAP_INST_C.off n ∈ regionOffs n := List.mem_cons_of_mem _ (List.mem_cons_of_mem _ List.mem_cons_self)
  (((h.onlyRegs_setWord _ _ a).trans (Hw.onlyRegs_put _ _ _ a)).trans (Hw.onlyRegs_setWord _ _ _ b)).trans (Hw.onlyRegs_setWord _ _ _ c)

theorem Hw.region_installEntry_same : (h.installEntry n).region n = { h.staged n with lock := (h.region n).lock } := by
  have a_b : MAP_INST_A.off n ≠ MAP_INST_B.off n := by unfold MAP_INST_A.off MAP_INST_B.off; omega
  have a_c : MAP_INST_A.off n ≠ MAP_INST_C.off n := by unfold MAP_INST_A.off MAP_INST_C.off; omega
  have b_c : MAP_INST_B.off n ≠ MAP_INST_C.off n := by unfold MAP_INST_B.off MAP_INST_C.off; omega
  have first : (h.installEntry n).word (MAP_INST_A.off n) = setBits (h.word (MAP_RGN_A.off n)) 1 1 (h.get (MAP_INST_A.LOCK n)) := by
    rw [Hw.installEntry, Hw.word_setWord_other _ _ _ _ a_c, Hw.word_setWord_other _ _ _ _ a_b, Hw.put]
    exact (Hw.word_setWord_same _ _ _).trans (congrArg (setBits · 1 1 _) (Hw.word_setWord_same _ _ _))
  have second : (h.installEntry n).word (MAP_INST_B.off n) = h.word (MAP_RGN_B.off n) := by
    rw [Hw.installEntry, Hw.word_setWord_other _ _ _ _ b_c, Hw.word_setWord_same]
  have third : (h.installEntry n).word (MAP_INST_C.off n) = h.word (MAP_RGN_C.off n) := Hw.word_setWord_same _ _ _
  have lock : (h.get (MAP_INST_A.LOCK n)).testBit 0 = (h.region n).lock := h.testBit_get (MAP_INST_A.LOCK n) 0
  rw [Hw.region, first, second, third, Region.ofWords_setLock, lock]
  rfl

theorem Hw.region_installEntry_other (m : Nat) (d : m ≠ n) : (h.installEntry n).region m = h.region m := by
  refine Hw.region_of_regsBut (h.onlyRegs_installEntry n).1 m fun o x y => ?_
  rw [mem_regionOffs] at x y
  omega

theorem Hw.staged_installEntry (m : Nat) (lt : m < 16) : (h.installEntry n).staged m = h.staged m := by
  refine Hw.staged_of_regsBut (h.onlyRegs_installEntry n).1 m fun o x y => ?_
  rw [mem_stagedOffs] at x
  rw [mem_regionOffs] at y
  omega

end

theorem foldUp_succ {σ : Type} (n : Nat) (f : Nat → σ → σ) (x : σ) : foldUp (n + 1) f x = f n (foldUp n f x) := by
  simp only [foldUp, List.range_succ, List.foldl_append, List.foldl_cons, List.foldl_nil]

section
variable (h : Hw)

theorem Hw.staged_foldUp_installEntry (k m : Nat) (lt : m < 16) : (foldUp k (fun n g => g.installEntry n) h).staged m = h.staged m :=
  foldUp_keeps (fun g : Hw => g.staged m = h.staged m) _ _ _ rfl fun n g e => (g.staged_installEntry n m lt).trans e

/-- The entries below `k` are installed. -/
theorem Hw.region_foldUp_installEntry (k m : Nat) (le : k ≤ 16) : (foldUp k (fun n g => g.installEntry n) h).region m =
    if m < k then { h.staged m with lock := (h.region m).lock } else h.region m := by
  induction k with
  | zero => rfl
  | succ k ih =>
    specialize ih (by omega)
    rw [foldUp_succ]
    obtain rfl | d := Decidable.em (m = k)
    · rw [if_neg (Nat.lt_irrefl m)] at ih
      rw [if_pos (by omega), Hw.region_installEntry_same, Hw.staged_foldUp_installEntry _ _ _ (by omega), ih]
    · rw [Hw.region_installEntry_other _ _ _ d, ih]
      simp only [show m < k + 1 ↔ m < k by omega]

theorem Hw.mapInstall_frame : h.mapInstall = { h with csr := h.mapInstall.csr } := by
  rw [Hw.mapInstall_eq]
  refine foldUp_keeps (fun g : Hw => g = { h with csr := g.csr }) _ _ _ rfl fun n g e => ?_
  obtain ⟨-, frame⟩ := g.onlyRegs_installEntry n
  rw [frame, e]

theorem Hw.serveHeld_none (e : h.hostHeld = []) : h.serveHeld = h := by
  rw [Hw.serveHeld, e]
  cases h
  cases e
  rfl

end

section
variable (s : State) (b : s.hw.flag MAP_CTRL.BUSY = true) (c : s.hw.changedLines = []) (q : s.hw.hostHeld = [])
include b c q

theorem exec_mapInstallDone_installs : exec .mapInstallDone s = done s (s.hw.mapInstall.put MAP_CTRL.BUSY 0) := by
  have held : (s.hw.mapInstall.put MAP_CTRL.BUSY 0).hostHeld = [] := by rw [Hw.put_hostHeld, Hw.mapInstall_frame, q]
  change execMapInstallDone s = _
  rw [execMapInstallDone, if_neg (by simp [b, c])]
  simp only [Hw.serveHeld_none _ held, ite_self]

/-- The staging entries become the installed ones but for their LOCK bits, and the install is over (R41). -/
theorem mapInstallDone_installs : s.becomes .mapInstallDone fun t => t = { s.hw with csr := t.csr } ∧ t.flag MAP_CTRL.BUSY = false ∧
    ∀ n, n < 16 → t.region n = { s.hw.staged n with lock := (s.hw.region n).lock } ∧ t.staged n = s.hw.staged n := by
  obtain ⟨words, frame⟩ := s.hw.mapInstall.onlyRegs_put MAP_CTRL.BUSY 0 (List.mem_singleton_self _)
  refine State.becomes_of_done (exec_mapInstallDone_installs s b c q) ⟨?_, Hw.flag_put_same _ _ false mapBusy_fits rfl, fun n lt => ⟨?_, ?_⟩⟩
  · rw [frame, Hw.mapInstall_frame]
  · rw [Hw.region_of_ctrl words, Hw.mapInstall_eq, Hw.region_foldUp_installEntry _ _ _ (Nat.le_refl _), if_pos lt]
  · rw [Hw.staged_of_ctrl words, Hw.mapInstall_eq, Hw.staged_foldUp_installEntry _ _ _ lt]

end

/-! ## RSV_NEXT -/

theorem rsvNext_fits : MAP_RESERVE.RSV_NEXT.fits := by unfold Loc.fits; decide

/-- RSV_NEXT and flash hold the bounded value; the reserve in force does not move before the next cold start (R34). -/
theorem rsvNextWrite_stores (v : BitVec 6) (s : State) : s.becomes (.rsvNextWrite v) fun t =>
    t.flash.rsv = max 1 (min 32 v.toNat) ∧ t.get MAP_RESERVE.RSV_NEXT = max 1 (min 32 v.toNat) ∧ t.rsvLo = s.hw.rsvLo ∧
      s.hw.regsBut t [MAP_RESERVE.off] := by
  have next_now : MAP_RESERVE.RSV_NEXT.apart MAP_RESERVE.RSV_NOW := .inr (.inr (by decide))
  have lt : max 1 (min 32 v.toNat) < 2 ^ 6 := by omega
  refine State.becomes_of_done (h := (s.hw.modFlash fun f => { f with rsv := max 1 (min 32 v.toNat) }).put MAP_RESERVE.RSV_NEXT _) rfl
    ⟨rfl, ?_, ?_, ?_⟩
  · rw [Hw.get_put_same _ _ _ rsvNext_fits]
    exact Nat.mod_eq_of_lt lt
  · rw [Hw.rsvLo, Hw.rsvBytes, Hw.get_put_other _ _ _ _ rsvNext_fits next_now]
    rfl
  · exact (Hw.onlyRegs_put _ MAP_RESERVE.RSV_NEXT _ (List.mem_singleton_self _)).1

end Sys2Proof.Machine
end

section
/-!
The statement of this family, assembled from the laws of the region map.
-/
namespace Sys2Proof.Machine

/-- Settles O19, clause by clause: staging writes, MAP_COMMIT, the install by induction on its entries, and RSV_NEXT. -/
theorem regionMap : Obligations.RegionMap := by
  unfold Obligations.RegionMap
  exact ⟨mapStagingWrite_stores, mapStagingWrite_lost, fun s b => ⟨fun _ _ => mapCommit_reports s b, mapCommit_begins s b⟩,
    mapInstallDone_installs, rsvNextWrite_stores⟩

end Sys2Proof.Machine
end

section
/-!
SUPPORT. Laws of feed zones (R82 to R91): what the record of an event leaves unchanged, what deciding a wire-level and counting a correction leave
unchanged, and the rules of FEED_ZONE_START, FEED_ZONE_END, FZ_FORCE and VERIFY_FEED_ZONE.
-/
namespace Sys2Proof.Machine

/-! ## What column work and its events may change -/

/-- From `a` to `b` nothing changed but column states, the registers of the event block (those below 0x20000), the registers at `offs`, the noted W1C
bits, and what a record of an event leaves outside the registers. -/
def Hw.colWork (offs : List Nat) (a b : Hw) : Prop :=
  (∀ o, 0x20000 ≤ o → o ∉ offs → b.word o = a.word o) ∧
    b = { a with csr := b.csr, cols := b.cols, setNow := b.setNow, evt := b.evt, out := b.out, msix := b.msix }

section
variable {offs : List Nat} {a b c : Hw}

theorem Hw.colWork.refl (h : Hw) : Hw.colWork offs h h := ⟨fun _ _ _ => rfl, rfl⟩

theorem Hw.colWork.trans (x : Hw.colWork offs a b) (y : Hw.colWork offs b c) : Hw.colWork offs a c := by
  obtain ⟨wordsX, frameX⟩ := x
  obtain ⟨wordsY, frameY⟩ := y
  refine ⟨fun o lo n => (wordsY o lo n).trans (wordsX o lo n), ?_⟩
  rw [frameY, frameX]

theorem Hw.colWork.mode (x : Hw.colWork offs a b) : b.mode = a.mode := by
  obtain ⟨-, frame⟩ := x
  rw [frame]

theorem Hw.colWork.dram (x : Hw.colWork offs a b) : b.dram = a.dram := by
  obtain ⟨-, frame⟩ := x
  rw [frame]

theorem Hw.colWork.get (x : Hw.colWork offs a b) (l : Loc) (lo : 0x20000 ≤ l.off) (n : l.off ∉ offs) : b.get l = a.get l := by
  obtain ⟨words, -⟩ := x
  rw [Hw.get, Hw.get, words l.off lo n]

/-- What every step of a fold may change, the fold may change. -/
theorem Hw.colWork.foldl {α : Type} (f : Hw → α → Hw) (step : ∀ g x, Hw.colWork offs g (f g x)) (l : List α) (h : Hw) :
    Hw.colWork offs h (l.foldl f h) := by
  induction l generalizing h with
  | nil => exact .refl h
  | cons x l ih => exact (step h x).trans (ih (f h x))

theorem Hw.colWork_setCol (h : Hw) (k : Nat) (v : Col) : Hw.colWork offs h (h.setCol k v) := ⟨fun _ _ _ => rfl, rfl⟩

theorem Hw.colWork_modCol (h : Hw) (k : Nat) (f : Col → Col) : Hw.colWork offs h (h.modCol k f) := h.colWork_setCol k _

theorem Hw.colWork_setWord (h : Hw) (o : Nat) (v : W64) (m : o < 0x20000 ∨ o ∈ offs) : Hw.colWork offs h (h.setWord o v) := by
  refine ⟨fun p lo n => Hw.word_setWord_other _ _ _ _ ?_, rfl⟩
  rintro rfl
  obtain below | mem := m
  · omega
  · exact n mem

theorem Hw.colWork_put (h : Hw) (l : Loc) (v : Nat) (m : l.off < 0x20000 ∨ l.off ∈ offs) : Hw.colWork offs h (h.put l v) := h.colWork_setWord _ _ m

theorem Hw.colWork_mark (h : Hw) (l : Loc) (m : l.off < 0x20000 ∨ l.off ∈ offs) : Hw.colWork offs h (h.mark l) := by
  obtain ⟨words, -⟩ := h.colWork_put l (h.get l ||| 2 ^ 0) m
  exact ⟨words, rfl⟩

end

/-! ## The record of an event -/

section
variable {offs : List Nat} (h : Hw) (e : Ev)

theorem Hw.colWork_raise (v : Nat) : Hw.colWork offs h (h.raise v) := ⟨fun _ _ _ => rfl, rfl⟩

theorem Hw.colWork_noteNow (l : List Ev) : Hw.colWork offs h (h.noteNow l) := ⟨fun _ _ _ => rfl, rfl⟩

theorem Hw.colWork_evRaise : Hw.colWork offs h (h.evRaise e) := by
  unfold Hw.evRaise
  split
  · exact h.colWork_raise 0
  · exact .refl h

theorem Hw.colWork_evLog : Hw.colWork offs h (h.evLog e) := by
  unfold Hw.evLog
  dsimp only
  split <;> exact ⟨fun _ _ _ => rfl, rfl⟩

theorem Hw.colWork_evLose : Hw.colWork offs h h.evLose := by
  have stat : EVT_STAT.off < 0x20000 := by decide
  unfold Hw.evLose
  refine .trans (.trans ?_ (Hw.colWork_mark _ EVT_STAT.OVF (.inl stat))) (Hw.colWork_put _ EVT_STAT.LOST _ (.inl stat))
  split
  · exact h.colWork_raise 0
  · exact .refl h

theorem Hw.colWork_evSlot (n phase : Nat) (lt : n < 1024) : Hw.colWork offs h (h.evSlot n phase e) := by
  have slot (i : Nat) (i_lt : i < 4) : EVT_REC.off (4 * n + i) < 0x20000 ∨ EVT_REC.off (4 * n + i) ∈ offs := .inl (by rw [evtRec_off]; omega)
  rw [Hw.evSlot_eq]
  exact (((Hw.colWork_setWord _ _ _ (slot 3 (by decide))).trans (Hw.colWork_setWord _ _ _ (slot 2 (by decide)))).trans
    (Hw.colWork_setWord _ _ _ (slot 1 (by decide)))).trans (Hw.colWork_setWord _ _ _ (slot 0 (by decide)))

theorem Hw.colWork_evFill : Hw.colWork offs h (h.evFill e) := by
  unfold Hw.evFill
  exact foldUp_keeps (Hw.colWork offs h) _ _ _ (.refl h) fun _ g k => k.trans (g.colWork_evSlot _ _ _ (Nat.mod_lt _ (by decide)))

theorem Hw.colWork_evKeep : Hw.colWork offs h (h.evKeep e) := by
  have tail : EVT_TAIL.off < 0x20000 := by decide
  unfold Hw.evKeep
  refine .trans ?_ (Hw.colWork_evRaise _ e)
  have noted := ((h.colWork_evFill (offs := offs) e).trans (Hw.colWork_put _ EVT_TAIL.TAIL (h.get EVT_TAIL.TAIL + 1) (.inl tail))).trans
    (Hw.colWork_noteNow _ (evPlace e (h.evt.now.drop (h.evt.now.length - h.evtUsed))))
  split
  · exact noted.trans (Hw.colWork_put _ EVT_TAIL.PHASE _ (.inl tail))
  · exact noted

/-- A record changes no register beyond the event block, and nothing else of the module but its logs and interrupts. -/
theorem Hw.colWork_evWrite : Hw.colWork offs h (h.evWrite e) := by
  rw [Hw.evWrite_eq]
  refine (h.colWork_evLog e).trans ?_
  split
  · exact Hw.colWork_evLose _
  · exact Hw.colWork_evKeep _ e

theorem Hw.colWork_ev (code sev skind sindex arg0 arg1 : Nat) : Hw.colWork offs h (h.ev code sev skind sindex arg0 arg1) := h.colWork_evWrite _

end

/-! ## The registers of a column's feed zones -/

section
variable (c : Nat)

theorem fzColA_off_ge : 0x20000 ≤ FZ_COL_A.off c := by unfold FZ_COL_A.off towerBase; omega

theorem fzColB_off_ge : 0x20000 ≤ FZ_COL_B.off c := by unfold FZ_COL_B.off towerBase; omega

theorem fzColB_ne_fzColA : FZ_COL_B.off c ≠ FZ_COL_A.off c := by unfold FZ_COL_B.off FZ_COL_A.off; omega

theorem fzActive_fits : (FZ_COL_A.ACTIVE c).fits := show 7 + 1 ≤ 64 by decide

theorem fzPassKept_fits : (FZ_COL_A.PASS_KEPT c).fits := show 8 + 1 ≤ 64 by decide

theorem fzInterval_fits : (FZ_COL_A.INTERVAL c).fits := show 0 + 7 ≤ 64 by decide

theorem fzVerifyFail_fits : (FZ_COL_A.VERIFY_FAIL c).fits := show 16 + 1 ≤ 64 by decide

theorem fzZones_fits : (FZ_COL_B.ZONES c).fits := show 0 + 16 ≤ 64 by decide

theorem tmcOwed_fits : (TMC_COL_B.OWED c).fits := show 8 + 18 ≤ 64 by decide

theorem tmcFlush_fits : (TMC_COL_B.FLUSH c).fits := show 27 + 1 ≤ 64 by decide

theorem active_apart_passKept : (FZ_COL_A.ACTIVE c).apart (FZ_COL_A.PASS_KEPT c) := .inr (.inl (show 7 + 1 ≤ 8 by decide))

theorem verifyFail_apart_interval : (FZ_COL_A.VERIFY_FAIL c).apart (FZ_COL_A.INTERVAL c) := .inr (.inr (show 0 + 7 ≤ 16 by decide))

theorem flush_apart_owed : (TMC_COL_B.FLUSH c).apart (TMC_COL_B.OWED c) := .inr (.inr (show 8 + 18 ≤ 27 by decide))

/-- Fields of FZ_COL_A and of FZ_COL_B share no bit. -/
theorem apart_zones {l : Loc} (o : l.off = FZ_COL_A.off c) : l.apart (FZ_COL_B.ZONES c) := .inl (o ▸ (fzColB_ne_fzColA c).symm)

end

theorem Hw.flag_put_other (h : Hw) (l m : Loc) (v : Nat) (f : l.fits) (n : l.apart m) : (h.put l v).flag m = h.flag m := by
  rw [Hw.flag, Hw.get_put_other _ _ _ _ f n, Hw.flag]

@[simp] theorem Hw.flag_modCol (h : Hw) (c : Nat) (f : Col → Col) (l : Loc) : (h.modCol c f).flag l = h.flag l := rfl

@[simp] theorem Hw.col_put (h : Hw) (l : Loc) (v c : Nat) : (h.put l v).col c = h.col c := rfl

/-- A live count reads as its saturated sum. -/
theorem Hw.get_count_same (h : Hw) (l : Loc) (n : Nat) (f : l.fits) : (h.count l n).get l = satAdd l.width (h.get l) n := by
  have : 0 < 2 ^ l.width := Nat.two_pow_pos _
  rw [Hw.count, Hw.get_put_same _ _ _ f, Nat.mod_eq_of_lt]
  unfold satAdd
  omega

/-! ## FEED_ZONE_START -/

section
variable (h : Hw) (c : Nat) (burst : List BurstRead)

/-- A zone may start where none of the conditions that hold it back stands. -/
theorem Hw.zoneMay_iff : h.zoneMay c ↔
    ¬ (h.flag (FZ_COL_A.ACTIVE c) ∨ (h.col c).selfRef ∨ h.pllOff ∨ h.mode.verify.contains c ∨ ¬ h.mode.trained ∨
      ¬ h.flag (PWR_DOM.ON (8 + c / 64)) ∨ ¬ h.flag (PWR_DOM.ON (16 + c / 64))) := by
  simp only [Hw.zoneMay, not_or, Bool.not_eq_true, Bool.not_eq_false]

theorem Hw.zoneStart_held (m : ¬ h.zoneMay c) : h.zoneStart c burst = h := by
  rw [Hw.zoneMay_iff, Classical.not_not] at m
  exact if_pos m

/-- The module at whose column `c` a zone begins: ACTIVE, and no longer due. -/
def Hw.zoneBegun : Hw := (h.put (FZ_COL_A.ACTIVE c) 1).modCol c fun k => { k with due := false }

/-- A zone takes the full counters of the pass kept, which it spends. -/
def Hw.zoneTakeKept : Hw :=
  (h.modCol c fun k => { k with zone := { cells := fullCells k.kept }, kept := [] }).put (FZ_COL_A.PASS_KEPT c) 0

/-- A zone takes the full counters of the pass under way, which it clears. -/
def Hw.zoneTakeSamples : Hw := h.modCol c fun k =>
  { k with zone := { cells := fullCells k.samples },
           samples := k.samples.filter fun e => !(fullCells k.samples).any fun x => x.wire == e.1 / 12 && x.level == e.1 / 2 % 6 }

theorem Hw.zoneBegun_passKept : (h.zoneBegun c).flag (FZ_COL_A.PASS_KEPT c) = h.flag (FZ_COL_A.PASS_KEPT c) := by
  rw [Hw.zoneBegun, Hw.flag_modCol]
  exact Hw.flag_put_other _ _ _ _ (fzActive_fits c) (active_apart_passKept c)

theorem Hw.zoneBegun_active : (h.zoneBegun c).flag (FZ_COL_A.ACTIVE c) = true := Hw.flag_put_same _ _ true (fzActive_fits c) rfl

theorem Hw.zoneBegun_col : (h.zoneBegun c).col c = { h.col c with due := false } := Hw.col_modCol_same _ _ _

theorem Hw.zoneBegun_col_other (j : Nat) (ne : j ≠ c) : (h.zoneBegun c).col j = h.col j := Hw.col_modCol_other _ _ _ _ ne

theorem Hw.zoneStart_kept (m : h.zoneMay c) (k : h.flag (FZ_COL_A.PASS_KEPT c) = true) :
    h.zoneStart c burst = (h.zoneBegun c).zoneTakeKept c := by
  have kept := (h.zoneBegun_passKept c).trans k
  rw [Hw.zoneBegun] at kept
  rw [Hw.zoneMay_iff] at m
  rw [Hw.zoneStart, if_neg m]
  simp only [kept, if_true]
  rfl

theorem Hw.zoneStart_samples (m : h.zoneMay c) (k : h.flag (FZ_COL_A.PASS_KEPT c) = false) :
    h.zoneStart c [] = (h.zoneBegun c).zoneTakeSamples c := by
  have kept := (h.zoneBegun_passKept c).trans k
  rw [Hw.zoneBegun] at kept
  rw [Hw.zoneMay_iff] at m
  rw [Hw.zoneStart, if_neg m]
  simp only [kept, List.foldl_nil, Option.isSome_none, Bool.false_eq_true, if_false]
  rfl

end

/-- `t` is `h` with a zone begun at column `c` that has the wire-levels `cells` to decide. -/
def Hw.zoneRuns (h : Hw) (c : Nat) (cells : List ZoneCell) (t : Hw) : Prop :=
  t.flag (FZ_COL_A.ACTIVE c) = true ∧ t.flag (FZ_COL_A.PASS_KEPT c) = false ∧ (t.col c).due = false ∧ (t.col c).zone.cells = cells ∧
    t = { h with csr := t.csr, cols := t.cols } ∧ ∀ j, j ≠ c → t.col j = h.col j

section
variable (c : Fin 512) (burst : List BurstRead) (s : State)

/-- A zone with a pass kept decides that pass alone (R84; log 55). -/
theorem feedZoneStart_kept (m : s.hw.zoneMay c) (k : s.hw.flag (FZ_COL_A.PASS_KEPT c) = true) :
    s.becomes (.feedZoneStart c burst) (s.hw.zoneRuns c (fullCells (s.hw.col c).kept)) := by
  refine State.becomes_of_done (congrArg (done s) (s.hw.zoneStart_kept c burst m k)) ?_
  unfold Hw.zoneTakeKept
  refine ⟨?_, ?_, ?_, ?_, rfl, fun j ne => ?_⟩
  · rw [Hw.flag_put_other _ _ _ _ (fzPassKept_fits c) (active_apart_passKept c).symm, Hw.flag_modCol, Hw.zoneBegun_active]
  · exact Hw.flag_put_same _ _ false (fzPassKept_fits c) rfl
  · rw [Hw.col_put, Hw.col_modCol_same, Hw.zoneBegun_col]
  · rw [Hw.col_put, Hw.col_modCol_same, Hw.zoneBegun_col]
  · rw [Hw.col_put, Hw.col_modCol_other _ _ _ _ ne, Hw.zoneBegun_col_other _ _ _ ne]

/-- A zone without a pass kept and without a pattern burst decides the counters as they stand. -/
theorem feedZoneStart_samples (m : s.hw.zoneMay c) (k : s.hw.flag (FZ_COL_A.PASS_KEPT c) = false) :
    s.becomes (.feedZoneStart c []) (s.hw.zoneRuns c (fullCells (s.hw.col c).samples)) := by
  refine State.becomes_of_done (congrArg (done s) (s.hw.zoneStart_samples c m k)) ?_
  unfold Hw.zoneTakeSamples
  refine ⟨?_, ?_, ?_, ?_, rfl, fun j ne => ?_⟩
  · rw [Hw.flag_modCol, Hw.zoneBegun_active]
  · rw [Hw.flag_modCol, Hw.zoneBegun_passKept, k]
  · rw [Hw.col_modCol_same, Hw.zoneBegun_col]
  · rw [Hw.col_modCol_same, Hw.zoneBegun_col]
  · rw [Hw.col_modCol_other _ _ _ _ ne, Hw.zoneBegun_col_other _ _ _ ne]

theorem feedZoneStart_starts (m : s.hw.zoneMay c) (b : burst = [] ∨ s.hw.flag (FZ_COL_A.PASS_KEPT c) = true) :
    s.becomes (.feedZoneStart c burst)
      (s.hw.zoneRuns c (fullCells (if s.hw.flag (FZ_COL_A.PASS_KEPT c) then (s.hw.col c).kept else (s.hw.col c).samples))) := by
  cases k : s.hw.flag (FZ_COL_A.PASS_KEPT c) with
  | true => exact feedZoneStart_kept c burst s m k
  | false =>
    obtain rfl | kept := b
    · exact feedZoneStart_samples c s m k
    · rw [k] at kept
      nomatch kept

theorem feedZoneStart_held (m : ¬ s.hw.zoneMay c) : s.stays (.feedZoneStart c burst) :=
  State.stays_of_done (congrArg (done s) (s.hw.zoneStart_held c burst m))

end

/-! ## FEED_ZONE_END -/

section
variable (h : Hw) (c : Nat)

theorem Hw.colWork_decideWire (x : ZoneCell) : Hw.colWork [FZ_COL_A.off c] h (Hw.decideWire c h x) := by
  have mem : FZ_COL_A.off c < 0x20000 ∨ FZ_COL_A.off c ∈ [FZ_COL_A.off c] := .inr (List.mem_singleton_self _)
  unfold Hw.decideWire
  dsimp only
  split
  · exact ((h.colWork_setCol c _).trans (Hw.colWork_mark _ (FZ_COL_A.ANY_LOW c) mem)).trans (Hw.colWork_ev _ _ _ _ _ _ _)
  · exact (h.colWork_setCol c _).trans (Hw.colWork_put _ (FZ_COL_A.ANY_SUSPECT c) _ mem)

/-- The wire-levels left to a zone decided, and its calibration rows closed. -/
def Hw.zoneDecided : Hw := ((h.col c).zone.cells.foldl (Hw.decideWire c) h).calClose c

theorem Hw.colWork_zoneDecided : Hw.colWork [FZ_COL_A.off c] h (h.zoneDecided c) :=
  (Hw.colWork.foldl _ (fun g x => g.colWork_decideWire c x) _ h).trans (Hw.colWork_modCol _ _ _)

/-- What a zone in progress ends with, whatever it has found. -/
theorem Hw.zoneEnd_active (a : h.flag (FZ_COL_A.ACTIVE c) = true) : ∃ temps moved suspect next, h.zoneEnd c =
    ((((((h.zoneDecided c).modCol c fun k => { k with zone := {}, temps := temps }).put (FZ_COL_A.LAST_MOVED c) moved).put
      (FZ_COL_A.ANY_SUSPECT c) suspect).put (FZ_COL_A.INTERVAL c) next).put (FZ_COL_A.ACTIVE c) 0).count (FZ_COL_B.ZONES c) 1 :=
  ⟨_, _, _, _, if_neg (by rw [a]; decide)⟩

theorem Hw.zoneEnd_idle (a : h.flag (FZ_COL_A.ACTIVE c) = false) : h.zoneEnd c = h := if_pos (by rw [a]; decide)

end

section
variable (c : Fin 512) (s : State)

theorem feedZoneEnd_ends (a : s.hw.flag (FZ_COL_A.ACTIVE c) = true) : s.becomes (.feedZoneEnd c) fun t =>
    t.flag (FZ_COL_A.ACTIVE c) = false ∧ (t.col c).zone = {} ∧
      t.get (FZ_COL_B.ZONES c) = satAdd (FZ_COL_B.ZONES c).width (s.hw.get (FZ_COL_B.ZONES c)) 1 ∧ t.dram = s.hw.dram := by
  obtain ⟨temps, moved, suspect, next, e⟩ := s.hw.zoneEnd_active c a
  have decided := s.hw.colWork_zoneDecided c
  refine State.becomes_of_done (congrArg (done s) e) ⟨?_, ?_, ?_, decided.dram⟩
  · rw [Hw.count, Hw.flag_put_other _ _ _ _ (fzZones_fits c) (apart_zones c rfl).symm]
    exact Hw.flag_put_same _ _ false (fzActive_fits c) rfl
  · simp only [Hw.count, Hw.col_put, Hw.col_modCol_same]
  · have shown (g : Hw) (l : Loc) (v : Nat) (m : l.off ∈ [FZ_COL_A.off c]) : Hw.colWork [FZ_COL_A.off c] g (g.put l v) := g.colWork_put l v (.inr m)
    have ended := ((((decided.trans (Hw.colWork_modCol _ c fun k => { k with zone := {}, temps := temps })).trans
      (shown _ (FZ_COL_A.LAST_MOVED c) moved (List.mem_singleton_self _))).trans
      (shown _ (FZ_COL_A.ANY_SUSPECT c) suspect (List.mem_singleton_self _))).trans
      (shown _ (FZ_COL_A.INTERVAL c) next (List.mem_singleton_self _))).trans
      (shown _ (FZ_COL_A.ACTIVE c) 0 (List.mem_singleton_self _))
    rw [Hw.get_count_same _ _ _ (fzZones_fits c), ended.get _ (fzColB_off_ge c) fun m => fzColB_ne_fzColA c (List.mem_singleton.mp m)]

theorem feedZoneEnd_idle (a : s.hw.flag (FZ_COL_A.ACTIVE c) = false) : s.stays (.feedZoneEnd c) :=
  State.stays_of_done (congrArg (done s) (s.hw.zoneEnd_idle c a))

end

/-! ## FZ_FORCE -/

theorem Hw.atPll_locked (h : Hw) (block : Bool) (i : RegAccess) (f : Hw → Hw) (p : h.pllOff = false) : h.atPll block i f = f h := by
  have c : ¬ (h.pllOff ∧ (block ∨ ¬ h.mode.regHeld.isEmpty)) := fun ⟨off, _⟩ => by rw [p] at off; nomatch off
  exact if_neg c

section
variable (h : Hw) (first : Nat) (f : Col → Col)

/-- Of a run of columns each is changed once, and no other column. -/
theorem Hw.col_foldUp_modCol (n j : Nat) :
    (foldUp n (fun i g => g.modCol (first + i) f) h).col j = if first ≤ j ∧ j < first + n then f (h.col j) else h.col j := by
  induction n with
  | zero =>
    rw [if_neg (by omega)]
    rfl
  | succ n ih =>
    rw [foldUp_succ]
    obtain rfl | d := Decidable.em (j = first + n)
    · rw [Hw.col_modCol_same, ih, if_neg (by omega), if_pos (by omega)]
    · rw [Hw.col_modCol_other _ _ _ _ d, ih]
      simp only [show (first ≤ j ∧ j < first + (n + 1)) ↔ (first ≤ j ∧ j < first + n) by omega]

theorem Hw.foldUp_modCol_frame (n : Nat) :
    foldUp n (fun i g => g.modCol (first + i) f) h = { h with cols := (foldUp n (fun i g => g.modCol (first + i) f) h).cols } :=
  foldUp_keeps (fun g : Hw => g = { h with cols := g.cols }) _ _ _ rfl fun _ g k => by rw [k]; rfl

end

/-- FZ_FORCE makes a zone due at the 64 columns of its tower and changes nothing else (R94). -/
theorem fzForce_forces (k : Fin 8) (s : State) (p : s.hw.pllOff = false) : s.becomes (.fzForce k) fun t =>
    (∀ j, j / 64 = k.val → t.col j = { s.hw.col j with due := true }) ∧ (∀ j, j / 64 ≠ k.val → t.col j = s.hw.col j) ∧
      t = { s.hw with cols := t.cols } := by
  refine State.becomes_of_done (congrArg (done s) (Hw.atPll_locked _ true (.fzForce k) _ p)) ⟨fun j e => ?_, fun j n => ?_, ?_⟩
  · exact (Hw.col_foldUp_modCol _ _ _ 64 j).trans (if_pos (by omega))
  · exact (Hw.col_foldUp_modCol _ _ _ 64 j).trans (if_neg (by omega))
  · exact Hw.foldUp_modCol_frame _ _ _ 64

/-! ## VERIFY_FEED_ZONE -/

section
variable (h : Hw) (c : Nat)

/-- A correction changes its column, the two registers of its feed zones, and the event logs. -/
theorem Hw.colWork_wireCorr (level wire : Nat) : Hw.colWork [FZ_COL_A.off c, FZ_COL_B.off c] h (h.wireCorr c level wire).2 := by
  have mem : FZ_COL_A.off c < 0x20000 ∨ FZ_COL_A.off c ∈ [FZ_COL_A.off c, FZ_COL_B.off c] := .inr List.mem_cons_self
  have corr : FZ_COL_B.off c < 0x20000 ∨ FZ_COL_B.off c ∈ [FZ_COL_A.off c, FZ_COL_B.off c] := .inr (List.mem_cons_of_mem _ List.mem_cons_self)
  unfold Hw.wireCorr
  extract_lets key k recent g g'
  have noted : Hw.colWork [FZ_COL_A.off c, FZ_COL_B.off c] h g := h.colWork_modCol c _
  split
  · exact noted.trans (g.colWork_put (FZ_COL_B.IFACE_CORR c) _ corr)
  · split
    · exact (((noted.trans (g.colWork_modCol c _)).trans (Hw.colWork_put _ (FZ_COL_A.ANY_SUSPECT c) 1 mem)).trans
        (Hw.colWork_put _ (FZ_COL_A.INTERVAL c) 1 mem)).trans (Hw.colWork_ev _ _ _ _ _ _ _)
    · exact noted

theorem Hw.colWork_markSuspect (level wire : Nat) : Hw.colWork [FZ_COL_A.off c, FZ_COL_B.off c] h (h.markSuspect c level wire) := by
  have mem : FZ_COL_A.off c < 0x20000 ∨ FZ_COL_A.off c ∈ [FZ_COL_A.off c, FZ_COL_B.off c] := .inr List.mem_cons_self
  unfold Hw.markSuspect
  dsimp only
  split
  · exact .refl h
  · exact ((h.colWork_modCol c _).trans (Hw.colWork_put _ (FZ_COL_A.ANY_SUSPECT c) 1 mem)).trans
      (Hw.colWork_put _ (FZ_COL_A.INTERVAL c) 1 mem)

/-- The wire-level that a read of a calibration word corrects. -/
def Hw.calFixed (r : BurstRead) : Option (Nat × Nat) := match (h.readCal c r.level r.word r.flips).1 with
  | .corrected w => some (r.level.val, w)
  | _ => none

/-- Whether a calibration word is lost to a read. -/
def Hw.calLost (r : BurstRead) : Bool := match (h.readCal c r.level r.word r.flips).1 with
  | .bad => true
  | .poison => true
  | _ => false

theorem Hw.calFixed_clean {r : BurstRead} (e : (h.readCal c r.level r.word r.flips).1 = .clean) : h.calFixed c r = none := by
  rw [Hw.calFixed, e]

theorem Hw.calLost_clean {r : BurstRead} (e : (h.readCal c r.level r.word r.flips).1 = .clean) : h.calLost c r = false := by
  rw [Hw.calLost, e]

theorem Hw.calFixed_corrected {r : BurstRead} {w : Nat} (e : (h.readCal c r.level r.word r.flips).1 = .corrected w) :
    h.calFixed c r = some (r.level.val, w) := by
  rw [Hw.calFixed, e]

theorem Hw.calLost_corrected {r : BurstRead} {w : Nat} (e : (h.readCal c r.level r.word r.flips).1 = .corrected w) : h.calLost c r = false := by
  rw [Hw.calLost, e]

/-- A column that has had its verification zone: its owed refreshes are issued, and its PACED traffic is admitted (R90). -/
def Hw.zoneAdmits : Hw := (h.refreshAll c).modMode fun m => { m with verify := m.verify.filter (· != c) }

/-- The wire-levels corrected in a verification zone counted and marked suspect, and reported (R88, R91). -/
def Hw.zoneSuspects (fixed : List (Nat × Nat)) : Hw :=
  if fixed.isEmpty then h
  else
    let levels := (List.range 6).foldl (fun a l => a + bnat (fixed.any fun x => x.1 == l) * 2 ^ l) 0
    let g := fixed.foldl (fun h x => (h.wireCorr c x.1 x.2).2) h
    ((fixed.foldl (fun h x => h.markSuspect c x.1 x.2) g).put (FZ_COL_A.INTERVAL c) 1).ev 0x213 1 4 c levels fixed.length

/-- The end of a verification zone that has corrected the wire-levels `fixed` and lost words of the levels `lost`. -/
def Hw.zoneVerified (fixed : List (Nat × Nat)) (lost : List Nat) : Hw :=
  let g := (h.zoneAdmits c).zoneSuspects c fixed
  lost.foldl (fun h l => h.levelFail c l 1) (if fixed.isEmpty ∧ lost.isEmpty then g else g.mark (FZ_COL_A.VERIFY_FAIL c))

/-- The reads of a verification zone that reach a level that works (R74). -/
def Hw.zoneReads (reads : List BurstRead) : List BurstRead := reads.filter fun r => !(h.col c).failed.contains r.level.val

theorem Hw.verifyZone_eq (reads : List BurstRead) (v : h.mode.verify.contains c = true) (k : h.colClock c = true) :
    h.verifyZone c reads =
      h.zoneVerified c ((h.zoneReads c reads).filterMap (h.calFixed c)) (((h.zoneReads c reads).filter (h.calLost c)).map fun r => r.level.val) :=
  if_neg (by rw [v, k]; decide)

theorem Hw.verifyZone_stays (reads : List BurstRead) (n : h.mode.verify.contains c = false ∨ h.colClock c = false) : h.verifyZone c reads = h :=
  if_pos (n.imp (fun v => by rw [v]; decide) (fun k => by rw [k]; decide))

theorem Hw.contains_zoneAdmits_verify : (h.zoneAdmits c).mode.verify.contains c = false := by
  simp [Hw.zoneAdmits]

theorem Hw.get_owed_zoneAdmits : (h.zoneAdmits c).get (TMC_COL_B.OWED c) = 0 := by
  rw [Hw.zoneAdmits, Hw.get_of_csr _ _ _ (Hw.modMode_csr _ _), Hw.refreshAll, Hw.puts_cons, Hw.puts_cons, Hw.puts_nil,
    Hw.get_put_other _ _ _ _ (tmcFlush_fits c) (flush_apart_owed c), Hw.get_put_same _ _ _ (tmcOwed_fits c), Nat.zero_mod]

section
variable {fixed : List (Nat × Nat)} (ne : fixed ≠ [])
include ne

theorem Hw.colWork_zoneSuspects : Hw.colWork [FZ_COL_A.off c, FZ_COL_B.off c] h (h.zoneSuspects c fixed) := by
  have count (g : Hw) (x : Nat × Nat) : Hw.colWork [FZ_COL_A.off c, FZ_COL_B.off c] g (g.wireCorr c x.1 x.2).2 := g.colWork_wireCorr c x.1 x.2
  have mark (g : Hw) (x : Nat × Nat) : Hw.colWork [FZ_COL_A.off c, FZ_COL_B.off c] g (g.markSuspect c x.1 x.2) := g.colWork_markSuspect c x.1 x.2
  have marked := (Hw.colWork.foldl _ count fixed h).trans (Hw.colWork.foldl _ mark fixed _)
  rw [Hw.zoneSuspects, if_neg (by simpa using ne)]
  exact (marked.trans (Hw.colWork_put _ (FZ_COL_A.INTERVAL c) 1 (.inr List.mem_cons_self))).trans (Hw.colWork_ev _ _ _ _ _ _ _)

/-- The next zone of a column with wire-levels newly suspect is a millisecond away (R91). -/
theorem Hw.get_interval_zoneSuspects : (h.zoneSuspects c fixed).get (FZ_COL_A.INTERVAL c) = 1 := by
  rw [Hw.zoneSuspects, if_neg (by simpa using ne)]
  dsimp only
  rw [(Hw.colWork_ev (offs := []) _ _ _ _ _ _ _).get _ (fzColA_off_ge c) List.not_mem_nil, Hw.get_put_same _ _ _ (fzInterval_fits c)]
  rfl

/-- A zone that has corrected words and lost none shows VERIFY_FAIL. -/
theorem Hw.zoneVerified_fixed : h.zoneVerified c fixed [] = ((h.zoneAdmits c).zoneSuspects c fixed).mark (FZ_COL_A.VERIFY_FAIL c) :=
  if_neg (by simpa using ne)

end

variable (reads : List BurstRead)

/-- A zone whose words all read clean has nothing to correct and nothing lost. -/
theorem Hw.verifyZone_clean (v : h.mode.verify.contains c = true) (k : h.colClock c = true)
    (clean : ∀ r ∈ reads, (h.readCal c r.level r.word r.flips).1 = .clean) : h.verifyZone c reads = h.zoneAdmits c := by
  have reads_clean : ∀ r ∈ h.zoneReads c reads, (h.readCal c r.level r.word r.flips).1 = .clean := fun r m => clean r (List.mem_filter.mp m).1
  have fixed : (h.zoneReads c reads).filterMap (h.calFixed c) = [] :=
    List.filterMap_eq_nil_iff.mpr fun r m => h.calFixed_clean c (reads_clean r m)
  have lost : (h.zoneReads c reads).filter (h.calLost c) = [] :=
    List.filter_eq_nil_iff.mpr fun r m => by rw [h.calLost_clean c (reads_clean r m)]; decide
  rw [Hw.verifyZone_eq _ _ _ v k, fixed, lost]
  rfl

/-- A zone whose words are all corrected has wire-levels to mark suspect and nothing lost. -/
theorem Hw.verifyZone_corrected (v : h.mode.verify.contains c = true) (k : h.colClock c = true)
    (corr : ∀ r ∈ reads, (∃ w, (h.readCal c r.level r.word r.flips).1 = .corrected w) ∧ (h.col c).failed.contains r.level.val = false)
    (some_read : reads ≠ []) : ∃ fixed ≠ [], h.verifyZone c reads = ((h.zoneAdmits c).zoneSuspects c fixed).mark (FZ_COL_A.VERIFY_FAIL c) := by
  have all : h.zoneReads c reads = reads := List.filter_eq_self.mpr fun r m => by
    obtain ⟨-, works⟩ := corr r m
    rw [works]
    rfl
  have lost : reads.filter (h.calLost c) = [] := List.filter_eq_nil_iff.mpr fun r m => by
    obtain ⟨⟨w, e⟩, -⟩ := corr r m
    rw [h.calLost_corrected c e]
    decide
  have fixed : reads.filterMap (h.calFixed c) ≠ [] := by
    obtain ⟨r, m⟩ := List.exists_mem_of_ne_nil _ some_read
    obtain ⟨⟨w, e⟩, -⟩ := corr r m
    exact List.ne_nil_of_mem (List.mem_filterMap.mpr ⟨r, m, h.calFixed_corrected c e⟩)
  refine ⟨_, fixed, ?_⟩
  rw [Hw.verifyZone_eq _ _ _ v k, all, lost]
  exact h.zoneVerified_fixed c fixed

end

section
variable (c : Fin 512) (reads : List BurstRead) (s : State)

theorem verifyFeedZone_clean (v : s.hw.mode.verify.contains c.val = true) (k : s.hw.colClock c = true)
    (clean : ∀ r ∈ reads, (s.hw.readCal c r.level r.word r.flips).1 = .clean) : s.becomes (.verifyFeedZone c reads) fun t =>
      t.mode.verify.contains c.val = false ∧ t.get (TMC_COL_B.OWED c) = 0 :=
  State.becomes_of_done (congrArg (done s) (s.hw.verifyZone_clean c reads v k clean))
    ⟨s.hw.contains_zoneAdmits_verify c, s.hw.get_owed_zoneAdmits c⟩

theorem verifyFeedZone_corrected (v : s.hw.mode.verify.contains c.val = true) (k : s.hw.colClock c = true)
    (corr : ∀ r ∈ reads, (∃ w, (s.hw.readCal c r.level r.word r.flips).1 = .corrected w) ∧ (s.hw.col c).failed.contains r.level.val = false)
    (some_read : reads ≠ []) : s.becomes (.verifyFeedZone c reads) fun t =>
      t.mode.verify.contains c.val = false ∧ t.flag (FZ_COL_A.VERIFY_FAIL c) = true ∧ t.get (FZ_COL_A.INTERVAL c) = 1 := by
  obtain ⟨fixed, ne, e⟩ := s.hw.verifyZone_corrected c reads v k corr some_read
  refine State.becomes_of_done (congrArg (done s) e) ⟨?_, Hw.flag_mark_same _ _ (fzVerifyFail_fits c) rfl, ?_⟩
  · rw [Hw.mark, Hw.markBit_mode, (Hw.colWork_zoneSuspects _ c ne).mode, Hw.contains_zoneAdmits_verify]
  · rw [Hw.mark, Hw.markBit_get, Hw.get_put_other _ _ _ _ (fzVerifyFail_fits c) (verifyFail_apart_interval c),
      Hw.get_interval_zoneSuspects _ c ne]

theorem verifyFeedZone_stays (n : s.hw.mode.verify.contains c.val = false ∨ s.hw.colClock c = false) : s.stays (.verifyFeedZone c reads) :=
  State.stays_of_done (congrArg (done s) (s.hw.verifyZone_stays c reads n))

end

end Sys2Proof.Machine
end

section
/-!
The statement of this family, assembled from the laws of feed zones.
-/
namespace Sys2Proof.Machine

/-- Settles O14, clause by clause: a zone's start from the kept pass or from the counters, its end, FZ_FORCE by induction on the tower's columns, and
the verification zone by what its reads correct and lose. -/
theorem feedZones : Obligations.FeedZones := by
  unfold Obligations.FeedZones
  exact ⟨fun c burst s => ⟨feedZoneStart_starts c burst s, feedZoneStart_held c burst s⟩,
    fun c s => ⟨feedZoneEnd_ends c s, feedZoneEnd_idle c s⟩,
    fzForce_forces,
    fun c reads s => ⟨fun v k => ⟨verifyFeedZone_clean c reads s v k, verifyFeedZone_corrected c reads s v k⟩, verifyFeedZone_stays c reads s⟩⟩

end Sys2Proof.Machine
end

section
/-!
SUPPORT. Laws of the patrol (R110, R111, R113): what reading a clean calibration row leaves unchanged, how the patrol moves on and when it stays,
and the rules of SCRUB_NOW and PATCH_STORE_WRITE.
-/
namespace Sys2Proof.Machine

theorem Hw.get_of_word {a b : Hw} (l : Loc) (e : b.word l.off = a.word l.off) : b.get l = a.get l := by rw [Hw.get, e, Hw.get]

/-! ## What reading a calibration row may change -/

/-- From `a` to `b` nothing changed but column states and registers. Of these the position that the tower of column `c` shows, the row that the patrol
of the column has reached and the fill of its calibration rows stand. -/
structure Hw.calRead (c : Nat) (a b : Hw) : Prop where
  pos : b.word (PROT_SCRUBPOS.off (c / 64)) = a.word (PROT_SCRUBPOS.off (c / 64))
  frame : b = { a with csr := b.csr, cols := b.cols }
  patrol : (b.col c).patrol = (a.col c).patrol
  cal : (b.col c).cal = (a.col c).cal

section
variable {c : Nat} {a b d : Hw}

theorem Hw.calRead.refl (h : Hw) : Hw.calRead c h h := ⟨rfl, rfl, rfl, rfl⟩

theorem Hw.calRead.trans (x : Hw.calRead c a b) (y : Hw.calRead c b d) : Hw.calRead c a d :=
  ⟨y.pos.trans x.pos, by rw [y.frame, x.frame], y.patrol.trans x.patrol, y.cal.trans x.cal⟩

/-- The words of a calibration row stand with its fill. -/
theorem Hw.calRead.calWord (x : Hw.calRead c a b) (level i : Nat) : b.calWord c level i = a.calWord c level i := by
  rw [Hw.calWord, x.cal, Hw.calWord]

theorem Hw.calRead.readCal (x : Hw.calRead c a b) (level i : Nat) (flips : Wires) : b.readCal c level i flips = a.readCal c level i flips := by
  rw [Hw.readCal, x.calWord, Hw.readCal]

theorem Hw.calRead.calOuter (x : Hw.calRead c a b) (level : Nat) : b.calOuter c level = a.calOuter c level := by
  simp only [Hw.calOuter, x.calWord]

end

section
variable (h : Hw) (c : Nat)

theorem Hw.calRead_setCol (v : Col) (p : v.patrol = (h.col c).patrol) (k : v.cal = (h.col c).cal) : Hw.calRead c h (h.setCol c v) :=
  ⟨rfl, rfl, by rw [Hw.col_setCol_same, p], by rw [Hw.col_setCol_same, k]⟩

theorem Hw.calRead_put (l : Loc) (v : Nat) (n : l.off ≠ PROT_SCRUBPOS.off (c / 64)) : Hw.calRead c h (h.put l v) :=
  ⟨h.word_put_other l v _ n.symm, rfl, rfl, rfl⟩

theorem fzColA_ne_scrubPos : FZ_COL_A.off c ≠ PROT_SCRUBPOS.off (c / 64) := by unfold FZ_COL_A.off PROT_SCRUBPOS.off; omega

theorem telColB_ne_scrubPos : TEL_COL_B.off c ≠ PROT_SCRUBPOS.off (c / 64) := by unfold TEL_COL_B.off PROT_SCRUBPOS.off; omega

theorem Hw.calRead_activate (level row : Nat) (paced : Bool) : Hw.calRead c h (h.activate c level row paced) := by
  unfold Hw.activate
  extract_lets at' opened
  have x : Hw.calRead c h opened := h.calRead_setCol c _ rfl rfl
  split
  · exact x.trans (opened.calRead_put c (TEL_COL_B.ACTS c) _ (telColB_ne_scrubPos c))
  · exact x

theorem Hw.calRead_sample (level : Nat) (bad : BitVec 16) : Hw.calRead c h (h.sample c level bad) := by
  have zoneReg (g : Hw) (l : Loc) (v : Nat) (o : l.off = FZ_COL_A.off c) : Hw.calRead c g (g.put l v) := g.calRead_put c l v (o ▸ fzColA_ne_scrubPos c)
  unfold Hw.sample
  extract_lets g k full want side counts sampled all
  split
  · exact .refl h
  · split
    · exact h.calRead_setCol c sampled rfl rfl
    · split
      · have keeps : Hw.calRead c h (h.setCol c { sampled with kept := sampled.samples, samples := [] }) := h.calRead_setCol c _ rfl rfl
        exact (keeps.trans (zoneReg _ (FZ_COL_A.PASS_KEPT c) 1 rfl)).trans (zoneReg _ (FZ_COL_A.GROUP c) 0 rfl)
      · exact (h.calRead_setCol c sampled rfl rfl).trans (zoneReg _ (FZ_COL_A.GROUP c) (g + 1) rfl)

theorem Hw.calRead_sampleRead_clean (level : Nat) (bad : BitVec 16) : Hw.calRead c h (h.sampleRead c level .clean bad) := by
  unfold Hw.sampleRead
  split
  · exact .refl h
  · exact h.calRead_sample c level bad

theorem Hw.calRead_calClose : Hw.calRead c h (h.calClose c) := h.calRead_setCol c _ rfl rfl

/-! ## A calibration row that reads clean -/

/-- The 32 transfers of a row that reads clean, without a sample that differs, sampled. -/
def Hw.calSampled (level : Nat) : Hw := foldUp 32 (fun _ g => g.sampleRead c level .clean 0) h

theorem Hw.calRead_calSampled (level : Nat) : Hw.calRead c h (h.calSampled c level) :=
  foldUp_keeps (Hw.calRead c h) _ _ _ (.refl h) fun _ g x => x.trans (g.calRead_sampleRead_clean c level 0)

/-- A calibration row whose words read clean agrees with its outer code: the check samples it and logs nothing. -/
theorem Hw.scrubCal_clean (level : Nat) (clean : ∀ i, i < 32 → h.readCal c level i 0 = (.clean, h.calWord c level i)) :
    h.scrubCal c level (fun _ => (0, 0)) = h.calSampled c level := by
  have words : ((List.range 32).map fun i => h.readCal c level i 0) = (List.range 32).map fun i => (.clean, h.calWord c level i) :=
    List.map_congr_left fun i m => clean i (List.mem_range.mp m)
  have cls (i : Nat) : (((List.range 32).map fun i => (InnerCls.clean, h.calWord c level i)).getD i (.clean, 0)).1 = .clean := by
    rw [List.getD_eq_getElem?_getD, List.getElem?_map]
    cases (List.range 32)[i]? <;> rfl
  have outer : (h.calSampled c level).calOuter c level = outerCheck ((List.range 32).map fun i => h.calWord c level i) :=
    (h.calRead_calSampled c level).calOuter level
  unfold Hw.scrubCal
  simp only [words, cls, List.map_map]
  exact if_neg fun ⟨_, ne⟩ => ne outer.symm

/-! ## The patrol moves on -/

/-- The least of a list of values is at most each of them. -/
theorem foldl_min_le (f : Nat → Nat) (l : List Nat) (start : Nat) {k : Nat} (m : k ∈ l) : l.foldl (fun a i => min a (f i)) start ≤ f k := by
  have le_start (l : List Nat) (start : Nat) : l.foldl (fun a i => min a (f i)) start ≤ start := by
    induction l generalizing start with
    | nil => exact Nat.le_refl _
    | cons x l ih => exact Nat.le_trans (ih _) (Nat.min_le_left _ _)
  induction l generalizing start with
  | nil => nomatch m
  | cons x l ih =>
    obtain rfl | m := List.mem_cons.mp m
    · exact Nat.le_trans (le_start l _) (Nat.min_le_right _ _)
    · exact ih _ m

/-- A column whose patrol has rows left takes the next, and no pass of its tower ends; SEQ shows what is the least. -/
theorem Hw.patrolNext_within (lt : (h.col c).patrol + 1 < passRows) :
    ∃ least, h.patrolNext c = (h.modCol c fun k => { k with patrol := k.patrol + 1 }).put (PROT_SCRUBPOS.SEQ (c / 64)) least := by
  unfold Hw.patrolNext
  extract_lets t g least
  have least_le : least ≤ (g.col (64 * (c / 64) + c % 64)).patrol :=
    foldl_min_le (fun k => (g.col (64 * t + k)).patrol) _ _ (List.mem_range.mpr (Nat.mod_lt c (by decide)))
  rw [Nat.div_add_mod, Hw.col_modCol_same] at least_le
  exact ⟨least, if_neg (Nat.not_le.mpr (Nat.lt_of_le_of_lt least_le lt))⟩

theorem scrubSeq_fits (t : Nat) : (PROT_SCRUBPOS.SEQ t).fits := show 0 + 21 ≤ 64 by decide

theorem seq_apart_passes (t : Nat) : (PROT_SCRUBPOS.SEQ t).apart (PROT_SCRUBPOS.PASSES t) := .inr (.inl (show 0 + 21 ≤ 32 by decide))

/-- `t` is `h` with the patrol of column `c` moved on by one row: nothing changed but registers and columns, and no pass is counted. -/
def Hw.patrolMoved (t : Hw) : Prop :=
  (t.col c).patrol = (h.col c).patrol + 1 ∧ t = { h with csr := t.csr, cols := t.cols } ∧
    t.get (PROT_SCRUBPOS.PASSES (c / 64)) = h.get (PROT_SCRUBPOS.PASSES (c / 64))

/-- The patrol moves on from a row that has been read, and seen from before the read nothing else has changed. -/
theorem Hw.calRead.patrolNext {h g : Hw} {c : Nat} (x : Hw.calRead c h g) (lt : (h.col c).patrol + 1 < passRows) :
    h.patrolMoved c (g.patrolNext c) := by
  obtain ⟨least, e⟩ := g.patrolNext_within c (x.patrol.symm ▸ lt)
  rw [e]
  refine ⟨?_, ?_, ?_⟩
  · rw [Hw.col_put, Hw.col_modCol_same, x.patrol]
  · rw [x.frame]
    rfl
  · rw [Hw.get_put_other _ _ _ _ (scrubSeq_fits _) (seq_apart_passes _)]
    exact Hw.get_of_word (PROT_SCRUBPOS.PASSES (c / 64)) x.pos

/-! ## SCRUB_ROW -/

theorem Hw.closeRow_closed (level : Nat) (closed : (h.col c).openOf level = none) : h.closeRow c level = h := by
  rw [Hw.closeRow, closed]

variable (reads : List (Fin 32 × Wires × BitVec 16))

/-- With the patrol off, or the sequencer's clock standing, no row is read. -/
theorem Hw.scrubRow_off (off : h.flag (PROT_CTRL.SCRUB_EN (c / 64)) = false ∨ h.colClock c = false) : h.scrubRow c reads = h :=
  if_pos (off.imp (fun e => by rw [e]; decide) (fun e => by rw [e]; decide))

section
variable (en : h.flag (PROT_CTRL.SCRUB_EN (c / 64)) = true) (clk : h.colClock c = true)
include en clk

theorem Hw.scrub_on : ¬ (¬ h.flag (PROT_CTRL.SCRUB_EN (c / 64)) ∨ ¬ h.colClock c) := by
  rw [en, clk]
  decide

theorem Hw.scrubRow_failed (failed : (h.col c).failed.contains ((h.col c).patrol % 6) = true) : h.scrubRow c reads = h.patrolNext c := by
  unfold Hw.scrubRow
  rw [if_neg (h.scrub_on c en clk), if_pos failed]

theorem Hw.scrubRow_waits (works : (h.col c).failed.contains ((h.col c).patrol % 6) = false)
    (held : h.scrubMay c ((h.col c).patrol % 6) ((h.col c).patrol / 6) = false) : h.scrubRow c reads = h := by
  unfold Hw.scrubRow
  rw [if_neg (h.scrub_on c en clk), if_neg (by rw [works]; decide), if_pos (by rw [held]; decide)]

/-- A calibration row of a bank with no open row, with every transfer plain: it is activated, checked and closed, and the patrol moves on. -/
theorem Hw.scrubRow_calRow (works : (h.col c).failed.contains ((h.col c).patrol % 6) = false)
    (may : h.scrubMay c ((h.col c).patrol % 6) ((h.col c).patrol / 6) = true) (closed : (h.col c).openOf ((h.col c).patrol % 6) = none)
    (isCal : 1179648 ≤ (h.col c).patrol) :
    h.scrubRow c [] = (((h.activate c ((h.col c).patrol % 6) calRow false).scrubCal c ((h.col c).patrol % 6) fun _ => (0, 0)).calClose c).patrolNext c := by
  unfold Hw.scrubRow
  rw [if_neg (h.scrub_on c en clk), if_neg (by rw [works]; decide), if_neg (by rw [may]; decide), if_pos isCal, h.closeRow_closed c _ closed]
  rfl

end

end

section
variable (c : Fin 512) (s : State)

/-- A calibration row that reads clean moves the patrol on by one row (R111). -/
theorem scrubRow_calRow_moves (en : s.hw.flag (PROT_CTRL.SCRUB_EN (c / 64)) = true) (clk : s.hw.colClock c = true)
    (lt : (s.hw.col c).patrol + 1 < passRows) (works : (s.hw.col c).failed.contains ((s.hw.col c).patrol % 6) = false)
    (may : s.hw.scrubMay c ((s.hw.col c).patrol % 6) ((s.hw.col c).patrol / 6) = true) (rows : (s.hw.col c).rows = [])
    (isCal : 1179648 ≤ (s.hw.col c).patrol)
    (clean : ∀ i, i < 32 → s.hw.readCal c ((s.hw.col c).patrol % 6) i 0 = (.clean, s.hw.calWord c ((s.hw.col c).patrol % 6) i)) :
    s.becomes (.scrubRow c []) (s.hw.patrolMoved c) := by
  have closed : (s.hw.col c).openOf ((s.hw.col c).patrol % 6) = none := by rw [Col.openOf, rows, List.find?_nil]
  have opened := s.hw.calRead_activate c ((s.hw.col c).patrol % 6) calRow false
  have checked := Hw.scrubCal_clean _ c _ fun i i_lt => by rw [opened.readCal, opened.calWord, clean i i_lt]
  refine State.becomes_of_done (congrArg (done s) (s.hw.scrubRow_calRow c en clk works may closed isCal)) ?_
  rw [checked]
  exact ((opened.trans (Hw.calRead_calSampled _ c _)).trans (Hw.calRead_calClose _ c)).patrolNext lt

variable (reads : List (Fin 32 × Wires × BitVec 16))

/-- A row of a failed level is passed over (R74, R111). -/
theorem scrubRow_failed_moves (en : s.hw.flag (PROT_CTRL.SCRUB_EN (c / 64)) = true) (clk : s.hw.colClock c = true)
    (lt : (s.hw.col c).patrol + 1 < passRows) (failed : (s.hw.col c).failed.contains ((s.hw.col c).patrol % 6) = true) :
    s.becomes (.scrubRow c reads) (s.hw.patrolMoved c) :=
  State.becomes_of_done (congrArg (done s) (s.hw.scrubRow_failed c reads en clk failed)) ((Hw.calRead.refl s.hw).patrolNext lt)

theorem scrubRow_stays (held : s.hw.flag (PROT_CTRL.SCRUB_EN (c / 64)) = false ∨ s.hw.colClock c = false ∨
    ((s.hw.col c).failed.contains ((s.hw.col c).patrol % 6) = false ∧
      s.hw.scrubMay c ((s.hw.col c).patrol % 6) ((s.hw.col c).patrol / 6) = false)) : s.stays (.scrubRow c reads) := by
  refine State.stays_of_done (congrArg (done s) ?_)
  cases en : s.hw.flag (PROT_CTRL.SCRUB_EN (c / 64)) with
  | false => exact s.hw.scrubRow_off c reads (.inl en)
  | true =>
    cases clk : s.hw.colClock c with
    | false => exact s.hw.scrubRow_off c reads (.inr clk)
    | true =>
      rw [en, clk] at held
      obtain off | off | ⟨works, may⟩ := held
      · nomatch off
      · nomatch off
      · exact s.hw.scrubRow_waits c reads en clk works may

end

/-! ## SCRUB_NOW -/

/-- From `a` to `b` the patrol position that tower `t` shows and the arrays stand. -/
def Hw.keepsScrubPos (t : Nat) (a b : Hw) : Prop := b.word (PROT_SCRUBPOS.off t) = a.word (PROT_SCRUBPOS.off t) ∧ b.dram = a.dram

section
variable (h : Hw) (t : Nat)

theorem track_ne_scrubPos (n : Nat) : PROT_TRACK.off t n ≠ PROT_SCRUBPOS.off t := by unfold PROT_TRACK.off PROT_SCRUBPOS.off; omega

theorem protStat_ne_scrubPos : PROT_STAT.off t ≠ PROT_SCRUBPOS.off t := by unfold PROT_STAT.off PROT_SCRUBPOS.off; omega

theorem Hw.word_scrubPos_trackFree (n : Nat) : (h.trackFree t n).word (PROT_SCRUBPOS.off t) = h.word (PROT_SCRUBPOS.off t) := by
  unfold Hw.trackFree
  split
  · rw [Hw.word_of_csr (Hw.modTower_csr _ _ _), Hw.word_put_other _ _ _ _ (protStat_ne_scrubPos t).symm,
      Hw.word_setWord_other _ _ _ _ (track_ne_scrubPos t n).symm]
  · rfl

theorem Hw.trackFree_dram (n : Nat) : (h.trackFree t n).dram = h.dram := by
  unfold Hw.trackFree
  split
  · rw [Hw.modTower_dram, Hw.put_dram, Hw.setWord_dram]
  · rfl

theorem Hw.keepsScrubPos.modTower {a b : Hw} {t : Nat} (x : a.keepsScrubPos t b) (f : Tower → Tower) : a.keepsScrubPos t (b.modTower t f) := x

/-- The end of a pass: the tracker and the hard words are gone through, then every column of the tower is put back at row 0. -/
theorem Hw.passEnd_restarts : ∃ g, h.keepsScrubPos t g ∧
    h.passEnd t = (foldUp 64 (fun c g => g.modCol (64 * t + c) fun k => { k with patrol := 0 }) g).put (PROT_SCRUBPOS.SEQ t) 0 := by
  unfold Hw.passEnd
  extract_lets swept due
  suffices kept : h.keepsScrubPos t swept from ⟨due, kept.modTower _, rfl⟩
  refine foldUp_keeps (h.keepsScrubPos t) 64 _ h ⟨rfl, rfl⟩ fun n g kept => ?_
  obtain ⟨pos, dram⟩ := kept
  have posCleared := (g.word_put_other (PROT_TRACK.COUNT t n) 0 _ (track_ne_scrubPos t n).symm).trans pos
  dsimp only
  split
  · exact ⟨pos, dram⟩
  · split
    · exact ⟨posCleared, dram⟩
    · exact ⟨(Hw.word_scrubPos_trackFree _ t n).trans posCleared, (Hw.trackFree_dram _ t n).trans dram⟩

end

/-- SCRUB_NOW puts the patrol of every column of the tower back at row 0 and counts no pass (R111). -/
theorem scrubNow_restarts (k : Fin 8) (s : State) (p : s.hw.pllOff = false) : s.becomes (.scrubNow k) fun t =>
    t.get (PROT_SCRUBPOS.SEQ k) = 0 ∧ (∀ j, j / 64 = k.val → (t.col j).patrol = 0) ∧
      t.get (PROT_SCRUBPOS.PASSES k) = s.hw.get (PROT_SCRUBPOS.PASSES k) ∧ t.dram = s.hw.dram := by
  obtain ⟨g, ⟨pos, dram⟩, e⟩ := s.hw.passEnd_restarts k
  obtain ⟨cols, frame⟩ : ∃ cols, foldUp 64 (fun c g => g.modCol (64 * k + c) fun x => { x with patrol := 0 }) g = { g with cols := cols } :=
    ⟨_, Hw.foldUp_modCol_frame _ _ _ _⟩
  refine State.becomes_of_done (congrArg (done s) ((Hw.atPll_locked _ true (.scrubNow k) _ p).trans e)) ⟨?_, fun j tower => ?_, ?_, ?_⟩
  · rw [Hw.get_put_same _ _ _ (scrubSeq_fits k), Nat.zero_mod]
  · rw [Hw.col_put, Hw.col_foldUp_modCol, if_pos (by omega)]
  · rw [Hw.get_put_other _ _ _ _ (scrubSeq_fits k) (seq_apart_passes k), frame]
    exact Hw.get_of_word (PROT_SCRUBPOS.PASSES k) pos
  · rw [Hw.put_dram, frame]
    exact dram

/-! ## PATCH_STORE_WRITE -/

/-- A table into which the values of a list of numbers are written, from `base` on: each number of the list reads as its value, every other entry stands. -/
theorem tget_foldl_tset {α : Type} [DecidableEq α] (d : Nat → α) (base : Nat) (v : Nat → α) (l : List Nat) (m : Tab α) (j : Nat) :
    tget d (l.foldl (fun m n => tset d m (base + n) (v n)) m) (base + j) = if j ∈ l then v j else tget d m (base + j) := by
  induction l generalizing m with
  | nil => rw [if_neg List.not_mem_nil, List.foldl_nil]
  | cons n l ih =>
    rw [List.foldl_cons, ih]
    obtain rfl | ne := Decidable.em (j = n)
    · simp
    · rw [tget_tset_other _ _ _ _ _ (by omega)]
      simp [ne]

/-- The new patch entries of a tower reach the patch store of flash, and none is left to write (R113). -/
theorem patchStoreWrite_stores (k : Fin 8) (s : State) : s.becomes (.patchStoreWrite k) fun t =>
    (t.tower k).unsaved = [] ∧ (∀ n ∈ (s.hw.tower k).unsaved, tget (fun _ => 0) t.flash.patches (16 * k + n) = s.hw.word (PROT_PATCH.off k n)) ∧
      t.csr = s.hw.csr ∧ t.dram = s.hw.dram := by
  refine State.becomes_of_done rfl ⟨?_, fun n m => ?_, rfl, rfl⟩
  · rw [Hw.tower_modTower_same]
  · exact (tget_foldl_tset _ (16 * k) (fun n => s.hw.word (PROT_PATCH.off k n)) _ _ n).trans (if_pos m)

end Sys2Proof.Machine
end

section
/-!
The statement of this family, assembled from the laws of the patrol.
-/
namespace Sys2Proof.Machine

/-- Settles O16, clause by clause: SCRUB_ROW by the row that the patrol has reached, SCRUB_NOW by the end of a pass, and PATCH_STORE_WRITE by the list
of new entries. -/
theorem patrol : Obligations.Patrol := by
  unfold Obligations.Patrol
  exact ⟨fun c s en clk lt => ⟨fun works may rows isCal clean => scrubRow_calRow_moves c s en clk lt works may rows isCal clean,
      fun failed reads => scrubRow_failed_moves c s reads en clk lt failed⟩,
    fun c reads s => scrubRow_stays c s reads,
    scrubNow_restarts,
    fun k s _ => patchStoreWrite_stores k s⟩

end Sys2Proof.Machine
end
